-- ==== Sys2Proof/Word.lean ====
section
/-! DEFINITION. The word types of the machine and their plainest arithmetic (spec 00_scope R1, R2, R5). -/

namespace Sys2Proof

/-- A byte of memory. -/
abbrev Byte := BitVec 8

/-- A vector element or an instruction word. -/
abbrev Word := BitVec 32

/-- A uniform register, a handle, a qword. -/
abbrev QWord := BitVec 64

/-- A set of lanes; lane j of a team is bit j (R20: bit j mod 32 of mask word j / 32). -/
abbrev Mask := BitVec 1024

/-- Wrap32 and Wrap64 of R182 and R213 on integers. -/
def wrap32 (z : Int) : Word := BitVec.ofInt 32 z

def wrap64 (z : Int) : QWord := BitVec.ofInt 64 z

end Sys2Proof
end

