-- ==== Sys2Proof/Syntax.lean ====
section
/-! DEFINITION. The instructions of Mael and the steps of the machine, as terms: operand sources and selectors
(spec 10 R166 to R174, and the tables of 11 to 14), the operands of the steps without encoding, and Instr, which has
one constructor per row of spec/opcode_table.json. -/

namespace Sys2Proof

/-- A source field of Table 10.2. A constant holds code - 96; its value is that minus 16. -/
inductive Src where
  | v (r : BitVec 6)
  | b (k : BitVec 2)
  | lane
  | const (c : BitVec 5)
  deriving DecidableEq, Repr

/-- The conditions of Table 11.3; under VCMPF, ltn stands for .un and gen for .ord. -/
inductive Cond where
  | eq | ne | lt | le | gt | ge | ltn | gen
  deriving DecidableEq, Repr

/-- The forms of VV2P (Table 11.4). -/
inductive V2PCond where
  | any | none | all
  deriving DecidableEq, Repr

/-- Format codes 1 to 5 of CVT (Table 11.7). -/
inductive CvtFmt where
  | fp16 | bf16 | e4m3 | e5m2 | e2m1
  deriving DecidableEq, Repr

/-- Format codes 1 to 3 of CVTSC.q and QSCALE. -/
inductive QFmt where
  | e4m3 | e5m2 | e2m1
  deriving DecidableEq, Repr

/-- Format codes 5 to 7 of CVTSC.d. -/
inductive DFmt where
  | e4m3 | e5m2 | e2m1
  deriving DecidableEq, Repr

/-- Format codes 1 to 4 of PACK. -/
inductive PackFmt where
  | i8 | n8 | i4 | n4
  deriving DecidableEq, Repr

/-- Format codes 1 to 7 of UNPK. -/
inductive UnpkFmt where
  | fp16 | bf16 | e4m3 | e5m2 | e2m1 | i8 | i4
  deriving DecidableEq, Repr

/-- Format codes 1 to 5 of I2F and F2I. -/
inductive IntFmt where
  | i32 | i8 | i4 | n8 | n4
  deriving DecidableEq, Repr

/-- Access sizes of VM: 1, 2, 4 or 8 bytes. -/
inductive Size where
  | b1 | b2 | b4 | b8
  deriving DecidableEq, Repr

/-- Atomic operations of Table 13.2. -/
inductive AOp where
  | add | and | or | xor | min | max | minn | maxn
  deriving DecidableEq, Repr

/-- The aop of CASG and XCHG: 32-bit or 64-bit. -/
inductive Wide where
  | w32 | w64
  deriving DecidableEq, Repr

/-- The aop of FADDG. -/
inductive AddFmt where
  | f32 | h2 | b2
  deriving DecidableEq, Repr

/-- Scopes of Table 5.6 and of FENCE. -/
inductive Scope where
  | team | crew | fleet | die | partition | system
  deriving DecidableEq, Repr

/-- Conditions of WAITV (R246). -/
inductive WCond where
  | eq | ne | ltn | gen
  deriving DecidableEq, Repr

/-- Modes of REPL (R248) and of an access's REPL field (Table 5.6). -/
inductive ReplMode where
  | adaptive | never | eager
  deriving DecidableEq, Repr

/-- A barrier named by BARA, BARW, BARAW: class and index. -/
inductive Bar where
  | cb (n : BitVec 4)
  | fb (n : BitVec 3)
  | lb (n : BitVec 2)
  deriving DecidableEq, Repr

/-- Formats of MST (R266). -/
inductive StFmt where
  | fp32 | bf16 | fp16 | e4m3 | e5m2
  deriving DecidableEq, Repr

/-- Administration commands of Table 21.1 with their operands; bad stands for an unknown OP or a non-zero reserved
field (R358). vf is the VF field of Q0. -/
inductive AdminCmd where
  | pcreate (vf mask lease : Nat)
  | presize (vf mask : Nat)
  | preset (vf : Nat)
  | pdestroy (vf : Nat)
  | pools (vf : Nat) (lane laneSize frame frameSize list listSize : Nat)
  | setlease (vf lease : Nat)
  | sethbi (hbi : Nat)
  | setwdog (vf waitlim runlim : Nat)
  | qcreate (vf q base size asid level pmax evb evsize : Nat)
  | qdestroy (vf q : Nat)
  | otset (vf asid base len : Nat)
  | tinval (vf asid obj : Nat)
  | gang (vf number count member leader : Nat) (eager : Bool) (q entry : Nat)
  | stread (vf ns lba blocks handle : Nat)
  | stwrite (vf ns lba blocks handle : Nat)
  | hostcpy (vf addr handle len : Nat) (toHost : Bool)
  | bad
  deriving DecidableEq, Repr

/-- A unit of Table 23.3 that an uncorrectable error can make lost. line is a physical address over 128, cached such a line struck in an
L2 slice or an L1, word a scratchpad location over 4, desc an address of a descriptor or extent entry, mended such a one that has been
written since, elem a counter element. -/
inductive LostUnit where
  | line (n : Nat)
  | cached (n : Nat)
  | word (n : Nat)
  | tile (core mt : Nat)
  | elem (key : Nat)
  | desc (addr : Nat)
  | mended (addr : Nat)
  deriving DecidableEq, Repr

/-- A physical row of R353: the kind of memory and the row's number in it. -/
inductive MemRow where
  | t1 (row : Nat)
  | t2 (row : Nat)
  | l2 (row : Nat)
  | spad (row : Nat)
  deriving DecidableEq, Repr

/-- Where a corrected error was counted: a memory row (R353), or a register-file lane of a slice (R365). -/
inductive ErrSite where
  | row (r : MemRow)
  | lane (slice lane : Nat)
  | copy (die line : Nat)
  deriving DecidableEq, Repr

/-- The outcome of the ROM's check of the firmware image (R316, R375). -/
inductive ImageCheck where
  | good | badSignature | badKey | unreadable
  deriving DecidableEq, Repr

/-- What a remote request asks of its target module (R314). -/
inductive RemoteOp where
  | read (len : Nat)
  | write (data : List Byte)
  | rmw (op : AOp) (len : Nat) (v : QWord)
  | swap (len : Nat) (v : QWord)
  | cas (len : Nat) (expect v : QWord)
  | scas (expect v : QWord)
  | fadd (f : AddFmt) (v : Word) (mode : Nat)
  deriving DecidableEq, Repr

/-- A request that reaches this module over the fabric: the path's module and sequence number (R371), the object there
and the operation. -/
structure RemoteReq where
  src  : Nat
  seq  : Nat
  asid : Nat
  obj  : Nat
  off  : Nat
  op   : RemoteOp
  deriving DecidableEq, Repr

/-- A reply to a request of this module: data, a refusal with the target's cause and detail, or a data error (R372). -/
inductive RemoteAns where
  | ok (data : List Byte)
  | refused (cause detail : Nat)
  | dataError
  deriving DecidableEq, Repr

/-- Algorithms offered to NEGOTIATE_ALGORITHMS (R317). -/
inductive SpdmAlgorithm where
  | rsassa3072Sha256
  | other (code : Nat)
  deriving DecidableEq, Repr

/-- What a Redfish request asks for (R317 and the rules that say what Redfish reports). -/
inductive RedfishItem where
  | temperatures | railCurrents | linkStates | granuleSets | correctedErrors | spares | retired | retiredCores
  | unwrittenCompletions | unwrittenRecords | deferredPromotions | moduleStatus
  deriving DecidableEq, Repr

/-- VR of Table 10.1: destination, two sources, guard. -/
structure VR where
  nw : Bool
  vd : BitVec 6
  sa : Src
  sb : Src
  pg : BitVec 3
  deriving DecidableEq, Repr

/-- VR with sb unused (R185): the unary forms. -/
structure VU where
  nw : Bool
  vd : BitVec 6
  sa : Src
  pg : BitVec 3
  deriving DecidableEq, Repr

/-- VR with both sources unused: VP2V (R194). -/
structure VP where
  nw : Bool
  vd : BitVec 6
  pg : BitVec 3
  deriving DecidableEq, Repr

/-- VC of Table 10.1: the compares. -/
structure VC where
  pd : BitVec 3
  cond : Cond
  sa : Src
  sb : Src
  pg : BitVec 3
  deriving DecidableEq, Repr

/-- VC as VV2P reads it (Table 11.4). -/
structure VV where
  pd : BitVec 3
  cond : V2PCond
  sa : Src
  sb : Src
  pg : BitVec 3
  deriving DecidableEq, Repr

/-- VR with a format code of Table 11.7 in pg: CVT. -/
structure VCvt where
  nw : Bool
  vd : BitVec 6
  sa : Src
  sb : Src
  f : CvtFmt
  deriving DecidableEq, Repr

/-- VR with a format code of Table 11.7 in pg: CVTSC.q and QSCALE. -/
structure VQ where
  nw : Bool
  vd : BitVec 6
  sa : Src
  sb : Src
  f : QFmt
  deriving DecidableEq, Repr

/-- VR with a format code of Table 11.7 in pg: CVTSC.d. -/
structure VD where
  nw : Bool
  vd : BitVec 6
  sa : Src
  sb : Src
  f : DFmt
  deriving DecidableEq, Repr

/-- VR with a format code of Table 11.7 in pg: PACK. -/
structure VPack where
  nw : Bool
  vd : BitVec 6
  sa : Src
  sb : Src
  f : PackFmt
  deriving DecidableEq, Repr

/-- VR with a format code of Table 11.7 in pg: UNPK. -/
structure VUnpk where
  nw : Bool
  vd : BitVec 6
  sa : Src
  sb : Src
  f : UnpkFmt
  deriving DecidableEq, Repr

/-- VR with a format code of Table 11.7 in pg and sb unused: I2F, F2I. -/
structure VInt where
  nw : Bool
  vd : BitVec 6
  sa : Src
  f : IntFmt
  deriving DecidableEq, Repr

/-- VI of Table 10.1. -/
structure VI where
  nw : Bool
  vd : BitVec 6
  sa : Src
  imm : BitVec 10
  deriving DecidableEq, Repr

/-- VM of Table 10.1: vector loads and stores. -/
structure VM where
  vt : BitVec 6
  so : Src
  sbase : BitVec 6
  size : Size
  spol : BitVec 3
  deriving DecidableEq, Repr

/-- VA of Table 10.1 with an operation of Table 13.2. -/
structure VA where
  vt : BitVec 6
  so : Src
  sbase : BitVec 6
  aop : AOp
  spol : BitVec 2
  deriving DecidableEq, Repr

/-- VA as CASG and XCHG read aop: the width. -/
structure VW where
  vt : BitVec 6
  so : Src
  sbase : BitVec 6
  wide : Wide
  spol : BitVec 2
  deriving DecidableEq, Repr

/-- VA as FADDG reads aop: the format. -/
structure VF where
  vt : BitVec 6
  so : Src
  sbase : BitVec 6
  f : AddFmt
  spol : BitVec 2
  deriving DecidableEq, Repr

/-- SR of Table 10.3 with a zero modifier: three registers. -/
structure SR where
  sd : BitVec 6
  sa : BitVec 6
  sb : BitVec 6
  deriving DecidableEq, Repr

/-- SR with modifier bit 0, the natural form. -/
structure SN where
  sd : BitVec 6
  sa : BitVec 6
  sb : BitVec 6
  n : Bool
  deriving DecidableEq, Repr

/-- SR with a condition in the modifier: SCMP. -/
structure SC where
  sd : BitVec 6
  sa : BitVec 6
  sb : BitVec 6
  cond : Cond
  deriving DecidableEq, Repr

/-- SR with sb unused. -/
structure SU where
  sd : BitVec 6
  sa : BitVec 6
  deriving DecidableEq, Repr

/-- SI of Table 10.3. -/
structure SI where
  sd : BitVec 6
  sa : BitVec 6
  imm : BitVec 12
  deriving DecidableEq, Repr

/-- SL of Table 10.3. -/
structure SL where
  sd : BitVec 6
  imm : BitVec 18
  deriving DecidableEq, Repr

/-- SR as the team reductions read it. -/
structure SRed where
  sd : BitVec 6
  va : BitVec 6
  n : Bool
  pg : BitVec 3
  deriving DecidableEq, Repr

/-- SR as REDFADD and BALLOT read it: N is zero. -/
structure SRedF where
  sd : BitVec 6
  sa : BitVec 6
  pn : BitVec 3
  deriving DecidableEq, Repr

/-- SR as ANYL reads it. -/
structure SAny where
  sd : BitVec 6
  all : Bool
  pn : BitVec 3
  deriving DecidableEq, Repr

/-- SR as VBCS reads it. -/
structure SBcs where
  vd : BitVec 6
  sa : BitVec 6
  w : Bool
  deriving DecidableEq, Repr

/-- SR as VGETL and VSETL read it: destination, source, lane number. -/
structure SLane where
  d : BitVec 6
  a : BitVec 6
  sb : BitVec 6
  w : Bool
  deriving DecidableEq, Repr

/-- SB with sa zero: a displacement. -/
structure SJ where
  disp : BitVec 18
  deriving DecidableEq, Repr

/-- SB of Table 10.3: a tested register and a displacement. -/
structure SB where
  sa : BitVec 6
  disp : BitVec 18
  deriving DecidableEq, Repr

/-- SB with a predicate at [20:18]. -/
structure SPB where
  pn : BitVec 3
  disp : BitVec 18
  deriving DecidableEq, Repr

/-- SR with a predicate in the modifier: BRK, CONT. -/
structure SP where
  pn : BitVec 3
  deriving DecidableEq, Repr

/-- SR or SI naming only sa: RET, ERET. -/
structure S1 where
  sa : BitVec 6
  deriving DecidableEq, Repr

/-- SBX of Table 10.3: FORKL. -/
structure SBX where
  sa : BitVec 6
  sb : BitVec 6
  disp : BitVec 12
  deriving DecidableEq, Repr

/-- SI as FRES reads it. -/
structure SFres where
  sa : BitVec 6
  k : BitVec 12
  deriving DecidableEq, Repr

/-- SI as FRGET reads it. -/
structure SFrget where
  sd : BitVec 6
  k : BitVec 12
  deriving DecidableEq, Repr

/-- SR as ENQ and REFILL read it. -/
structure SItem where
  sd : BitVec 6
  sa : BitVec 6
  vb : BitVec 6
  pn : BitVec 3
  deriving DecidableEq, Repr

/-- SM of Table 10.3: uniform loads and stores, PFETCH. -/
structure SM where
  sd : BitVec 6
  sbase : BitVec 6
  soff : BitVec 6
  spol : BitVec 5
  deriving DecidableEq, Repr

/-- SA of Table 10.3 with an operation: SATOM. -/
structure SA where
  sd : BitVec 6
  sbase : BitVec 6
  sv : BitVec 6
  aop : AOp
  spol : BitVec 3
  deriving DecidableEq, Repr

/-- SA with a zero operation: SCAS, SXCH. -/
structure SX3 where
  sd : BitVec 6
  sbase : BitVec 6
  sv : BitVec 6
  spol : BitVec 3
  deriving DecidableEq, Repr

/-- SA with [5:3] zero: BCSET. -/
structure SBcset where
  sd : BitVec 6
  sbase : BitVec 6
  sv : BitVec 6
  spol : BitVec 3
  deriving DecidableEq, Repr

/-- SA as BCINC reads it. -/
structure SBcinc where
  sbase : BitVec 6
  sv : BitVec 6
  spol : BitVec 3
  deriving DecidableEq, Repr

/-- SA as BCREAD reads it. -/
structure SBcread where
  sd : BitVec 6
  sbase : BitVec 6
  spol : BitVec 3
  deriving DecidableEq, Repr

/-- SR as FENCE reads it. -/
structure SFence where
  scope : Scope
  deriving DecidableEq, Repr

/-- SR naming sa and sb: IFENCE. -/
structure SIfence where
  sa : BitVec 6
  sb : BitVec 6
  deriving DecidableEq, Repr

/-- SA as WAITV reads it. -/
structure SWaitv where
  sd : BitVec 6
  sbase : BitVec 6
  sv : BitVec 6
  w32 : Bool
  cond : WCond
  spol : BitVec 3
  deriving DecidableEq, Repr

/-- SR as REPL reads it. -/
structure SRepl where
  sa : BitVec 6
  sb : BitVec 6
  mode : ReplMode
  deriving DecidableEq, Repr

/-- SI as BARA and BARAW read it. -/
structure SBar where
  sd : BitVec 6
  bar : Bar
  deriving DecidableEq, Repr

/-- SI as BARW reads it. -/
structure SBarw where
  sd : BitVec 6
  sa : BitVec 6
  bar : Bar
  deriving DecidableEq, Repr

/-- SI as TBINIT reads it. -/
structure STbinit where
  sa : BitVec 6
  tb : BitVec 6
  deriving DecidableEq, Repr

/-- SI as TBARR reads it. -/
structure STbarr where
  sd : BitVec 6
  tb : BitVec 6
  deriving DecidableEq, Repr

/-- SI as TBWAIT reads it. -/
structure STbwait where
  sd : BitVec 6
  sa : BitVec 6
  tb : BitVec 6
  deriving DecidableEq, Repr

/-- SI as WAITT reads it. -/
structure SWaitt where
  sd : BitVec 6
  any : Bool
  mask : BitVec 8
  deriving DecidableEq, Repr

/-- SE of Table 10.3: CPY and CPYT. -/
structure SE where
  ra : BitVec 6
  rb : BitVec 6
  rc : BitVec 6
  ct : BitVec 3
  spol : BitVec 3
  deriving DecidableEq, Repr

/-- SX of Table 10.3: MLOOP. -/
structure SX where
  mt : BitVec 4
  va : BitVec 6
  reuse : Bool
  sb : BitVec 6
  ct : BitVec 3
  deriving DecidableEq, Repr

/-- SE as MLD reads it. -/
structure SMld where
  ra : BitVec 6
  rb : BitVec 6
  mt : BitVec 4
  ct : BitVec 3
  deriving DecidableEq, Repr

/-- SE as MST reads it. -/
structure SMst where
  ra : BitVec 6
  rb : BitVec 6
  mt : BitVec 4
  ct : BitVec 3
  f : StFmt
  deriving DecidableEq, Repr

/-- SE as MZERO reads it. -/
structure SMzero where
  mt : BitVec 4
  ct : BitVec 3
  deriving DecidableEq, Repr

/-- SE as MSCL reads it. -/
structure SMscl where
  ra : BitVec 6
  rb : BitVec 6
  rc : BitVec 6
  deriving DecidableEq, Repr

/-- SI as SYSR reads it. -/
structure SSysr where
  sd : BitVec 6
  id : BitVec 12
  deriving DecidableEq, Repr

/-- SI as SYSW reads it. -/
structure SSysw where
  sa : BitVec 6
  id : BitVec 12
  deriving DecidableEq, Repr

/-- SI as RMSET reads it. -/
structure SRm where
  sd : BitVec 6
  sa : BitVec 6
  reg : Bool
  value : BitVec 4
  deriving DecidableEq, Repr

/-- SI as PRIO reads it. -/
structure SPr where
  sd : BitVec 6
  sa : BitVec 6
  reg : Bool
  value : BitVec 3
  deriving DecidableEq, Repr

/-- SI as TRAP and BRKPT read it. -/
structure SCode where
  code : BitVec 12
  deriving DecidableEq, Repr

/-- One constructor per row of spec/opcode_table.json: the 222 instruction words, then the 123 whole steps of
the machine and its surroundings, whose arguments are what the outside world or the machine's free choices supply. -/
inductive Instr where
  | vadd (o : VR)
  | vsub (o : VR)
  | vmul (o : VR)
  | vmulh (o : VR)
  | vmulhn (o : VR)
  | vmad (o : VR)
  | vmin (o : VR)
  | vmax (o : VR)
  | vminn (o : VR)
  | vmaxn (o : VR)
  | vand (o : VR)
  | vor (o : VR)
  | vxor (o : VR)
  | vandn (o : VR)
  | vshl (o : VR)
  | vshr (o : VR)
  | vsar (o : VR)
  | vrot (o : VR)
  | vaddc (o : VR)
  | vsubb (o : VR)
  | vabsd (o : VR)
  | vclz (o : VU)
  | vpopc (o : VU)
  | vbrev (o : VU)
  | vsel (o : VR)
  | vmov (o : VU)
  | vbfx (o : VR)
  | vbfi (o : VR)
  | vadds (o : VR)
  | vsubs (o : VR)
  | vdiv (o : VR)
  | vrem (o : VR)
  | vcmp (o : VC)
  | vcmpf (o : VC)
  | vpop (o : VU)
  | vp2v (o : VP)
  | vv2p (o : VV)
  | vfcls (o : VU)
  | fadd (o : VR)
  | fsub (o : VR)
  | fmul (o : VR)
  | ffma (o : VR)
  | fnma (o : VR)
  | fmin (o : VR)
  | fmax (o : VR)
  | fneg (o : VU)
  | fabs (o : VU)
  | frcp (o : VU)
  | frsq (o : VU)
  | fsqrt (o : VU)
  | fexp2 (o : VU)
  | flog2 (o : VU)
  | frint (o : VU)
  | fscale (o : VR)
  | hadd2 (o : VR)
  | hmul2 (o : VR)
  | hfma2 (o : VR)
  | badd2 (o : VR)
  | bmul2 (o : VR)
  | bfma2 (o : VR)
  | fdiv (o : VR)
  | cvt (o : VCvt)
  | cvtscQ (o : VQ)
  | cvtscD (o : VD)
  | pack (o : VPack)
  | unpk (o : VUnpk)
  | dot4i8 (o : VR)
  | dot4n8 (o : VR)
  | dot8i4 (o : VR)
  | dot4e4 (o : VR)
  | dot4e5 (o : VR)
  | dot8f4 (o : VR)
  | qscale (o : VQ)
  | i2f (o : VInt)
  | f2i (o : VInt)
  | xshfl (o : VR)
  | xup (o : VR)
  | xdn (o : VR)
  | xbfly (o : VR)
  | xbcast (o : VR)
  | xscan (o : VR)
  | vaddi (o : VI)
  | vandi (o : VI)
  | vori (o : VI)
  | vxori (o : VI)
  | vshli (o : VI)
  | vshri (o : VI)
  | vsari (o : VI)
  | vldi (o : VI)
  | ldl (o : VM)
  | stl (o : VM)
  | ldc (o : VM)
  | stc (o : VM)
  | ldf (o : VM)
  | stf (o : VM)
  | ldd (o : VM)
  | std (o : VM)
  | ldg (o : VM)
  | stg (o : VM)
  | atomg (o : VA)
  | atomgn (o : VA)
  | casg (o : VW)
  | xchg (o : VW)
  | faddg (o : VF)
  | atomc (o : VA)
  | sadd (o : SR)
  | ssub (o : SR)
  | smul (o : SR)
  | smulh (o : SN)
  | sand (o : SR)
  | sor (o : SR)
  | sxor (o : SR)
  | sshl (o : SR)
  | sshr (o : SR)
  | ssar (o : SR)
  | smin (o : SN)
  | smax (o : SN)
  | scmp (o : SC)
  | spopc (o : SU)
  | sclz (o : SU)
  | smov (o : SU)
  | saddi (o : SI)
  | sandi (o : SI)
  | sori (o : SI)
  | sxori (o : SI)
  | sshli (o : SI)
  | sshri (o : SI)
  | sldi (o : SL)
  | sldu (o : SL)
  | hmake (o : SR)
  | haddo (o : SR)
  | redadd (o : SRed)
  | redmin (o : SRed)
  | redmax (o : SRed)
  | redfadd (o : SRedF)
  | ballot (o : SRedF)
  | anyl (o : SAny)
  | vbcs (o : SBcs)
  | vgetl (o : SLane)
  | vsetl (o : SLane)
  | bra (o : SJ)
  | bz (o : SB)
  | bnz (o : SB)
  | call (o : SJ)
  | ret (o : S1)
  | jmpi (o : SU)
  | rpush (o : SJ)
  | brv (o : SPB)
  | rjoin
  | lpush (o : SJ)
  | brk (o : SP)
  | cont (o : SP)
  | bloop (o : SPB)
  | tend
  | yield
  | nop
  | fork (o : SJ)
  | forkv (o : SJ)
  | forkl (o : SBX)
  | join
  | take (o : SU)
  | ppt
  | fres (o : SFres)
  | frget (o : SFrget)
  | enq (o : SItem)
  | refill (o : SItem)
  | waitq (o : SU)
  | trig
  | waitdep
  | sldg (o : SM)
  | sstg (o : SM)
  | sldc (o : SM)
  | sstc (o : SM)
  | sldf (o : SM)
  | sstf (o : SM)
  | sldd (o : SM)
  | sstd (o : SM)
  | satom (o : SA)
  | scas (o : SX3)
  | sxch (o : SX3)
  | bcdecAll (o : SBcset)
  | bcdecPart (o : SBcset)
  | bcinc (o : SBcinc)
  | bcread (o : SBcread)
  | bcset (o : SBcset)
  | fence (o : SFence)
  | ifence (o : SIfence)
  | waitv (o : SWaitv)
  | pfetch (o : SM)
  | repl (o : SRepl)
  | bara (o : SBar)
  | barw (o : SBarw)
  | baraw (o : SBar)
  | tbinit (o : STbinit)
  | tbarr (o : STbarr)
  | tbwait (o : STbwait)
  | waitt (o : SWaitt)
  | cpy (o : SE)
  | cpyt (o : SE)
  | mloop (o : SX)
  | mld (o : SMld)
  | mst (o : SMst)
  | mzero (o : SMzero)
  | mscl (o : SMscl)
  | sysr (o : SSysr)
  | sysw (o : SSysw)
  | rmset (o : SRm)
  | prio (o : SPr)
  | trap (o : SCode)
  | brkpt (o : SCode)
  | eret (o : S1)
  | tctlState (o : SR)
  | tctlPark (o : SR)
  | tctlResume (o : SR)
  | tctlKill (o : SR)
  | tctlAbort (o : SR)
  | tctlDbg (o : SR)
  | haltStop (o : SU)
  | haltGo (o : SU)
  | cancelLaunch (o : SU)
  | cancelPhase (o : SU)
  | cancelJob (o : SU)
  /-- A unit detects a fault after retirement; the team parks at its next boundary (R321) -/
  | impreciseFault (tk : Nat)
  /-- The ordering machine satisfies a queued load from the first source that holds each byte (R87) -/
  | satisfyLoad (tk id piece : Nat) (grant : Bool)
  /-- A replica of a line on some die is removed (R88) -/
  | replicaCollapse (die line : Nat)
  /-- A replica's lease expires and it is no longer read (R88) -/
  | leaseExpiry (die line : Nat)
  /-- A store moves from the team's store queue into its core view (R90) -/
  | leaveStoreQueue (tk id : Nat)
  /-- A store of the core view is performed at its home and enters coherence order (R90) -/
  | perform (core id : Nat)
  /-- An atomic reads, writes and returns at its home in one step (R95) -/
  | atomicPerform (tk id : Nat)
  /-- A fence completes once earlier and observed stores reach the scope's level (R94) -/
  | fenceComplete (tk id : Nat)
  /-- On a TLB miss the walker reads the descriptor and extent list and fills the TLB (R74) -/
  | tlbWalk (cluster asid obj gran : Nat)
  /-- A core requests one token of a line from its token home (R110) -/
  | gets (core line : Nat)
  /-- A core requests all tokens of a line; the home recalls the other holders (R110) -/
  | getx (core line : Nat)
  /-- The token home sends line data and tokens to a core (R109) -/
  | data (core line : Nat)
  /-- The home asks the owner to write back and return 63 tokens (R110) -/
  | down (core line : Nat)
  /-- The home asks a core to return every token of a line (R110) -/
  | recall (core line : Nat)
  /-- A core returns its tokens, and data if it held the owner token (R111) -/
  | tack (core line : Nat)
  /-- A core returns all its tokens of an evicted line unsolicited (R111) -/
  | evict (core line : Nat)
  /-- The home refuses a request that lost a race; the core retries (R110) -/
  | nack (core line : Nat)
  /-- A persistent request queued per line and granted in arrival order (R110) -/
  | pers (core line : Nat) (write : Bool)
  /-- The home tells a die to recall its tokens and drop its replica (R115) -/
  | collapse (die line : Nat)
  /-- A die acknowledges a collapse; the home clears its RVEC bit (R115) -/
  | cack (die line : Nat)
  /-- At each 10,000 ns window end Fennel applies the degree rules to each granule (R119) -/
  | fennelWindowEnd
  /-- A designated slice asks the counter home for a BCDEC's shortfall (R122) -/
  | shortfallRequest (elem die : Nat)
  /-- The home grants part of the reserve to a slice, which serves the waiting BCDEC (R123) -/
  | counterGrant (elem : Nat)
  /-- The home recalls every die's allowance of a counter element (R124) -/
  | counterRecall (elem : Nat)
  /-- A slice returns its allowance; the last answer lets the home serve the queue and redistribute (R124) -/
  | recallAnswer (elem die : Nat)
  /-- A BCINC forwarded to the home joins or starts a recall (R351) -/
  | forwardedBcinc (elem die : Nat)
  /-- A designated slice does not answer within 10 µs; the element becomes lost (R352) -/
  | counterRecallTimeout (elem die : Nat)
  /-- A persistent request not granted in 20 µs faults COHERE and isolates the silent core (R349) -/
  | persistentRequestTimeout (core line silent : Nat)
  /-- A RECALL unanswered in 10 µs faults COHERE; tokens are recreated (R349) -/
  | recallTimeout (core line : Nat)
  /-- The streamer translates and moves one chunk of a copy (R258) -/
  | copyChunk (core id : Nat)
  /-- A copy completes; its token goes idle and its barrier arrival counts (R99) -/
  | copyComplete (core id : Nat)
  /-- The sequencer starts and applies one matrix step when the allowance test passes (R264) -/
  | matrixStep (core : Nat)
  /-- A matrix or tile command completes and its token may become idle (R253) -/
  | engineCommandComplete (core : Nat)
  /-- An engine command with no start for 512 cycles starts its next step without the test (R154) -/
  | engineStarvationStart (core : Nat) (copy : Bool)
  /-- The driver writes a queue's new TAIL, making packets readable (R309) -/
  | launchQueueDoorbell (vf q tail : Nat)
  /-- The driver writes EVHEAD; held events are written into freed entries (R309) -/
  | eventHeadDoorbell (vf q head : Nat)
  /-- The driver signals new administration commands in the ring (R307) -/
  | adminDoorbell (cmds : List (List (BitVec 64)))
  /-- The distributor reads a packet at its queue's head, checks it and updates phase bookkeeping (R378) -/
  | launchPacketRead (vf q : Nat)
  /-- The distributor places a whole fleet when room appears (R31) -/
  | fleetPlacement (launch : Nat)
  /-- A launch waiting over 1 ms reserves the room that becomes free (R143) -/
  | launchReservation (launch : Nat)
  /-- An ended team leaves its slot after its engine commands complete and decrements the completion counter (R35) -/
  | teamLeavesSlot (tk : Nat)
  /-- An in-flight ENQ's items reach Chive and stand in the list (R37) -/
  | itemsEnterList (tk id : Nat)
  /-- A core's item queue draws items of lists its teams have named (R38) -/
  | itemQueueFill (core launch list : Nat)
  /-- A core returns items of a list no longer named to that list within 2 µs (R38) -/
  | itemReturn (core launch list : Nat)
  /-- Sage reports a launch quiescent and waiting WAITQs return 1 (R39) -/
  | sageQuiescence (launch : Nat)
  /-- A Waiting team whose condition holds becomes Ready (R231) -/
  | waitReturn (tk : Nat)
  /-- A waiting WAITV tests its word again on a line change or after 2,000 ns (R246) -/
  | waitvTest (tk : Nat) (grant : Bool)
  /-- A module tick flags running teams that hold promotable frames (R49) -/
  | heartbeatTick
  /-- A deterministic team's retired count reaches a multiple of HBI and it is flagged (R60) -/
  | deterministicHeartbeat (tk : Nat)
  /-- A team's floor count reaches 512 and it must issue next (R147) -/
  | floorDue (slice : Nat)
  /-- A team is saved with its pending GWCT and lease horizon (R103) -/
  | preemption (tk : Nat)
  /-- A saved team is restored on an allowed slice when room exists (R33) -/
  | restore (tk slice : Nat)
  /-- A cluster idle for 50 µs is power-gated (R145) -/
  | clusterPowerGate (cluster : Nat)
  /-- A gated cluster finishes waking and takes its dispatch (R145) -/
  | clusterWake (cluster : Nat)
  /-- Every 10 µs each SRAM stack's temperature sets its thermal state (R155) -/
  | stackTemperatureSample (temps dieTemps : List Nat)
  /-- Every 100 µs a stack's thermal limit rises or falls by one (R155) -/
  | thermalLimitStep (stack : Nat)
  /-- The migration engine starts moving the hottest granule off a warm stack (R156) -/
  | hotGranuleMigration (asid obj gran dst : Nat)
  /-- A migration copy finishes and the mapping is swapped (R83) -/
  | migrationSwap (src : Nat)
  /-- Coolant below 60 % for 1 s counts as Shutdown for every stack (R363) -/
  | coolantFlowLow
  /-- After 10 s of self-refresh the T2 rail is switched off (R363) -/
  | t2SelfRefreshEnd
  /-- Every 1 µs the die currents are sampled and limits applied (R362) -/
  | railCurrentSample (amps millivolts : List Nat)
  /-- Every 10 µs a die's REFILL halves or doubles back (R362) -/
  | currentLimitStep (die : Nat)
  /-- After 1 ms the die's rail returns and saved teams are restored (R363) -/
  | coreRailRestore (die : Nat)
  /-- A corrected error is counted per row or register-file lane (R353) -/
  | correctedError (site : ErrSite)
  /-- The sparing copy finishes and the spare row replaces the old (R353) -/
  | spareSwap (row : MemRow)
  /-- Data with no good copy makes its unit lost (R348) -/
  | uncorrectableError (unit : LostUnit)
  /-- An uncorrectable register error parks the team and retires the slice (R366) -/
  | regfileError (tk detail lane : Nat)
  /-- A die's Thyme departs by over 2 ns; replicas collapse and grants stop (R350) -/
  | dieThymeDeparture (die : Nat)
  /-- A die's Thyme is resynchronised; grants resume one LEASE later (R350) -/
  | thymeResync (die : Nat)
  /-- The module's Thyme departs over 50 ns from the grandmaster and SYNC is set (R372) -/
  | moduleThymeDeparture
  /-- A team Waiting for WAITLIM parks with cause WATCHDOG (R359) -/
  | watchdogWaitlim (tk : Nat)
  /-- A launch placed for RUNLIM parks every running team once (R359) -/
  | watchdogRunlim (launch : Nat)
  /-- A launch deadlocked for 100 µs has its waiting teams parked (R359) -/
  | deadlockDetection (launch : Nat)
  /-- Every entry translated under the old mapping has drained (R75) -/
  | translationInvalidationComplete (asid obj : Nat)
  /-- A host write through BAR2 is a system-scope store at the byte's home (R306) -/
  | hostBar2Write (vf off : Nat) (data : List Byte) (poisoned : Bool)
  /-- A host read through BAR2 is served from the home (R306) -/
  | hostBar2Read (vf off n : Nat)
  /-- Creates a partition over free granules (R307) -/
  | pcreate
  /-- Changes a partition's granule set through a fixed sequence (R310) -/
  | presize
  /-- Bound crews did not end within 1 s; PRESIZE fails with 0x0A (R358) -/
  | presizeTimeout (vf : Nat)
  /-- Resets a partition, cancelling its jobs and zeroing its state (R311) -/
  | preset
  /-- Resets a partition and frees its granules (R307) -/
  | pdestroy
  /-- Sets the lane-private, frame and work-list pools (R307) -/
  | pools
  /-- Sets the partition's LEASE for later grants (R114) -/
  | setlease
  /-- Sets the module heartbeat interval from the next tick (R49) -/
  | sethbi
  /-- Sets the partition's WAITLIM and RUNLIM (R359) -/
  | setwdog
  /-- Creates a launch queue from its descriptor (R308) -/
  | qcreate
  /-- Removes a stopped, empty launch queue (R307) -/
  | qdestroy
  /-- Sets an ASID's object-table base and length (R67) -/
  | otset
  /-- Starts a translation invalidation for an object (R75) -/
  | tinval
  /-- Submits a member of a gang launch and arms it (R315) -/
  | gang
  /-- Reads storage blocks into a partition object (R318) -/
  | stread (data : Option (List Byte))
  /-- Writes partition object blocks to storage (R318) -/
  | stwrite (ok : Bool)
  /-- Copies between host memory and a partition object (R307) -/
  | hostcpy (data : Option (List Byte))
  /-- A long administration command finishes and posts its completion (R307) -/
  | adminCompletion
  /-- A gang member tells the leader it has reserved room (R315) -/
  | arm (gang member : Nat)
  /-- The leader tells every member the gang has armed, with T0 in arm-and-go (R315) -/
  | go (gang t0 : Nat)
  /-- At Thyme T0 an arm-and-go member places its launch (R315) -/
  | gangStart (gang : Nat)
  /-- The leader aborts the gang; members cancel or release reservations (R370) -/
  | abort (gang member : Nat)
  /-- A member reports completion; the leader writes a gang event after all N (R315) -/
  | gangMemberCompletion (gang member : Nat)
  /-- The leader's 10 ms timer expires with ARMs missing (R370) -/
  | gangTimerExpiry (gang : Nat)
  /-- An eager member hearing neither GO nor ABORT in 20 ms cancels itself (R370) -/
  | eagerGangTimeout (gang : Nat)
  /-- A remote copy or atomic arrives and is checked and performed at its module (R314) -/
  | remoteRequest (r : RemoteReq)
  /-- A remote request's reply returns to the issuing module (R314) -/
  | remoteReply (id : Nat) (a : RemoteAns)
  /-- A remote request without a route for 1 ms fails with REMOTE (R372) -/
  | remoteNoRoute (id : Nat)
  /-- A flit failing its CRC is retried by the link (R371) -/
  | flitRetry (port : Nat) (ok : Bool)
  /-- The host link goes down; MSI-X messages are dropped (R373) -/
  | pcieLinkDown
  /-- The host link returns and MSI-X delivery resumes (R373) -/
  | pcieLinkUp
  /-- A hot reset of the link acts as PRESET on every partition (R373) -/
  | hotReset
  /-- Resets the administration queue only (R373) -/
  | pfFunctionLevelReset
  /-- Resets partition n as PRESET does (R311) -/
  | vfFunctionLevelReset (vf : Nat)
  /-- The ROM checks the firmware image and the firmware brings the module up (R316) -/
  | boot (image : ImageCheck)
  /-- Every 60 s the ROM retries fetching a recovery image (R375) -/
  | recoveryRetry (image : ImageCheck)
  /-- SPDM request for the supported version (R317) -/
  | getVersion
  /-- SPDM request for capabilities (R317) -/
  | getCapabilities
  /-- SPDM negotiation of RSASSA-3072 with SHA-256 (R317) -/
  | negotiateAlgorithms (offered : List SpdmAlgorithm)
  /-- SPDM request for certificate digests (R317) -/
  | getDigests
  /-- SPDM request for the certificate chain (R317) -/
  | getCertificate (off len : Nat)
  /-- SPDM challenge signed by the device identity key (R317) -/
  | challenge (nonce : List Byte)
  /-- SPDM request for ROM, firmware and fuse measurements (R317) -/
  | getMeasurements
  /-- A Redfish request over HTTPS on the management port (R317) -/
  | redfishRequest (item : RedfishItem)
  /-- At the start of every core cycle each core's ALLOW becomes min(ALLOW + REFILL, CAP) (R153) -/
  | allowanceRefill
  /-- The module's Thyme comes back within 50 ns of the grandmaster and SYNC is cleared, so arm-and-go GANG is admitted again (R372) -/
  | moduleThymeResync
  /-- The control complex finishes recomputing fabric routes after a port goes down, and pending remote requests are re-sent over the new routes (R371) -/
  | routesRecomputed (reach : List Nat)
  deriving DecidableEq, Repr

end Sys2Proof
end

