-- ==== Sys2Proof/Config.lean ====
section
/-! DEFINITION. What an implementation fixes, and the free values: constants without a body, so that nothing can be
proved of what they are. A free value is applied to the counter State.free (DESIGN CHOICE, assumption 12). -/

namespace Sys2Proof.Config

/-- Cycles per ninth: core cycle m ends at Thyme floor(4 m / 9) (R3: 2.25 GHz against 1 GHz). -/
def ninths : Nat := 4

/-- Contents of SPDM replies that R317 names but does not state: version lists, capabilities, digests, certificates,
signatures, measurements. -/
opaque spdmBytes : Nat → List Byte

/-- The measurements of R317, by the digest that is served (5: the firmware's, 6: the ROM's, in recovery), with the fuse configuration
and the cores that it has fused off. -/
opaque measurements : Nat → List Nat → List Byte

/-- The modules that the routes set at boot reach (R313): what stands at the ports decides. -/
opaque bootRoutes : List Nat

/-- The signature of a CHALLENGE under the device identity key (R317). -/
opaque spdmSign : List Byte → List Byte

/-- The region of spare rows that a row belongs to, how many regions there are, and the spare rows that each has at first (R353). -/
opaque spareRegion : MemRow → Nat
opaque spareRegions : Nat
opaque spareRows : Nat → Nat

/-- The row of an L2 slice in which a place, a die or a slice of the module, keeps a line or a counter element (R353). -/
opaque l2Row : Nat → Nat → Nat

/-- Which of its parts an error that strikes a counter element strikes: an entry of the list of the slices that hold it (R352). -/
opaque elemPart : Nat → Nat

/-- The modules that the routes reach once they have been found anew after a port went down (R371), by the number of the draw. -/
opaque routesAfter : Nat → List Nat

/-- The two AES-XTS-256 keys of a partition's T2, by the number of the draw (R312); nothing that a program reads shows them. -/
opaque t2Key : Nat → BitVec 256 × BitVec 256

end Sys2Proof.Config
end

