-- ==== Sys2Proof/WellFormed.lean ====
section
/-! DEFINITION. The constraints a word's fields meet beyond their layout: parities, multiples, ranges of registers and
indices (spec 10 R168, R181; 22 Table 22.2 ILLEGAL 4 and 5, Table 22.4). -/

namespace Sys2Proof

/-- Why a word is not an instruction: DETAIL and AUX of ILLEGAL (Table 22.2). -/
structure DecErr where
  detail : Nat
  aux    : Nat
  deriving DecidableEq, Repr

def oddReg (r : BitVec 6) : Option DecErr :=
  if r.toNat % 2 = 1 then some ⟨5, r.toNat⟩ else none

/-- A source read as a 64-bit pair names an even register (R168). -/
def oddSrc : Src → Option DecErr
  | .v r => oddReg r
  | _ => none

/-- VADDC, VSUBB: even registers throughout (R190). -/
def VR.pairErr (o : VR) : Option DecErr :=
  (oddReg o.vd).orElse fun _ => (oddSrc o.sa).orElse fun _ => oddSrc o.sb

/-- VM under .64: vt is even (R237). -/
def VM.pairErr (o : VM) : Option DecErr :=
  if o.size = .b8 then oddReg o.vt else none

/-- CASG: vt even, CASG.64: a multiple of 4 (R240). -/
def VW.casErr (o : VW) : Option DecErr :=
  if o.vt.toNat % (if o.wide = .w64 then 4 else 2) = 0 then none else some ⟨5, o.vt.toNat⟩

/-- XCHG.64: vt even (R240). -/
def VW.xchgErr (o : VW) : Option DecErr :=
  if o.wide = .w64 then oddReg o.vt else none

/-- The first constraint an instruction breaks; none when it breaks none. -/
def Instr.constraint : Instr → Option DecErr
  | .vaddc o | .vsubb o => o.pairErr
  | .vv2p o => if o.cond = .all ∧ ¬ (o.pd = 0 ∧ o.sb = .v 0) then some ⟨2, 0⟩ else none
  | .ldl o | .stl o | .ldc o | .stc o | .ldf o | .stf o | .ldd o | .std o | .ldg o | .stg o => o.pairErr
  | .casg o => o.casErr
  | .xchg o => o.xchgErr
  | .vbcs o => if o.w then oddReg o.vd else none
  | .vgetl o => if o.w then oddReg o.a else none
  | .vsetl o => if o.w then oddReg o.d else none
  | .take o => if o.sd.toNat % 2 = 0 ∧ 2 ≤ o.sd.toNat ∧ o.sd.toNat ≤ 60 then none else some ⟨5, o.sd.toNat⟩
  | .fres o => if o.k.toNat ≤ 11 then none else some ⟨5, o.k.toNat⟩
  | .frget o => if o.k.toNat ≤ 11 then none else some ⟨5, o.k.toNat⟩
  | .enq o => oddReg o.vb
  | .refill o => if o.pn = 0 then some ⟨4, 0⟩ else oddReg o.vb
  | .cpyt o => if o.rc ≠ 0 ∧ o.rc.toNat % 4 = 0 then none else some ⟨5, o.rc.toNat⟩
  | _ => none

/-- An instruction that is one: it breaks no constraint. -/
abbrev Instr.WellFormed (i : Instr) : Prop := i.constraint = none

end Sys2Proof
end

