-- ==== Sys2Proof/Decode.lean ====
section
/-! DEFINITION. The decoder, total on any word and on any list of bytes, rejecting with the DETAIL and AUX of ILLEGAL
(spec 10 R164 to R181; 22 Table 22.2, R322: the lowest detail first), and the encoder from the same tables. -/

namespace Sys2Proof

/-! ## Bit fields (R1): fields are listed from the high bit down, as the tables list them. -/

def packLow : List (Nat × Nat) → Nat
  | [] => 0
  | (w, v) :: r => v + 2 ^ w * packLow r

def unpackLow : List Nat → Nat → List Nat
  | [], _ => []
  | w :: r, n => n % 2 ^ w :: unpackLow r (n / 2 ^ w)

def pack (fields : List (Nat × Nat)) : Nat := packLow fields.reverse

def unpack (widths : List Nat) (n : Nat) : List Nat := (unpackLow widths.reverse n).reverse

/-- A word from its opcode byte (set bit and opcode) and its 24 field bits. -/
def word (op n : Nat) : Word := BitVec.ofNat 32 (op * 2 ^ 24 + n)

/-! ## Selector codes -/

def Src.code : Src → Nat
  | .v r => r.toNat
  | .b k => 64 + k.toNat
  | .lane => 68
  | .const c => 96 + c.toNat

/-- R167: codes 69 to 95 are reserved. -/
def Src.ofCode (n : Nat) : Except DecErr Src :=
  if n < 64 then .ok (.v (BitVec.ofNat 6 n))
  else if n < 68 then .ok (.b (BitVec.ofNat 2 (n - 64)))
  else if n = 68 then .ok .lane
  else if n < 96 then .error ⟨3, n⟩
  else .ok (.const (BitVec.ofNat 5 (n - 96)))

def Cond.code : Cond → Nat
  | .eq => 0
  | .ne => 1
  | .lt => 2
  | .le => 3
  | .gt => 4
  | .ge => 5
  | .ltn => 6
  | .gen => 7

def Cond.ofCode : Nat → Except DecErr Cond
  | 0 => .ok .eq
  | 1 => .ok .ne
  | 2 => .ok .lt
  | 3 => .ok .le
  | 4 => .ok .gt
  | 5 => .ok .ge
  | 6 => .ok .ltn
  | 7 => .ok .gen
  | n => .error ⟨4, n⟩

def V2PCond.code : V2PCond → Nat
  | .any => 0
  | .none => 1
  | .all => 2

def V2PCond.ofCode : Nat → Except DecErr V2PCond
  | 0 => .ok .any
  | 1 => .ok .none
  | 2 => .ok .all
  | n => .error ⟨4, n⟩

def CvtFmt.code : CvtFmt → Nat
  | .fp16 => 1
  | .bf16 => 2
  | .e4m3 => 3
  | .e5m2 => 4
  | .e2m1 => 5

def CvtFmt.ofCode : Nat → Except DecErr CvtFmt
  | 1 => .ok .fp16
  | 2 => .ok .bf16
  | 3 => .ok .e4m3
  | 4 => .ok .e5m2
  | 5 => .ok .e2m1
  | n => .error ⟨4, n⟩

def QFmt.code : QFmt → Nat
  | .e4m3 => 1
  | .e5m2 => 2
  | .e2m1 => 3

def QFmt.ofCode : Nat → Except DecErr QFmt
  | 1 => .ok .e4m3
  | 2 => .ok .e5m2
  | 3 => .ok .e2m1
  | n => .error ⟨4, n⟩

def DFmt.code : DFmt → Nat
  | .e4m3 => 5
  | .e5m2 => 6
  | .e2m1 => 7

def DFmt.ofCode : Nat → Except DecErr DFmt
  | 5 => .ok .e4m3
  | 6 => .ok .e5m2
  | 7 => .ok .e2m1
  | n => .error ⟨4, n⟩

def PackFmt.code : PackFmt → Nat
  | .i8 => 1
  | .n8 => 2
  | .i4 => 3
  | .n4 => 4

def PackFmt.ofCode : Nat → Except DecErr PackFmt
  | 1 => .ok .i8
  | 2 => .ok .n8
  | 3 => .ok .i4
  | 4 => .ok .n4
  | n => .error ⟨4, n⟩

def UnpkFmt.code : UnpkFmt → Nat
  | .fp16 => 1
  | .bf16 => 2
  | .e4m3 => 3
  | .e5m2 => 4
  | .e2m1 => 5
  | .i8 => 6
  | .i4 => 7

def UnpkFmt.ofCode : Nat → Except DecErr UnpkFmt
  | 1 => .ok .fp16
  | 2 => .ok .bf16
  | 3 => .ok .e4m3
  | 4 => .ok .e5m2
  | 5 => .ok .e2m1
  | 6 => .ok .i8
  | 7 => .ok .i4
  | n => .error ⟨4, n⟩

def IntFmt.code : IntFmt → Nat
  | .i32 => 1
  | .i8 => 2
  | .i4 => 3
  | .n8 => 4
  | .n4 => 5

def IntFmt.ofCode : Nat → Except DecErr IntFmt
  | 1 => .ok .i32
  | 2 => .ok .i8
  | 3 => .ok .i4
  | 4 => .ok .n8
  | 5 => .ok .n4
  | n => .error ⟨4, n⟩

def Size.code : Size → Nat
  | .b1 => 0
  | .b2 => 1
  | .b4 => 2
  | .b8 => 3

def Size.ofCode : Nat → Except DecErr Size
  | 0 => .ok .b1
  | 1 => .ok .b2
  | 2 => .ok .b4
  | 3 => .ok .b8
  | n => .error ⟨4, n⟩

def AOp.code : AOp → Nat
  | .add => 0
  | .and => 1
  | .or => 2
  | .xor => 3
  | .min => 4
  | .max => 5
  | .minn => 6
  | .maxn => 7

def AOp.ofCode : Nat → Except DecErr AOp
  | 0 => .ok .add
  | 1 => .ok .and
  | 2 => .ok .or
  | 3 => .ok .xor
  | 4 => .ok .min
  | 5 => .ok .max
  | 6 => .ok .minn
  | 7 => .ok .maxn
  | n => .error ⟨4, n⟩

def Wide.code : Wide → Nat
  | .w32 => 0
  | .w64 => 1

def Wide.ofCode : Nat → Except DecErr Wide
  | 0 => .ok .w32
  | 1 => .ok .w64
  | n => .error ⟨4, n⟩

def AddFmt.code : AddFmt → Nat
  | .f32 => 0
  | .h2 => 1
  | .b2 => 2

def AddFmt.ofCode : Nat → Except DecErr AddFmt
  | 0 => .ok .f32
  | 1 => .ok .h2
  | 2 => .ok .b2
  | n => .error ⟨4, n⟩

def Scope.code : Scope → Nat
  | .team => 0
  | .crew => 1
  | .fleet => 2
  | .die => 3
  | .partition => 4
  | .system => 5

def Scope.ofCode : Nat → Except DecErr Scope
  | 0 => .ok .team
  | 1 => .ok .crew
  | 2 => .ok .fleet
  | 3 => .ok .die
  | 4 => .ok .partition
  | 5 => .ok .system
  | n => .error ⟨4, n⟩

def WCond.code : WCond → Nat
  | .eq => 0
  | .ne => 1
  | .ltn => 2
  | .gen => 3

def WCond.ofCode : Nat → Except DecErr WCond
  | 0 => .ok .eq
  | 1 => .ok .ne
  | 2 => .ok .ltn
  | 3 => .ok .gen
  | n => .error ⟨4, n⟩

def ReplMode.code : ReplMode → Nat
  | .adaptive => 0
  | .never => 1
  | .eager => 2

def ReplMode.ofCode : Nat → Except DecErr ReplMode
  | 0 => .ok .adaptive
  | 1 => .ok .never
  | 2 => .ok .eager
  | n => .error ⟨4, n⟩

def StFmt.code : StFmt → Nat
  | .fp32 => 0
  | .bf16 => 1
  | .fp16 => 2
  | .e4m3 => 3
  | .e5m2 => 4

def StFmt.ofCode : Nat → Except DecErr StFmt
  | 0 => .ok .fp32
  | 1 => .ok .bf16
  | 2 => .ok .fp16
  | 3 => .ok .e4m3
  | 4 => .ok .e5m2
  | n => .error ⟨4, n⟩

/-- Class at [11:10], index at [3:0] of the barrier field; the bits between are zero (R251). -/
def Bar.code : Bar → Nat
  | .cb n => n.toNat
  | .fb n => 1024 + n.toNat
  | .lb n => 2048 + n.toNat

def Bar.ofCode (n : Nat) : Except DecErr Bar :=
  match n / 1024 with
  | 0 => .ok (.cb (BitVec.ofNat 4 n))
  | 1 => if n % 16 < 8 then .ok (.fb (BitVec.ofNat 3 n)) else .error ⟨4, n % 16⟩
  | 2 => if n % 16 < 4 then .ok (.lb (BitVec.ofNat 2 n)) else .error ⟨4, n % 16⟩
  | c => .error ⟨4, c⟩

/-! ## Formats: the field layouts of Tables 10.1 and 10.3, as each entry uses them -/

def VR.enc (o : VR) : Nat := pack [(1, o.nw.toNat), (6, o.vd.toNat), (7, o.sa.code), (7, o.sb.code), (3, o.pg.toNat)]

def VR.dec (n : Nat) : Except DecErr VR :=
  match unpack [1, 6, 7, 7, 3] n with
  | [nw, vd, sa, sb, pg] =>
    match Src.ofCode sa with
    | .error e => .error e
    | .ok sa' =>
      match Src.ofCode sb with
      | .error e => .error e
      | .ok sb' =>
        .ok ⟨nw == 1, BitVec.ofNat _ vd, sa', sb', BitVec.ofNat _ pg⟩
  | _ => .error ⟨2, 0⟩

def VU.enc (o : VU) : Nat := pack [(1, o.nw.toNat), (6, o.vd.toNat), (7, o.sa.code), (7, 0), (3, o.pg.toNat)]

def VU.dec (n : Nat) : Except DecErr VU :=
  match unpack [1, 6, 7, 7, 3] n with
  | [nw, vd, sa, z0, pg] =>
    if z0 = 0 then
      match Src.ofCode sa with
      | .error e => .error e
      | .ok sa' =>
        .ok ⟨nw == 1, BitVec.ofNat _ vd, sa', BitVec.ofNat _ pg⟩
    else .error ⟨2, 0⟩
  | _ => .error ⟨2, 0⟩

def VP.enc (o : VP) : Nat := pack [(1, o.nw.toNat), (6, o.vd.toNat), (14, 0), (3, o.pg.toNat)]

def VP.dec (n : Nat) : Except DecErr VP :=
  match unpack [1, 6, 14, 3] n with
  | [nw, vd, z0, pg] =>
    if z0 = 0 then
      .ok ⟨nw == 1, BitVec.ofNat _ vd, BitVec.ofNat _ pg⟩
    else .error ⟨2, 0⟩
  | _ => .error ⟨2, 0⟩

def VC.enc (o : VC) : Nat := pack [(1, 0), (3, o.pd.toNat), (3, o.cond.code), (7, o.sa.code), (7, o.sb.code), (3, o.pg.toNat)]

def VC.dec (n : Nat) : Except DecErr VC :=
  match unpack [1, 3, 3, 7, 7, 3] n with
  | [z0, pd, cond, sa, sb, pg] =>
    if z0 = 0 then
      match Src.ofCode sa with
      | .error e => .error e
      | .ok sa' =>
        match Src.ofCode sb with
        | .error e => .error e
        | .ok sb' =>
          match Cond.ofCode cond with
          | .error e => .error e
          | .ok cond' =>
            .ok ⟨BitVec.ofNat _ pd, cond', sa', sb', BitVec.ofNat _ pg⟩
    else .error ⟨2, 0⟩
  | _ => .error ⟨2, 0⟩

def VV.enc (o : VV) : Nat := pack [(1, 0), (3, o.pd.toNat), (3, o.cond.code), (7, o.sa.code), (7, o.sb.code), (3, o.pg.toNat)]

def VV.dec (n : Nat) : Except DecErr VV :=
  match unpack [1, 3, 3, 7, 7, 3] n with
  | [z0, pd, cond, sa, sb, pg] =>
    if z0 = 0 ∧ (cond = 2 → pd = 0 ∧ sb = 0) then
      match Src.ofCode sa with
      | .error e => .error e
      | .ok sa' =>
        match Src.ofCode sb with
        | .error e => .error e
        | .ok sb' =>
          match V2PCond.ofCode cond with
          | .error e => .error e
          | .ok cond' =>
            .ok ⟨BitVec.ofNat _ pd, cond', sa', sb', BitVec.ofNat _ pg⟩
    else .error ⟨2, 0⟩
  | _ => .error ⟨2, 0⟩

def VCvt.enc (o : VCvt) : Nat := pack [(1, o.nw.toNat), (6, o.vd.toNat), (7, o.sa.code), (7, o.sb.code), (3, o.f.code)]

def VCvt.dec (n : Nat) : Except DecErr VCvt :=
  match unpack [1, 6, 7, 7, 3] n with
  | [nw, vd, sa, sb, f] =>
    match Src.ofCode sa with
    | .error e => .error e
    | .ok sa' =>
      match Src.ofCode sb with
      | .error e => .error e
      | .ok sb' =>
        match CvtFmt.ofCode f with
        | .error e => .error e
        | .ok f' =>
          .ok ⟨nw == 1, BitVec.ofNat _ vd, sa', sb', f'⟩
  | _ => .error ⟨2, 0⟩

def VQ.enc (o : VQ) : Nat := pack [(1, o.nw.toNat), (6, o.vd.toNat), (7, o.sa.code), (7, o.sb.code), (3, o.f.code)]

def VQ.dec (n : Nat) : Except DecErr VQ :=
  match unpack [1, 6, 7, 7, 3] n with
  | [nw, vd, sa, sb, f] =>
    match Src.ofCode sa with
    | .error e => .error e
    | .ok sa' =>
      match Src.ofCode sb with
      | .error e => .error e
      | .ok sb' =>
        match QFmt.ofCode f with
        | .error e => .error e
        | .ok f' =>
          .ok ⟨nw == 1, BitVec.ofNat _ vd, sa', sb', f'⟩
  | _ => .error ⟨2, 0⟩

def VD.enc (o : VD) : Nat := pack [(1, o.nw.toNat), (6, o.vd.toNat), (7, o.sa.code), (7, o.sb.code), (3, o.f.code)]

def VD.dec (n : Nat) : Except DecErr VD :=
  match unpack [1, 6, 7, 7, 3] n with
  | [nw, vd, sa, sb, f] =>
    match Src.ofCode sa with
    | .error e => .error e
    | .ok sa' =>
      match Src.ofCode sb with
      | .error e => .error e
      | .ok sb' =>
        match DFmt.ofCode f with
        | .error e => .error e
        | .ok f' =>
          .ok ⟨nw == 1, BitVec.ofNat _ vd, sa', sb', f'⟩
  | _ => .error ⟨2, 0⟩

def VPack.enc (o : VPack) : Nat := pack [(1, o.nw.toNat), (6, o.vd.toNat), (7, o.sa.code), (7, o.sb.code), (3, o.f.code)]

def VPack.dec (n : Nat) : Except DecErr VPack :=
  match unpack [1, 6, 7, 7, 3] n with
  | [nw, vd, sa, sb, f] =>
    match Src.ofCode sa with
    | .error e => .error e
    | .ok sa' =>
      match Src.ofCode sb with
      | .error e => .error e
      | .ok sb' =>
        match PackFmt.ofCode f with
        | .error e => .error e
        | .ok f' =>
          .ok ⟨nw == 1, BitVec.ofNat _ vd, sa', sb', f'⟩
  | _ => .error ⟨2, 0⟩

def VUnpk.enc (o : VUnpk) : Nat := pack [(1, o.nw.toNat), (6, o.vd.toNat), (7, o.sa.code), (7, o.sb.code), (3, o.f.code)]

def VUnpk.dec (n : Nat) : Except DecErr VUnpk :=
  match unpack [1, 6, 7, 7, 3] n with
  | [nw, vd, sa, sb, f] =>
    match Src.ofCode sa with
    | .error e => .error e
    | .ok sa' =>
      match Src.ofCode sb with
      | .error e => .error e
      | .ok sb' =>
        match UnpkFmt.ofCode f with
        | .error e => .error e
        | .ok f' =>
          .ok ⟨nw == 1, BitVec.ofNat _ vd, sa', sb', f'⟩
  | _ => .error ⟨2, 0⟩

def VInt.enc (o : VInt) : Nat := pack [(1, o.nw.toNat), (6, o.vd.toNat), (7, o.sa.code), (7, 0), (3, o.f.code)]

def VInt.dec (n : Nat) : Except DecErr VInt :=
  match unpack [1, 6, 7, 7, 3] n with
  | [nw, vd, sa, z0, f] =>
    if z0 = 0 then
      match Src.ofCode sa with
      | .error e => .error e
      | .ok sa' =>
        match IntFmt.ofCode f with
        | .error e => .error e
        | .ok f' =>
          .ok ⟨nw == 1, BitVec.ofNat _ vd, sa', f'⟩
    else .error ⟨2, 0⟩
  | _ => .error ⟨2, 0⟩

def VI.enc (o : VI) : Nat := pack [(1, o.nw.toNat), (6, o.vd.toNat), (7, o.sa.code), (10, o.imm.toNat)]

def VI.dec (n : Nat) : Except DecErr VI :=
  match unpack [1, 6, 7, 10] n with
  | [nw, vd, sa, imm] =>
    match Src.ofCode sa with
    | .error e => .error e
    | .ok sa' =>
      .ok ⟨nw == 1, BitVec.ofNat _ vd, sa', BitVec.ofNat _ imm⟩
  | _ => .error ⟨2, 0⟩

def VM.enc (o : VM) : Nat := pack [(6, o.vt.toNat), (7, o.so.code), (6, o.sbase.toNat), (2, o.size.code), (3, o.spol.toNat)]

def VM.dec (n : Nat) : Except DecErr VM :=
  match unpack [6, 7, 6, 2, 3] n with
  | [vt, so, sbase, size, spol] =>
    match Src.ofCode so with
    | .error e => .error e
    | .ok so' =>
      match Size.ofCode size with
      | .error e => .error e
      | .ok size' =>
        .ok ⟨BitVec.ofNat _ vt, so', BitVec.ofNat _ sbase, size', BitVec.ofNat _ spol⟩
  | _ => .error ⟨2, 0⟩

def VA.enc (o : VA) : Nat := pack [(6, o.vt.toNat), (7, o.so.code), (6, o.sbase.toNat), (3, o.aop.code), (2, o.spol.toNat)]

def VA.dec (n : Nat) : Except DecErr VA :=
  match unpack [6, 7, 6, 3, 2] n with
  | [vt, so, sbase, aop, spol] =>
    match Src.ofCode so with
    | .error e => .error e
    | .ok so' =>
      match AOp.ofCode aop with
      | .error e => .error e
      | .ok aop' =>
        .ok ⟨BitVec.ofNat _ vt, so', BitVec.ofNat _ sbase, aop', BitVec.ofNat _ spol⟩
  | _ => .error ⟨2, 0⟩

def VW.enc (o : VW) : Nat := pack [(6, o.vt.toNat), (7, o.so.code), (6, o.sbase.toNat), (3, o.wide.code), (2, o.spol.toNat)]

def VW.dec (n : Nat) : Except DecErr VW :=
  match unpack [6, 7, 6, 3, 2] n with
  | [vt, so, sbase, wide, spol] =>
    match Src.ofCode so with
    | .error e => .error e
    | .ok so' =>
      match Wide.ofCode wide with
      | .error e => .error e
      | .ok wide' =>
        .ok ⟨BitVec.ofNat _ vt, so', BitVec.ofNat _ sbase, wide', BitVec.ofNat _ spol⟩
  | _ => .error ⟨2, 0⟩

def VF.enc (o : VF) : Nat := pack [(6, o.vt.toNat), (7, o.so.code), (6, o.sbase.toNat), (3, o.f.code), (2, o.spol.toNat)]

def VF.dec (n : Nat) : Except DecErr VF :=
  match unpack [6, 7, 6, 3, 2] n with
  | [vt, so, sbase, f, spol] =>
    match Src.ofCode so with
    | .error e => .error e
    | .ok so' =>
      match AddFmt.ofCode f with
      | .error e => .error e
      | .ok f' =>
        .ok ⟨BitVec.ofNat _ vt, so', BitVec.ofNat _ sbase, f', BitVec.ofNat _ spol⟩
  | _ => .error ⟨2, 0⟩

def SR.enc (o : SR) : Nat := pack [(6, o.sd.toNat), (6, o.sa.toNat), (6, o.sb.toNat), (6, 0)]

def SR.dec (n : Nat) : Except DecErr SR :=
  match unpack [6, 6, 6, 6] n with
  | [sd, sa, sb, z0] =>
    if z0 = 0 then
      .ok ⟨BitVec.ofNat _ sd, BitVec.ofNat _ sa, BitVec.ofNat _ sb⟩
    else .error ⟨2, 0⟩
  | _ => .error ⟨2, 0⟩

def SN.enc (o : SN) : Nat := pack [(6, o.sd.toNat), (6, o.sa.toNat), (6, o.sb.toNat), (5, 0), (1, o.n.toNat)]

def SN.dec (n : Nat) : Except DecErr SN :=
  match unpack [6, 6, 6, 5, 1] n with
  | [sd, sa, sb, z0, n] =>
    if z0 = 0 then
      .ok ⟨BitVec.ofNat _ sd, BitVec.ofNat _ sa, BitVec.ofNat _ sb, n == 1⟩
    else .error ⟨2, 0⟩
  | _ => .error ⟨2, 0⟩

def SC.enc (o : SC) : Nat := pack [(6, o.sd.toNat), (6, o.sa.toNat), (6, o.sb.toNat), (3, 0), (3, o.cond.code)]

def SC.dec (n : Nat) : Except DecErr SC :=
  match unpack [6, 6, 6, 3, 3] n with
  | [sd, sa, sb, z0, cond] =>
    if z0 = 0 then
      match Cond.ofCode cond with
      | .error e => .error e
      | .ok cond' =>
        .ok ⟨BitVec.ofNat _ sd, BitVec.ofNat _ sa, BitVec.ofNat _ sb, cond'⟩
    else .error ⟨2, 0⟩
  | _ => .error ⟨2, 0⟩

def SU.enc (o : SU) : Nat := pack [(6, o.sd.toNat), (6, o.sa.toNat), (12, 0)]

def SU.dec (n : Nat) : Except DecErr SU :=
  match unpack [6, 6, 12] n with
  | [sd, sa, z0] =>
    if z0 = 0 then
      .ok ⟨BitVec.ofNat _ sd, BitVec.ofNat _ sa⟩
    else .error ⟨2, 0⟩
  | _ => .error ⟨2, 0⟩

def SI.enc (o : SI) : Nat := pack [(6, o.sd.toNat), (6, o.sa.toNat), (12, o.imm.toNat)]

def SI.dec (n : Nat) : Except DecErr SI :=
  match unpack [6, 6, 12] n with
  | [sd, sa, imm] =>
    .ok ⟨BitVec.ofNat _ sd, BitVec.ofNat _ sa, BitVec.ofNat _ imm⟩
  | _ => .error ⟨2, 0⟩

def SL.enc (o : SL) : Nat := pack [(6, o.sd.toNat), (18, o.imm.toNat)]

def SL.dec (n : Nat) : Except DecErr SL :=
  match unpack [6, 18] n with
  | [sd, imm] =>
    .ok ⟨BitVec.ofNat _ sd, BitVec.ofNat _ imm⟩
  | _ => .error ⟨2, 0⟩

def SRed.enc (o : SRed) : Nat := pack [(6, o.sd.toNat), (6, o.va.toNat), (6, 0), (2, 0), (1, o.n.toNat), (3, o.pg.toNat)]

def SRed.dec (n : Nat) : Except DecErr SRed :=
  match unpack [6, 6, 6, 2, 1, 3] n with
  | [sd, va, z0, z1, n, pg] =>
    if z0 = 0 ∧ z1 = 0 then
      .ok ⟨BitVec.ofNat _ sd, BitVec.ofNat _ va, n == 1, BitVec.ofNat _ pg⟩
    else .error ⟨2, 0⟩
  | _ => .error ⟨2, 0⟩

def SRedF.enc (o : SRedF) : Nat := pack [(6, o.sd.toNat), (6, o.sa.toNat), (6, 0), (3, 0), (3, o.pn.toNat)]

def SRedF.dec (n : Nat) : Except DecErr SRedF :=
  match unpack [6, 6, 6, 3, 3] n with
  | [sd, sa, z0, z1, pn] =>
    if z0 = 0 ∧ z1 = 0 then
      .ok ⟨BitVec.ofNat _ sd, BitVec.ofNat _ sa, BitVec.ofNat _ pn⟩
    else .error ⟨2, 0⟩
  | _ => .error ⟨2, 0⟩

def SAny.enc (o : SAny) : Nat := pack [(6, o.sd.toNat), (6, 0), (6, 0), (2, 0), (1, o.all.toNat), (3, o.pn.toNat)]

def SAny.dec (n : Nat) : Except DecErr SAny :=
  match unpack [6, 6, 6, 2, 1, 3] n with
  | [sd, z0, z1, z2, all, pn] =>
    if z0 = 0 ∧ z1 = 0 ∧ z2 = 0 then
      .ok ⟨BitVec.ofNat _ sd, all == 1, BitVec.ofNat _ pn⟩
    else .error ⟨2, 0⟩
  | _ => .error ⟨2, 0⟩

def SBcs.enc (o : SBcs) : Nat := pack [(6, o.vd.toNat), (6, o.sa.toNat), (6, 0), (5, 0), (1, o.w.toNat)]

def SBcs.dec (n : Nat) : Except DecErr SBcs :=
  match unpack [6, 6, 6, 5, 1] n with
  | [vd, sa, z0, z1, w] =>
    if z0 = 0 ∧ z1 = 0 then
      .ok ⟨BitVec.ofNat _ vd, BitVec.ofNat _ sa, w == 1⟩
    else .error ⟨2, 0⟩
  | _ => .error ⟨2, 0⟩

def SLane.enc (o : SLane) : Nat := pack [(6, o.d.toNat), (6, o.a.toNat), (6, o.sb.toNat), (5, 0), (1, o.w.toNat)]

def SLane.dec (n : Nat) : Except DecErr SLane :=
  match unpack [6, 6, 6, 5, 1] n with
  | [d, a, sb, z0, w] =>
    if z0 = 0 then
      .ok ⟨BitVec.ofNat _ d, BitVec.ofNat _ a, BitVec.ofNat _ sb, w == 1⟩
    else .error ⟨2, 0⟩
  | _ => .error ⟨2, 0⟩

def SJ.enc (o : SJ) : Nat := pack [(6, 0), (18, o.disp.toNat)]

def SJ.dec (n : Nat) : Except DecErr SJ :=
  match unpack [6, 18] n with
  | [z0, disp] =>
    if z0 = 0 then
      .ok ⟨BitVec.ofNat _ disp⟩
    else .error ⟨2, 0⟩
  | _ => .error ⟨2, 0⟩

def SB.enc (o : SB) : Nat := pack [(6, o.sa.toNat), (18, o.disp.toNat)]

def SB.dec (n : Nat) : Except DecErr SB :=
  match unpack [6, 18] n with
  | [sa, disp] =>
    .ok ⟨BitVec.ofNat _ sa, BitVec.ofNat _ disp⟩
  | _ => .error ⟨2, 0⟩

def SPB.enc (o : SPB) : Nat := pack [(3, 0), (3, o.pn.toNat), (18, o.disp.toNat)]

def SPB.dec (n : Nat) : Except DecErr SPB :=
  match unpack [3, 3, 18] n with
  | [z0, pn, disp] =>
    if z0 = 0 then
      .ok ⟨BitVec.ofNat _ pn, BitVec.ofNat _ disp⟩
    else .error ⟨2, 0⟩
  | _ => .error ⟨2, 0⟩

def SP.enc (o : SP) : Nat := pack [(21, 0), (3, o.pn.toNat)]

def SP.dec (n : Nat) : Except DecErr SP :=
  match unpack [21, 3] n with
  | [z0, pn] =>
    if z0 = 0 then
      .ok ⟨BitVec.ofNat _ pn⟩
    else .error ⟨2, 0⟩
  | _ => .error ⟨2, 0⟩

def S1.enc (o : S1) : Nat := pack [(6, 0), (6, o.sa.toNat), (12, 0)]

def S1.dec (n : Nat) : Except DecErr S1 :=
  match unpack [6, 6, 12] n with
  | [z0, sa, z1] =>
    if z0 = 0 ∧ z1 = 0 then
      .ok ⟨BitVec.ofNat _ sa⟩
    else .error ⟨2, 0⟩
  | _ => .error ⟨2, 0⟩

def SBX.enc (o : SBX) : Nat := pack [(6, o.sa.toNat), (6, o.sb.toNat), (12, o.disp.toNat)]

def SBX.dec (n : Nat) : Except DecErr SBX :=
  match unpack [6, 6, 12] n with
  | [sa, sb, disp] =>
    .ok ⟨BitVec.ofNat _ sa, BitVec.ofNat _ sb, BitVec.ofNat _ disp⟩
  | _ => .error ⟨2, 0⟩

def SFres.enc (o : SFres) : Nat := pack [(6, 0), (6, o.sa.toNat), (12, o.k.toNat)]

def SFres.dec (n : Nat) : Except DecErr SFres :=
  match unpack [6, 6, 12] n with
  | [z0, sa, k] =>
    if z0 = 0 then
      .ok ⟨BitVec.ofNat _ sa, BitVec.ofNat _ k⟩
    else .error ⟨2, 0⟩
  | _ => .error ⟨2, 0⟩

def SFrget.enc (o : SFrget) : Nat := pack [(6, o.sd.toNat), (6, 0), (12, o.k.toNat)]

def SFrget.dec (n : Nat) : Except DecErr SFrget :=
  match unpack [6, 6, 12] n with
  | [sd, z0, k] =>
    if z0 = 0 then
      .ok ⟨BitVec.ofNat _ sd, BitVec.ofNat _ k⟩
    else .error ⟨2, 0⟩
  | _ => .error ⟨2, 0⟩

def SItem.enc (o : SItem) : Nat := pack [(6, o.sd.toNat), (6, o.sa.toNat), (6, o.vb.toNat), (3, 0), (3, o.pn.toNat)]

def SItem.dec (n : Nat) : Except DecErr SItem :=
  match unpack [6, 6, 6, 3, 3] n with
  | [sd, sa, vb, z0, pn] =>
    if z0 = 0 then
      .ok ⟨BitVec.ofNat _ sd, BitVec.ofNat _ sa, BitVec.ofNat _ vb, BitVec.ofNat _ pn⟩
    else .error ⟨2, 0⟩
  | _ => .error ⟨2, 0⟩

def SM.enc (o : SM) : Nat := pack [(6, o.sd.toNat), (6, o.sbase.toNat), (6, o.soff.toNat), (1, 0), (5, o.spol.toNat)]

def SM.dec (n : Nat) : Except DecErr SM :=
  match unpack [6, 6, 6, 1, 5] n with
  | [sd, sbase, soff, z0, spol] =>
    if z0 = 0 then
      .ok ⟨BitVec.ofNat _ sd, BitVec.ofNat _ sbase, BitVec.ofNat _ soff, BitVec.ofNat _ spol⟩
    else .error ⟨2, 0⟩
  | _ => .error ⟨2, 0⟩

def SA.enc (o : SA) : Nat := pack [(6, o.sd.toNat), (6, o.sbase.toNat), (6, o.sv.toNat), (3, o.aop.code), (3, o.spol.toNat)]

def SA.dec (n : Nat) : Except DecErr SA :=
  match unpack [6, 6, 6, 3, 3] n with
  | [sd, sbase, sv, aop, spol] =>
    match AOp.ofCode aop with
    | .error e => .error e
    | .ok aop' =>
      .ok ⟨BitVec.ofNat _ sd, BitVec.ofNat _ sbase, BitVec.ofNat _ sv, aop', BitVec.ofNat _ spol⟩
  | _ => .error ⟨2, 0⟩

def SX3.enc (o : SX3) : Nat := pack [(6, o.sd.toNat), (6, o.sbase.toNat), (6, o.sv.toNat), (3, 0), (3, o.spol.toNat)]

def SX3.dec (n : Nat) : Except DecErr SX3 :=
  match unpack [6, 6, 6, 3, 3] n with
  | [sd, sbase, sv, op, spol] =>
    if op = 0 then .ok ⟨BitVec.ofNat _ sd, BitVec.ofNat _ sbase, BitVec.ofNat _ sv, BitVec.ofNat _ spol⟩ else .error ⟨4, op⟩
  | _ => .error ⟨2, 0⟩

def SBcset.enc (o : SBcset) : Nat := pack [(6, o.sd.toNat), (6, o.sbase.toNat), (6, o.sv.toNat), (3, 0), (3, o.spol.toNat)]

def SBcset.dec (n : Nat) : Except DecErr SBcset :=
  match unpack [6, 6, 6, 3, 3] n with
  | [sd, sbase, sv, z0, spol] =>
    if z0 = 0 then
      .ok ⟨BitVec.ofNat _ sd, BitVec.ofNat _ sbase, BitVec.ofNat _ sv, BitVec.ofNat _ spol⟩
    else .error ⟨2, 0⟩
  | _ => .error ⟨2, 0⟩

def SBcinc.enc (o : SBcinc) : Nat := pack [(6, 0), (6, o.sbase.toNat), (6, o.sv.toNat), (3, 0), (3, o.spol.toNat)]

def SBcinc.dec (n : Nat) : Except DecErr SBcinc :=
  match unpack [6, 6, 6, 3, 3] n with
  | [z0, sbase, sv, z1, spol] =>
    if z0 = 0 ∧ z1 = 0 then
      .ok ⟨BitVec.ofNat _ sbase, BitVec.ofNat _ sv, BitVec.ofNat _ spol⟩
    else .error ⟨2, 0⟩
  | _ => .error ⟨2, 0⟩

def SBcread.enc (o : SBcread) : Nat := pack [(6, o.sd.toNat), (6, o.sbase.toNat), (6, 0), (3, 0), (3, o.spol.toNat)]

def SBcread.dec (n : Nat) : Except DecErr SBcread :=
  match unpack [6, 6, 6, 3, 3] n with
  | [sd, sbase, z0, z1, spol] =>
    if z0 = 0 ∧ z1 = 0 then
      .ok ⟨BitVec.ofNat _ sd, BitVec.ofNat _ sbase, BitVec.ofNat _ spol⟩
    else .error ⟨2, 0⟩
  | _ => .error ⟨2, 0⟩

def SFence.enc (o : SFence) : Nat := pack [(18, 0), (3, 0), (3, o.scope.code)]

def SFence.dec (n : Nat) : Except DecErr SFence :=
  match unpack [18, 3, 3] n with
  | [z0, z1, scope] =>
    if z0 = 0 ∧ z1 = 0 then
      match Scope.ofCode scope with
      | .error e => .error e
      | .ok scope' =>
        .ok ⟨scope'⟩
    else .error ⟨2, 0⟩
  | _ => .error ⟨2, 0⟩

def SIfence.enc (o : SIfence) : Nat := pack [(6, 0), (6, o.sa.toNat), (6, o.sb.toNat), (6, 0)]

def SIfence.dec (n : Nat) : Except DecErr SIfence :=
  match unpack [6, 6, 6, 6] n with
  | [z0, sa, sb, z1] =>
    if z0 = 0 ∧ z1 = 0 then
      .ok ⟨BitVec.ofNat _ sa, BitVec.ofNat _ sb⟩
    else .error ⟨2, 0⟩
  | _ => .error ⟨2, 0⟩

def SWaitv.enc (o : SWaitv) : Nat := pack [(6, o.sd.toNat), (6, o.sbase.toNat), (6, o.sv.toNat), (1, o.w32.toNat), (2, o.cond.code), (3, o.spol.toNat)]

def SWaitv.dec (n : Nat) : Except DecErr SWaitv :=
  match unpack [6, 6, 6, 1, 2, 3] n with
  | [sd, sbase, sv, w32, cond, spol] =>
    match WCond.ofCode cond with
    | .error e => .error e
    | .ok cond' =>
      .ok ⟨BitVec.ofNat _ sd, BitVec.ofNat _ sbase, BitVec.ofNat _ sv, w32 == 1, cond', BitVec.ofNat _ spol⟩
  | _ => .error ⟨2, 0⟩

def SRepl.enc (o : SRepl) : Nat := pack [(6, 0), (6, o.sa.toNat), (6, o.sb.toNat), (4, 0), (2, o.mode.code)]

def SRepl.dec (n : Nat) : Except DecErr SRepl :=
  match unpack [6, 6, 6, 4, 2] n with
  | [z0, sa, sb, z1, mode] =>
    if z0 = 0 ∧ z1 = 0 then
      match ReplMode.ofCode mode with
      | .error e => .error e
      | .ok mode' =>
        .ok ⟨BitVec.ofNat _ sa, BitVec.ofNat _ sb, mode'⟩
    else .error ⟨2, 0⟩
  | _ => .error ⟨2, 0⟩

def SBar.enc (o : SBar) : Nat := pack [(6, o.sd.toNat), (6, 0), (12, o.bar.code)]

def SBar.dec (n : Nat) : Except DecErr SBar :=
  match unpack [6, 6, 12] n with
  | [sd, z0, bar] =>
    if z0 = 0 ∧ bar / 16 % 64 = 0 then
      match Bar.ofCode bar with
      | .error e => .error e
      | .ok bar' =>
        .ok ⟨BitVec.ofNat _ sd, bar'⟩
    else .error ⟨2, 0⟩
  | _ => .error ⟨2, 0⟩

def SBarw.enc (o : SBarw) : Nat := pack [(6, o.sd.toNat), (6, o.sa.toNat), (12, o.bar.code)]

def SBarw.dec (n : Nat) : Except DecErr SBarw :=
  match unpack [6, 6, 12] n with
  | [sd, sa, bar] =>
    if bar / 16 % 64 = 0 then
      match Bar.ofCode bar with
      | .error e => .error e
      | .ok bar' =>
        .ok ⟨BitVec.ofNat _ sd, BitVec.ofNat _ sa, bar'⟩
    else .error ⟨2, 0⟩
  | _ => .error ⟨2, 0⟩

def STbinit.enc (o : STbinit) : Nat := pack [(6, 0), (6, o.sa.toNat), (6, 0), (6, o.tb.toNat)]

def STbinit.dec (n : Nat) : Except DecErr STbinit :=
  match unpack [6, 6, 6, 6] n with
  | [z0, sa, z1, tb] =>
    if z0 = 0 ∧ z1 = 0 then
      .ok ⟨BitVec.ofNat _ sa, BitVec.ofNat _ tb⟩
    else .error ⟨2, 0⟩
  | _ => .error ⟨2, 0⟩

def STbarr.enc (o : STbarr) : Nat := pack [(6, o.sd.toNat), (6, 0), (6, 0), (6, o.tb.toNat)]

def STbarr.dec (n : Nat) : Except DecErr STbarr :=
  match unpack [6, 6, 6, 6] n with
  | [sd, z0, z1, tb] =>
    if z0 = 0 ∧ z1 = 0 then
      .ok ⟨BitVec.ofNat _ sd, BitVec.ofNat _ tb⟩
    else .error ⟨2, 0⟩
  | _ => .error ⟨2, 0⟩

def STbwait.enc (o : STbwait) : Nat := pack [(6, o.sd.toNat), (6, o.sa.toNat), (6, 0), (6, o.tb.toNat)]

def STbwait.dec (n : Nat) : Except DecErr STbwait :=
  match unpack [6, 6, 6, 6] n with
  | [sd, sa, z0, tb] =>
    if z0 = 0 then
      .ok ⟨BitVec.ofNat _ sd, BitVec.ofNat _ sa, BitVec.ofNat _ tb⟩
    else .error ⟨2, 0⟩
  | _ => .error ⟨2, 0⟩

def SWaitt.enc (o : SWaitt) : Nat := pack [(6, o.sd.toNat), (9, 0), (1, o.any.toNat), (8, o.mask.toNat)]

def SWaitt.dec (n : Nat) : Except DecErr SWaitt :=
  match unpack [6, 9, 1, 8] n with
  | [sd, z0, any, mask] =>
    if z0 = 0 then
      .ok ⟨BitVec.ofNat _ sd, any == 1, BitVec.ofNat _ mask⟩
    else .error ⟨2, 0⟩
  | _ => .error ⟨2, 0⟩

def SE.enc (o : SE) : Nat := pack [(6, o.ra.toNat), (6, o.rb.toNat), (6, o.rc.toNat), (3, o.ct.toNat), (3, o.spol.toNat)]

def SE.dec (n : Nat) : Except DecErr SE :=
  match unpack [6, 6, 6, 3, 3] n with
  | [ra, rb, rc, ct, spol] =>
    .ok ⟨BitVec.ofNat _ ra, BitVec.ofNat _ rb, BitVec.ofNat _ rc, BitVec.ofNat _ ct, BitVec.ofNat _ spol⟩
  | _ => .error ⟨2, 0⟩

def SX.enc (o : SX) : Nat := pack [(4, o.mt.toNat), (6, o.va.toNat), (1, o.reuse.toNat), (6, o.sb.toNat), (3, o.ct.toNat), (4, 0)]

def SX.dec (n : Nat) : Except DecErr SX :=
  match unpack [4, 6, 1, 6, 3, 4] n with
  | [mt, va, reuse, sb, ct, z0] =>
    if z0 = 0 then
      .ok ⟨BitVec.ofNat _ mt, BitVec.ofNat _ va, reuse == 1, BitVec.ofNat _ sb, BitVec.ofNat _ ct⟩
    else .error ⟨2, 0⟩
  | _ => .error ⟨2, 0⟩

def SMld.enc (o : SMld) : Nat := pack [(6, o.ra.toNat), (6, o.rb.toNat), (2, 0), (4, o.mt.toNat), (3, o.ct.toNat), (3, 0)]

def SMld.dec (n : Nat) : Except DecErr SMld :=
  match unpack [6, 6, 2, 4, 3, 3] n with
  | [ra, rb, z0, mt, ct, op] =>
    if z0 = 0 then
      if op = 0 then .ok ⟨BitVec.ofNat _ ra, BitVec.ofNat _ rb, BitVec.ofNat _ mt, BitVec.ofNat _ ct⟩ else .error ⟨4, op⟩
    else .error ⟨2, 0⟩
  | _ => .error ⟨2, 0⟩

def SMst.enc (o : SMst) : Nat := pack [(6, o.ra.toNat), (6, o.rb.toNat), (2, 0), (4, o.mt.toNat), (3, o.ct.toNat), (3, o.f.code)]

def SMst.dec (n : Nat) : Except DecErr SMst :=
  match unpack [6, 6, 2, 4, 3, 3] n with
  | [ra, rb, z0, mt, ct, f] =>
    if z0 = 0 then
      match StFmt.ofCode f with
      | .error e => .error e
      | .ok f' =>
        .ok ⟨BitVec.ofNat _ ra, BitVec.ofNat _ rb, BitVec.ofNat _ mt, BitVec.ofNat _ ct, f'⟩
    else .error ⟨2, 0⟩
  | _ => .error ⟨2, 0⟩

def SMzero.enc (o : SMzero) : Nat := pack [(6, 0), (6, 0), (2, 0), (4, o.mt.toNat), (3, o.ct.toNat), (3, 0)]

def SMzero.dec (n : Nat) : Except DecErr SMzero :=
  match unpack [6, 6, 2, 4, 3, 3] n with
  | [z0, z1, z2, mt, ct, z3] =>
    if z0 = 0 ∧ z1 = 0 ∧ z2 = 0 ∧ z3 = 0 then
      .ok ⟨BitVec.ofNat _ mt, BitVec.ofNat _ ct⟩
    else .error ⟨2, 0⟩
  | _ => .error ⟨2, 0⟩

def SMscl.enc (o : SMscl) : Nat := pack [(6, o.ra.toNat), (6, o.rb.toNat), (6, o.rc.toNat), (6, 0)]

def SMscl.dec (n : Nat) : Except DecErr SMscl :=
  match unpack [6, 6, 6, 6] n with
  | [ra, rb, rc, z0] =>
    if z0 = 0 then
      .ok ⟨BitVec.ofNat _ ra, BitVec.ofNat _ rb, BitVec.ofNat _ rc⟩
    else .error ⟨2, 0⟩
  | _ => .error ⟨2, 0⟩

def SSysr.enc (o : SSysr) : Nat := pack [(6, o.sd.toNat), (6, 0), (12, o.id.toNat)]

def SSysr.dec (n : Nat) : Except DecErr SSysr :=
  match unpack [6, 6, 12] n with
  | [sd, z0, id] =>
    if z0 = 0 then
      .ok ⟨BitVec.ofNat _ sd, BitVec.ofNat _ id⟩
    else .error ⟨2, 0⟩
  | _ => .error ⟨2, 0⟩

def SSysw.enc (o : SSysw) : Nat := pack [(6, 0), (6, o.sa.toNat), (12, o.id.toNat)]

def SSysw.dec (n : Nat) : Except DecErr SSysw :=
  match unpack [6, 6, 12] n with
  | [z0, sa, id] =>
    if z0 = 0 then
      .ok ⟨BitVec.ofNat _ sa, BitVec.ofNat _ id⟩
    else .error ⟨2, 0⟩
  | _ => .error ⟨2, 0⟩

def SRm.enc (o : SRm) : Nat := pack [(6, o.sd.toNat), (6, o.sa.toNat), (1, o.reg.toNat), (7, 0), (4, o.value.toNat)]

def SRm.dec (n : Nat) : Except DecErr SRm :=
  match unpack [6, 6, 1, 7, 4] n with
  | [sd, sa, reg, z0, value] =>
    if z0 = 0 then
      .ok ⟨BitVec.ofNat _ sd, BitVec.ofNat _ sa, reg == 1, BitVec.ofNat _ value⟩
    else .error ⟨2, 0⟩
  | _ => .error ⟨2, 0⟩

def SPr.enc (o : SPr) : Nat := pack [(6, o.sd.toNat), (6, o.sa.toNat), (1, o.reg.toNat), (7, 0), (1, 0), (3, o.value.toNat)]

def SPr.dec (n : Nat) : Except DecErr SPr :=
  match unpack [6, 6, 1, 7, 1, 3] n with
  | [sd, sa, reg, z0, z1, value] =>
    if z0 = 0 ∧ z1 = 0 then
      .ok ⟨BitVec.ofNat _ sd, BitVec.ofNat _ sa, reg == 1, BitVec.ofNat _ value⟩
    else .error ⟨2, 0⟩
  | _ => .error ⟨2, 0⟩

def SCode.enc (o : SCode) : Nat := pack [(12, 0), (12, o.code.toNat)]

def SCode.dec (n : Nat) : Except DecErr SCode :=
  match unpack [12, 12] n with
  | [z0, code] =>
    if z0 = 0 then
      .ok ⟨BitVec.ofNat _ code⟩
    else .error ⟨2, 0⟩
  | _ => .error ⟨2, 0⟩

/-- CVTSC: the form is bit 2 of the format code (Table 11.7). -/
def decodeCvtsc (n : Nat) : Except DecErr Instr :=
  if n / 4 % 2 = 0 then (VQ.dec n).map .cvtscQ else (VD.dec n).map .cvtscD

/-- BCDEC: the form at [5:3] (R242). -/
def decodeBcdec (n : Nat) : Except DecErr Instr :=
  match n / 8 % 8 with
  | 0 => (SBcset.dec n).map .bcdecAll
  | 1 => (SBcset.dec (n - 8)).map .bcdecPart
  | k => .error ⟨4, k⟩

/-- TCTL: the operation in the modifier (R272). -/
def decodeTctl (n : Nat) : Except DecErr Instr :=
  match n % 64 with
  | 0 => (SR.dec n).map .tctlState
  | 1 => (SR.dec (n - 1)).map .tctlPark
  | 2 => (SR.dec (n - 2)).map .tctlResume
  | 3 => (SR.dec (n - 3)).map .tctlKill
  | 4 => (SR.dec (n - 4)).map .tctlAbort
  | 5 => (SR.dec (n - 5)).map .tctlDbg
  | k => .error ⟨4, k⟩

/-- HALT and CANCEL: the form in the modifier, sb unused (R273, R274). -/
def decodeHalt (n : Nat) : Except DecErr Instr :=
  match n % 64 with
  | 0 => (SU.dec n).map .haltStop
  | 1 => (SU.dec (n - 1)).map .haltGo
  | k => if n / 64 % 64 = 0 then .error ⟨4, k⟩ else .error ⟨2, 0⟩

def decodeCancel (n : Nat) : Except DecErr Instr :=
  match n % 64 with
  | 0 => (SU.dec n).map .cancelLaunch
  | 1 => (SU.dec (n - 1)).map .cancelPhase
  | 2 => (SU.dec (n - 2)).map .cancelJob
  | k => if n / 64 % 64 = 0 then .error ⟨4, k⟩ else .error ⟨2, 0⟩

/-- The fields of an assigned opcode (Tables 10.4 to 10.7), before the pair and range constraints. -/
def decodeFields (op n : Nat) : Except DecErr Instr :=
  match op with
  | 0x00 => (VR.dec n).map .vadd
  | 0x01 => (VR.dec n).map .vsub
  | 0x02 => (VR.dec n).map .vmul
  | 0x03 => (VR.dec n).map .vmulh
  | 0x04 => (VR.dec n).map .vmulhn
  | 0x05 => (VR.dec n).map .vmad
  | 0x06 => (VR.dec n).map .vmin
  | 0x07 => (VR.dec n).map .vmax
  | 0x08 => (VR.dec n).map .vminn
  | 0x09 => (VR.dec n).map .vmaxn
  | 0x0A => (VR.dec n).map .vand
  | 0x0B => (VR.dec n).map .vor
  | 0x0C => (VR.dec n).map .vxor
  | 0x0D => (VR.dec n).map .vandn
  | 0x0E => (VR.dec n).map .vshl
  | 0x0F => (VR.dec n).map .vshr
  | 0x10 => (VR.dec n).map .vsar
  | 0x11 => (VR.dec n).map .vrot
  | 0x12 => (VR.dec n).map .vaddc
  | 0x13 => (VR.dec n).map .vsubb
  | 0x14 => (VR.dec n).map .vabsd
  | 0x15 => (VU.dec n).map .vclz
  | 0x16 => (VU.dec n).map .vpopc
  | 0x17 => (VU.dec n).map .vbrev
  | 0x18 => (VR.dec n).map .vsel
  | 0x19 => (VU.dec n).map .vmov
  | 0x1A => (VR.dec n).map .vbfx
  | 0x1B => (VR.dec n).map .vbfi
  | 0x1C => (VR.dec n).map .vadds
  | 0x1D => (VR.dec n).map .vsubs
  | 0x1E => (VR.dec n).map .vdiv
  | 0x1F => (VR.dec n).map .vrem
  | 0x20 => (VC.dec n).map .vcmp
  | 0x21 => (VC.dec n).map .vcmpf
  | 0x22 => (VU.dec n).map .vpop
  | 0x23 => (VP.dec n).map .vp2v
  | 0x24 => (VV.dec n).map .vv2p
  | 0x25 => (VU.dec n).map .vfcls
  | 0x28 => (VR.dec n).map .fadd
  | 0x29 => (VR.dec n).map .fsub
  | 0x2A => (VR.dec n).map .fmul
  | 0x2B => (VR.dec n).map .ffma
  | 0x2C => (VR.dec n).map .fnma
  | 0x2D => (VR.dec n).map .fmin
  | 0x2E => (VR.dec n).map .fmax
  | 0x2F => (VU.dec n).map .fneg
  | 0x30 => (VU.dec n).map .fabs
  | 0x31 => (VU.dec n).map .frcp
  | 0x32 => (VU.dec n).map .frsq
  | 0x33 => (VU.dec n).map .fsqrt
  | 0x34 => (VU.dec n).map .fexp2
  | 0x35 => (VU.dec n).map .flog2
  | 0x36 => (VU.dec n).map .frint
  | 0x37 => (VR.dec n).map .fscale
  | 0x38 => (VR.dec n).map .hadd2
  | 0x39 => (VR.dec n).map .hmul2
  | 0x3A => (VR.dec n).map .hfma2
  | 0x3B => (VR.dec n).map .badd2
  | 0x3C => (VR.dec n).map .bmul2
  | 0x3D => (VR.dec n).map .bfma2
  | 0x3E => (VR.dec n).map .fdiv
  | 0x40 => (VCvt.dec n).map .cvt
  | 0x41 => decodeCvtsc n
  | 0x42 => (VPack.dec n).map .pack
  | 0x43 => (VUnpk.dec n).map .unpk
  | 0x44 => (VR.dec n).map .dot4i8
  | 0x45 => (VR.dec n).map .dot4n8
  | 0x46 => (VR.dec n).map .dot8i4
  | 0x47 => (VR.dec n).map .dot4e4
  | 0x48 => (VR.dec n).map .dot4e5
  | 0x49 => (VR.dec n).map .dot8f4
  | 0x4A => (VQ.dec n).map .qscale
  | 0x4B => (VInt.dec n).map .i2f
  | 0x4C => (VInt.dec n).map .f2i
  | 0x50 => (VR.dec n).map .xshfl
  | 0x51 => (VR.dec n).map .xup
  | 0x52 => (VR.dec n).map .xdn
  | 0x53 => (VR.dec n).map .xbfly
  | 0x54 => (VR.dec n).map .xbcast
  | 0x55 => (VR.dec n).map .xscan
  | 0x58 => (VI.dec n).map .vaddi
  | 0x59 => (VI.dec n).map .vandi
  | 0x5A => (VI.dec n).map .vori
  | 0x5B => (VI.dec n).map .vxori
  | 0x5C => (VI.dec n).map .vshli
  | 0x5D => (VI.dec n).map .vshri
  | 0x5E => (VI.dec n).map .vsari
  | 0x5F => (VI.dec n).map .vldi
  | 0x60 => (VM.dec n).map .ldl
  | 0x61 => (VM.dec n).map .stl
  | 0x62 => (VM.dec n).map .ldc
  | 0x63 => (VM.dec n).map .stc
  | 0x64 => (VM.dec n).map .ldf
  | 0x65 => (VM.dec n).map .stf
  | 0x66 => (VM.dec n).map .ldd
  | 0x67 => (VM.dec n).map .std
  | 0x68 => (VM.dec n).map .ldg
  | 0x69 => (VM.dec n).map .stg
  | 0x6A => (VA.dec n).map .atomg
  | 0x6B => (VA.dec n).map .atomgn
  | 0x6C => (VW.dec n).map .casg
  | 0x6D => (VW.dec n).map .xchg
  | 0x6E => (VF.dec n).map .faddg
  | 0x6F => (VA.dec n).map .atomc
  | 0x80 => (SR.dec n).map .sadd
  | 0x81 => (SR.dec n).map .ssub
  | 0x82 => (SR.dec n).map .smul
  | 0x83 => (SN.dec n).map .smulh
  | 0x84 => (SR.dec n).map .sand
  | 0x85 => (SR.dec n).map .sor
  | 0x86 => (SR.dec n).map .sxor
  | 0x87 => (SR.dec n).map .sshl
  | 0x88 => (SR.dec n).map .sshr
  | 0x89 => (SR.dec n).map .ssar
  | 0x8A => (SN.dec n).map .smin
  | 0x8B => (SN.dec n).map .smax
  | 0x8C => (SC.dec n).map .scmp
  | 0x8D => (SU.dec n).map .spopc
  | 0x8E => (SU.dec n).map .sclz
  | 0x8F => (SU.dec n).map .smov
  | 0x90 => (SI.dec n).map .saddi
  | 0x91 => (SI.dec n).map .sandi
  | 0x92 => (SI.dec n).map .sori
  | 0x93 => (SI.dec n).map .sxori
  | 0x94 => (SI.dec n).map .sshli
  | 0x95 => (SI.dec n).map .sshri
  | 0x96 => (SL.dec n).map .sldi
  | 0x97 => (SL.dec n).map .sldu
  | 0x98 => (SR.dec n).map .hmake
  | 0x99 => (SR.dec n).map .haddo
  | 0x9A => (SRed.dec n).map .redadd
  | 0x9B => (SRed.dec n).map .redmin
  | 0x9C => (SRed.dec n).map .redmax
  | 0x9D => (SRedF.dec n).map .redfadd
  | 0x9E => (SRedF.dec n).map .ballot
  | 0x9F => (SAny.dec n).map .anyl
  | 0xA0 => (SBcs.dec n).map .vbcs
  | 0xA1 => (SLane.dec n).map .vgetl
  | 0xA2 => (SLane.dec n).map .vsetl
  | 0xA8 => (SJ.dec n).map .bra
  | 0xA9 => (SB.dec n).map .bz
  | 0xAA => (SB.dec n).map .bnz
  | 0xAB => (SJ.dec n).map .call
  | 0xAC => (S1.dec n).map .ret
  | 0xAD => (SU.dec n).map .jmpi
  | 0xAE => (SJ.dec n).map .rpush
  | 0xAF => (SPB.dec n).map .brv
  | 0xB0 => if n = 0 then .ok .rjoin else .error ⟨2, 0⟩
  | 0xB1 => (SJ.dec n).map .lpush
  | 0xB2 => (SP.dec n).map .brk
  | 0xB3 => (SP.dec n).map .cont
  | 0xB4 => (SPB.dec n).map .bloop
  | 0xB5 => if n = 0 then .ok .tend else .error ⟨2, 0⟩
  | 0xB6 => if n = 0 then .ok .yield else .error ⟨2, 0⟩
  | 0xB7 => if n = 0 then .ok .nop else .error ⟨2, 0⟩
  | 0xB8 => (SJ.dec n).map .fork
  | 0xB9 => (SJ.dec n).map .forkv
  | 0xBA => (SBX.dec n).map .forkl
  | 0xBB => if n = 0 then .ok .join else .error ⟨2, 0⟩
  | 0xBC => (SU.dec n).map .take
  | 0xBD => if n = 0 then .ok .ppt else .error ⟨2, 0⟩
  | 0xBE => (SFres.dec n).map .fres
  | 0xBF => (SFrget.dec n).map .frget
  | 0xC0 => (SItem.dec n).map .enq
  | 0xC1 => (SItem.dec n).map .refill
  | 0xC2 => (SU.dec n).map .waitq
  | 0xC3 => if n = 0 then .ok .trig else .error ⟨2, 0⟩
  | 0xC4 => if n = 0 then .ok .waitdep else .error ⟨2, 0⟩
  | 0xC8 => (SM.dec n).map .sldg
  | 0xC9 => (SM.dec n).map .sstg
  | 0xCA => (SM.dec n).map .sldc
  | 0xCB => (SM.dec n).map .sstc
  | 0xCC => (SM.dec n).map .sldf
  | 0xCD => (SM.dec n).map .sstf
  | 0xCE => (SM.dec n).map .sldd
  | 0xCF => (SM.dec n).map .sstd
  | 0xD0 => (SA.dec n).map .satom
  | 0xD1 => (SX3.dec n).map .scas
  | 0xD2 => (SX3.dec n).map .sxch
  | 0xD3 => decodeBcdec n
  | 0xD4 => (SBcinc.dec n).map .bcinc
  | 0xD5 => (SBcread.dec n).map .bcread
  | 0xD6 => (SBcset.dec n).map .bcset
  | 0xD7 => (SFence.dec n).map .fence
  | 0xD8 => (SIfence.dec n).map .ifence
  | 0xD9 => (SWaitv.dec n).map .waitv
  | 0xDA => (SM.dec n).map .pfetch
  | 0xDB => (SRepl.dec n).map .repl
  | 0xE0 => (SBar.dec n).map .bara
  | 0xE1 => (SBarw.dec n).map .barw
  | 0xE2 => (SBar.dec n).map .baraw
  | 0xE3 => (STbinit.dec n).map .tbinit
  | 0xE4 => (STbarr.dec n).map .tbarr
  | 0xE5 => (STbwait.dec n).map .tbwait
  | 0xE6 => (SWaitt.dec n).map .waitt
  | 0xE7 => (SE.dec n).map .cpy
  | 0xE8 => (SE.dec n).map .cpyt
  | 0xE9 => (SX.dec n).map .mloop
  | 0xEA => (SMld.dec n).map .mld
  | 0xEB => (SMst.dec n).map .mst
  | 0xEC => (SMzero.dec n).map .mzero
  | 0xED => (SMscl.dec n).map .mscl
  | 0xF0 => (SSysr.dec n).map .sysr
  | 0xF1 => (SSysw.dec n).map .sysw
  | 0xF2 => (SRm.dec n).map .rmset
  | 0xF3 => (SPr.dec n).map .prio
  | 0xF4 => (SCode.dec n).map .trap
  | 0xF5 => (SCode.dec n).map .brkpt
  | 0xF6 => (S1.dec n).map .eret
  | 0xF7 => decodeTctl n
  | 0xF8 => decodeHalt n
  | 0xF9 => decodeCancel n
  | _ => .error ⟨1, op % 128⟩

/-- The word of a constructor: opcode and packed fields; a step without encoding has none. -/
def encode : Instr → Option Word
  | .vadd o => some (word 0x00 (o.enc))
  | .vsub o => some (word 0x01 (o.enc))
  | .vmul o => some (word 0x02 (o.enc))
  | .vmulh o => some (word 0x03 (o.enc))
  | .vmulhn o => some (word 0x04 (o.enc))
  | .vmad o => some (word 0x05 (o.enc))
  | .vmin o => some (word 0x06 (o.enc))
  | .vmax o => some (word 0x07 (o.enc))
  | .vminn o => some (word 0x08 (o.enc))
  | .vmaxn o => some (word 0x09 (o.enc))
  | .vand o => some (word 0x0A (o.enc))
  | .vor o => some (word 0x0B (o.enc))
  | .vxor o => some (word 0x0C (o.enc))
  | .vandn o => some (word 0x0D (o.enc))
  | .vshl o => some (word 0x0E (o.enc))
  | .vshr o => some (word 0x0F (o.enc))
  | .vsar o => some (word 0x10 (o.enc))
  | .vrot o => some (word 0x11 (o.enc))
  | .vaddc o => some (word 0x12 (o.enc))
  | .vsubb o => some (word 0x13 (o.enc))
  | .vabsd o => some (word 0x14 (o.enc))
  | .vclz o => some (word 0x15 (o.enc))
  | .vpopc o => some (word 0x16 (o.enc))
  | .vbrev o => some (word 0x17 (o.enc))
  | .vsel o => some (word 0x18 (o.enc))
  | .vmov o => some (word 0x19 (o.enc))
  | .vbfx o => some (word 0x1A (o.enc))
  | .vbfi o => some (word 0x1B (o.enc))
  | .vadds o => some (word 0x1C (o.enc))
  | .vsubs o => some (word 0x1D (o.enc))
  | .vdiv o => some (word 0x1E (o.enc))
  | .vrem o => some (word 0x1F (o.enc))
  | .vcmp o => some (word 0x20 (o.enc))
  | .vcmpf o => some (word 0x21 (o.enc))
  | .vpop o => some (word 0x22 (o.enc))
  | .vp2v o => some (word 0x23 (o.enc))
  | .vv2p o => some (word 0x24 (o.enc))
  | .vfcls o => some (word 0x25 (o.enc))
  | .fadd o => some (word 0x28 (o.enc))
  | .fsub o => some (word 0x29 (o.enc))
  | .fmul o => some (word 0x2A (o.enc))
  | .ffma o => some (word 0x2B (o.enc))
  | .fnma o => some (word 0x2C (o.enc))
  | .fmin o => some (word 0x2D (o.enc))
  | .fmax o => some (word 0x2E (o.enc))
  | .fneg o => some (word 0x2F (o.enc))
  | .fabs o => some (word 0x30 (o.enc))
  | .frcp o => some (word 0x31 (o.enc))
  | .frsq o => some (word 0x32 (o.enc))
  | .fsqrt o => some (word 0x33 (o.enc))
  | .fexp2 o => some (word 0x34 (o.enc))
  | .flog2 o => some (word 0x35 (o.enc))
  | .frint o => some (word 0x36 (o.enc))
  | .fscale o => some (word 0x37 (o.enc))
  | .hadd2 o => some (word 0x38 (o.enc))
  | .hmul2 o => some (word 0x39 (o.enc))
  | .hfma2 o => some (word 0x3A (o.enc))
  | .badd2 o => some (word 0x3B (o.enc))
  | .bmul2 o => some (word 0x3C (o.enc))
  | .bfma2 o => some (word 0x3D (o.enc))
  | .fdiv o => some (word 0x3E (o.enc))
  | .cvt o => some (word 0x40 (o.enc))
  | .cvtscQ o => some (word 0x41 (o.enc))
  | .cvtscD o => some (word 0x41 (o.enc))
  | .pack o => some (word 0x42 (o.enc))
  | .unpk o => some (word 0x43 (o.enc))
  | .dot4i8 o => some (word 0x44 (o.enc))
  | .dot4n8 o => some (word 0x45 (o.enc))
  | .dot8i4 o => some (word 0x46 (o.enc))
  | .dot4e4 o => some (word 0x47 (o.enc))
  | .dot4e5 o => some (word 0x48 (o.enc))
  | .dot8f4 o => some (word 0x49 (o.enc))
  | .qscale o => some (word 0x4A (o.enc))
  | .i2f o => some (word 0x4B (o.enc))
  | .f2i o => some (word 0x4C (o.enc))
  | .xshfl o => some (word 0x50 (o.enc))
  | .xup o => some (word 0x51 (o.enc))
  | .xdn o => some (word 0x52 (o.enc))
  | .xbfly o => some (word 0x53 (o.enc))
  | .xbcast o => some (word 0x54 (o.enc))
  | .xscan o => some (word 0x55 (o.enc))
  | .vaddi o => some (word 0x58 (o.enc))
  | .vandi o => some (word 0x59 (o.enc))
  | .vori o => some (word 0x5A (o.enc))
  | .vxori o => some (word 0x5B (o.enc))
  | .vshli o => some (word 0x5C (o.enc))
  | .vshri o => some (word 0x5D (o.enc))
  | .vsari o => some (word 0x5E (o.enc))
  | .vldi o => some (word 0x5F (o.enc))
  | .ldl o => some (word 0x60 (o.enc))
  | .stl o => some (word 0x61 (o.enc))
  | .ldc o => some (word 0x62 (o.enc))
  | .stc o => some (word 0x63 (o.enc))
  | .ldf o => some (word 0x64 (o.enc))
  | .stf o => some (word 0x65 (o.enc))
  | .ldd o => some (word 0x66 (o.enc))
  | .std o => some (word 0x67 (o.enc))
  | .ldg o => some (word 0x68 (o.enc))
  | .stg o => some (word 0x69 (o.enc))
  | .atomg o => some (word 0x6A (o.enc))
  | .atomgn o => some (word 0x6B (o.enc))
  | .casg o => some (word 0x6C (o.enc))
  | .xchg o => some (word 0x6D (o.enc))
  | .faddg o => some (word 0x6E (o.enc))
  | .atomc o => some (word 0x6F (o.enc))
  | .sadd o => some (word 0x80 (o.enc))
  | .ssub o => some (word 0x81 (o.enc))
  | .smul o => some (word 0x82 (o.enc))
  | .smulh o => some (word 0x83 (o.enc))
  | .sand o => some (word 0x84 (o.enc))
  | .sor o => some (word 0x85 (o.enc))
  | .sxor o => some (word 0x86 (o.enc))
  | .sshl o => some (word 0x87 (o.enc))
  | .sshr o => some (word 0x88 (o.enc))
  | .ssar o => some (word 0x89 (o.enc))
  | .smin o => some (word 0x8A (o.enc))
  | .smax o => some (word 0x8B (o.enc))
  | .scmp o => some (word 0x8C (o.enc))
  | .spopc o => some (word 0x8D (o.enc))
  | .sclz o => some (word 0x8E (o.enc))
  | .smov o => some (word 0x8F (o.enc))
  | .saddi o => some (word 0x90 (o.enc))
  | .sandi o => some (word 0x91 (o.enc))
  | .sori o => some (word 0x92 (o.enc))
  | .sxori o => some (word 0x93 (o.enc))
  | .sshli o => some (word 0x94 (o.enc))
  | .sshri o => some (word 0x95 (o.enc))
  | .sldi o => some (word 0x96 (o.enc))
  | .sldu o => some (word 0x97 (o.enc))
  | .hmake o => some (word 0x98 (o.enc))
  | .haddo o => some (word 0x99 (o.enc))
  | .redadd o => some (word 0x9A (o.enc))
  | .redmin o => some (word 0x9B (o.enc))
  | .redmax o => some (word 0x9C (o.enc))
  | .redfadd o => some (word 0x9D (o.enc))
  | .ballot o => some (word 0x9E (o.enc))
  | .anyl o => some (word 0x9F (o.enc))
  | .vbcs o => some (word 0xA0 (o.enc))
  | .vgetl o => some (word 0xA1 (o.enc))
  | .vsetl o => some (word 0xA2 (o.enc))
  | .bra o => some (word 0xA8 (o.enc))
  | .bz o => some (word 0xA9 (o.enc))
  | .bnz o => some (word 0xAA (o.enc))
  | .call o => some (word 0xAB (o.enc))
  | .ret o => some (word 0xAC (o.enc))
  | .jmpi o => some (word 0xAD (o.enc))
  | .rpush o => some (word 0xAE (o.enc))
  | .brv o => some (word 0xAF (o.enc))
  | .rjoin => some (word 0xB0 0)
  | .lpush o => some (word 0xB1 (o.enc))
  | .brk o => some (word 0xB2 (o.enc))
  | .cont o => some (word 0xB3 (o.enc))
  | .bloop o => some (word 0xB4 (o.enc))
  | .tend => some (word 0xB5 0)
  | .yield => some (word 0xB6 0)
  | .nop => some (word 0xB7 0)
  | .fork o => some (word 0xB8 (o.enc))
  | .forkv o => some (word 0xB9 (o.enc))
  | .forkl o => some (word 0xBA (o.enc))
  | .join => some (word 0xBB 0)
  | .take o => some (word 0xBC (o.enc))
  | .ppt => some (word 0xBD 0)
  | .fres o => some (word 0xBE (o.enc))
  | .frget o => some (word 0xBF (o.enc))
  | .enq o => some (word 0xC0 (o.enc))
  | .refill o => some (word 0xC1 (o.enc))
  | .waitq o => some (word 0xC2 (o.enc))
  | .trig => some (word 0xC3 0)
  | .waitdep => some (word 0xC4 0)
  | .sldg o => some (word 0xC8 (o.enc))
  | .sstg o => some (word 0xC9 (o.enc))
  | .sldc o => some (word 0xCA (o.enc))
  | .sstc o => some (word 0xCB (o.enc))
  | .sldf o => some (word 0xCC (o.enc))
  | .sstf o => some (word 0xCD (o.enc))
  | .sldd o => some (word 0xCE (o.enc))
  | .sstd o => some (word 0xCF (o.enc))
  | .satom o => some (word 0xD0 (o.enc))
  | .scas o => some (word 0xD1 (o.enc))
  | .sxch o => some (word 0xD2 (o.enc))
  | .bcdecAll o => some (word 0xD3 (o.enc))
  | .bcdecPart o => some (word 0xD3 (o.enc + 8))
  | .bcinc o => some (word 0xD4 (o.enc))
  | .bcread o => some (word 0xD5 (o.enc))
  | .bcset o => some (word 0xD6 (o.enc))
  | .fence o => some (word 0xD7 (o.enc))
  | .ifence o => some (word 0xD8 (o.enc))
  | .waitv o => some (word 0xD9 (o.enc))
  | .pfetch o => some (word 0xDA (o.enc))
  | .repl o => some (word 0xDB (o.enc))
  | .bara o => some (word 0xE0 (o.enc))
  | .barw o => some (word 0xE1 (o.enc))
  | .baraw o => some (word 0xE2 (o.enc))
  | .tbinit o => some (word 0xE3 (o.enc))
  | .tbarr o => some (word 0xE4 (o.enc))
  | .tbwait o => some (word 0xE5 (o.enc))
  | .waitt o => some (word 0xE6 (o.enc))
  | .cpy o => some (word 0xE7 (o.enc))
  | .cpyt o => some (word 0xE8 (o.enc))
  | .mloop o => some (word 0xE9 (o.enc))
  | .mld o => some (word 0xEA (o.enc))
  | .mst o => some (word 0xEB (o.enc))
  | .mzero o => some (word 0xEC (o.enc))
  | .mscl o => some (word 0xED (o.enc))
  | .sysr o => some (word 0xF0 (o.enc))
  | .sysw o => some (word 0xF1 (o.enc))
  | .rmset o => some (word 0xF2 (o.enc))
  | .prio o => some (word 0xF3 (o.enc))
  | .trap o => some (word 0xF4 (o.enc))
  | .brkpt o => some (word 0xF5 (o.enc))
  | .eret o => some (word 0xF6 (o.enc))
  | .tctlState o => some (word 0xF7 (o.enc))
  | .tctlPark o => some (word 0xF7 (o.enc + 1))
  | .tctlResume o => some (word 0xF7 (o.enc + 2))
  | .tctlKill o => some (word 0xF7 (o.enc + 3))
  | .tctlAbort o => some (word 0xF7 (o.enc + 4))
  | .tctlDbg o => some (word 0xF7 (o.enc + 5))
  | .haltStop o => some (word 0xF8 (o.enc))
  | .haltGo o => some (word 0xF8 (o.enc + 1))
  | .cancelLaunch o => some (word 0xF9 (o.enc))
  | .cancelPhase o => some (word 0xF9 (o.enc + 1))
  | .cancelJob o => some (word 0xF9 (o.enc + 2))
  | .impreciseFault _ => none
  | .satisfyLoad _ _ _ _ => none
  | .replicaCollapse _ _ => none
  | .leaseExpiry _ _ => none
  | .leaveStoreQueue _ _ => none
  | .perform _ _ => none
  | .atomicPerform _ _ => none
  | .fenceComplete _ _ => none
  | .tlbWalk _ _ _ _ => none
  | .gets _ _ => none
  | .getx _ _ => none
  | .data _ _ => none
  | .down _ _ => none
  | .recall _ _ => none
  | .tack _ _ => none
  | .evict _ _ => none
  | .nack _ _ => none
  | .pers _ _ _ => none
  | .collapse _ _ => none
  | .cack _ _ => none
  | .fennelWindowEnd => none
  | .shortfallRequest _ _ => none
  | .counterGrant _ => none
  | .counterRecall _ => none
  | .recallAnswer _ _ => none
  | .forwardedBcinc _ _ => none
  | .counterRecallTimeout _ _ => none
  | .persistentRequestTimeout _ _ _ => none
  | .recallTimeout _ _ => none
  | .copyChunk _ _ => none
  | .copyComplete _ _ => none
  | .matrixStep _ => none
  | .engineCommandComplete _ => none
  | .engineStarvationStart _ _ => none
  | .launchQueueDoorbell _ _ _ => none
  | .eventHeadDoorbell _ _ _ => none
  | .adminDoorbell _ => none
  | .launchPacketRead _ _ => none
  | .fleetPlacement _ => none
  | .launchReservation _ => none
  | .teamLeavesSlot _ => none
  | .itemsEnterList _ _ => none
  | .itemQueueFill _ _ _ => none
  | .itemReturn _ _ _ => none
  | .sageQuiescence _ => none
  | .waitReturn _ => none
  | .waitvTest _ _ => none
  | .heartbeatTick => none
  | .deterministicHeartbeat _ => none
  | .floorDue _ => none
  | .preemption _ => none
  | .restore _ _ => none
  | .clusterPowerGate _ => none
  | .clusterWake _ => none
  | .stackTemperatureSample _ _ => none
  | .thermalLimitStep _ => none
  | .hotGranuleMigration _ _ _ _ => none
  | .migrationSwap _ => none
  | .coolantFlowLow => none
  | .t2SelfRefreshEnd => none
  | .railCurrentSample _ _ => none
  | .currentLimitStep _ => none
  | .coreRailRestore _ => none
  | .correctedError _ => none
  | .spareSwap _ => none
  | .uncorrectableError _ => none
  | .regfileError _ _ _ => none
  | .dieThymeDeparture _ => none
  | .thymeResync _ => none
  | .moduleThymeDeparture => none
  | .watchdogWaitlim _ => none
  | .watchdogRunlim _ => none
  | .deadlockDetection _ => none
  | .translationInvalidationComplete _ _ => none
  | .hostBar2Write _ _ _ _ => none
  | .hostBar2Read _ _ _ => none
  | .pcreate => none
  | .presize => none
  | .presizeTimeout _ => none
  | .preset => none
  | .pdestroy => none
  | .pools => none
  | .setlease => none
  | .sethbi => none
  | .setwdog => none
  | .qcreate => none
  | .qdestroy => none
  | .otset => none
  | .tinval => none
  | .gang => none
  | .stread _ => none
  | .stwrite _ => none
  | .hostcpy _ => none
  | .adminCompletion => none
  | .arm _ _ => none
  | .go _ _ => none
  | .gangStart _ => none
  | .abort _ _ => none
  | .gangMemberCompletion _ _ => none
  | .gangTimerExpiry _ => none
  | .eagerGangTimeout _ => none
  | .remoteRequest _ => none
  | .remoteReply _ _ => none
  | .remoteNoRoute _ => none
  | .flitRetry _ _ => none
  | .pcieLinkDown => none
  | .pcieLinkUp => none
  | .hotReset => none
  | .pfFunctionLevelReset => none
  | .vfFunctionLevelReset _ => none
  | .boot _ => none
  | .recoveryRetry _ => none
  | .getVersion => none
  | .getCapabilities => none
  | .negotiateAlgorithms _ => none
  | .getDigests => none
  | .getCertificate _ _ => none
  | .challenge _ => none
  | .getMeasurements => none
  | .redfishRequest _ => none
  | .allowanceRefill => none
  | .moduleThymeResync => none
  | .routesRecomputed _ => none

/-- The constraints of an entry, after its fields. -/
def checkFields (r : Except DecErr Instr) : Except DecErr Instr :=
  match r with
  | .error e => .error e
  | .ok i =>
    match i.constraint with
    | some e => .error e
    | none => .ok i

/-- One instruction word (R164). -/
def decodeWord (w : Word) : Except DecErr Instr := checkFields (decodeFields (w.toNat / 2 ^ 24) (w.toNat % 2 ^ 24))

/-- Little-endian value of bytes (R2). -/
def leNat : List Byte → Nat
  | [] => 0
  | b :: r => b.toNat + 256 * leNat r

/-- The low n bytes of a value, lowest first (R2). -/
def leBytes : Nat → Nat → List Byte
  | 0, _ => []
  | n + 1, v => BitVec.ofNat 8 v :: leBytes n (v / 256)

/-- Decode the first instruction of a list of bytes; none where fewer than four bytes stand there. -/
def decodeBytes : List Byte → Option (Except DecErr Instr × List Byte)
  | b0 :: b1 :: b2 :: b3 :: r => some (decodeWord (BitVec.ofNat 32 (leNat [b0, b1, b2, b3])), r)
  | _ => none

/-- The instruction the decoder reads from a table row's word (bit 0 the least significant bit of the word). -/
def decodeTableWord (nbits w : Nat) : Option Instr :=
  if nbits = 0 then none
  else
    match decodeBytes (leBytes 4 w) with
    | some (.ok i, _) => some i
    | _ => none

end Sys2Proof
end

