-- ==== Sys2Proof/Machine/State.lean ====
section
/-! DEFINITION. The state of the module as plain data, and its value at reset. Each field cites the rule of spec/ that
names it; INVENTORY.md lists them with their reset values. Tables are lists of key and value with rising keys; a key
that is not listed reads as the default that the accessors of Machine/Ops.lean give. -/

namespace Sys2Proof.Machine

/-- A sparse table. -/
abbrev Tbl (α : Type) := List (Nat × α)

/-! ## Teams -/

/-- The five spaces (Table 5.1), and remote objects (R314). -/
inductive Space where
  | lane | core | fleet | die | global | remote
  deriving DecidableEq, Repr

/-- Where the value of a load or atomic goes when it is satisfied: lane registers (with the tag of the latch entry made at
issue, and the number of lanes in which its instruction runs; 0 in a replay), a uniform register, or nowhere. An access of a lane
that returns nothing names its lane alone. -/
inductive Dest where
  | none
  | lane (lane lanes : Nat)
  | vec (reg lane bytes tag lanes : Nat)
  | uni (reg : Nat)
  deriving DecidableEq, Repr

/-- An aligned 8-byte piece, or part of one, of an access (R81): location, length, and its byte offset within the
access; home is the module L2 slice of the line (R72). -/
structure Piece where
  loc  : Nat
  len  : Nat
  off  : Nat
  home : Nat
  deriving DecidableEq, Repr

/-- A load's remaining pieces and the value so far, or a fence (R84). -/
inductive TqOp where
  | load (pieces : List Piece) (acc : QWord)
  | fence (scope : Scope)
  deriving DecidableEq, Repr

/-- An entry of a team queue TQ(T); base is the id of its instruction's first access. -/
structure TqEntry where
  id     : Nat
  base   : Nat
  op     : TqOp
  acq    : Bool
  repl   : ReplMode
  lines  : List Nat            -- lines that its instruction has reached at their homes (R282)
  dest   : Dest
  pc     : QWord
  rpc    : QWord               -- its restart point (R175)
  word   : Word
  addr   : QWord
  lane   : Bool                -- of the lane-private space (R65)
  deriving DecidableEq, Repr

/-- A barrier: crew or transfer barrier of a crew, fleet barrier of a fleet, launch barrier (R23, R24, R31). -/
inductive BarKey where
  | cb (crew n : Nat)
  | tb (crew n : Nat)
  | fb (fleet n : Nat)
  | lb (launch n : Nat)
  deriving DecidableEq, Repr

/-- The counter operations (R242). -/
inductive CtrOp where
  | decAll (n : Nat)
  | decPart (n : Nat)
  | inc (n : Nat)
  | read
  | set (v : Nat)
  deriving DecidableEq, Repr

/-- What an entry of a store queue does when it acts: a store, an atomic (R239 to R241), a counter operation (R242), an
arrival (R251, R252), the items of an ENQ (R227), a TRIG (R230). -/
inductive SqOp where
  | store (v : QWord)
  | rmw (op : AOp) (v : QWord)
  | swap (v : QWord)
  | cas (e v : QWord)
  | scas (e v : QWord)
  | fadd (f : AddFmt) (v : Word) (mode : Nat)
  | ctr (elem : Nat) (op : CtrOp)
  | arrive (bar : BarKey)
  | enq (list : Nat) (items : List QWord)
  | trig
  deriving DecidableEq, Repr

/-- An entry of a store queue SQ(T). rel is the scope at which it is a release (R92); returns tells a returning atomic
from ATOMGN, which counts as a store (R95). -/
structure SqEntry where
  id      : Nat
  base    : Nat
  space   : Space
  loc     : Nat
  len     : Nat
  home    : Nat
  op      : SqOp
  acq     : Bool
  rel     : Option Scope
  returns : Bool
  dest    : Dest
  pc      : QWord
  rpc     : QWord              -- its restart point (R175)
  word    : Word
  addr    : QWord
  deriving DecidableEq, Repr

/-- A store of a core view CV(C) (R84). -/
structure CvEntry where
  id   : Nat
  base : Nat
  tk   : Nat
  loc  : Nat
  len  : Nat
  home : Nat
  v    : QWord
  pc   : QWord
  word : Word
  addr : QWord
  lane : Bool                  -- of the lane-private space (R65)
  deriving DecidableEq, Repr

/-- A latch entry (R16, R184): 64 bits per lane, and the instruction that made it. -/
structure Latch where
  tag  : Nat
  vals : List QWord
  deriving DecidableEq, Repr

inductive TokKind where
  | reconv | diverg | loop
  deriving DecidableEq, Repr

/-- A token (R221). -/
structure Token where
  kind : TokKind
  a    : QWord
  ma   : Mask
  mb   : Mask
  deriving DecidableEq, Repr

/-- A completion token (R253): commands in flight that name it, and whether the one that completed last was dropped
(R346). -/
structure CToken where
  busy   : Nat
  failed : Bool
  deriving DecidableEq, Repr

/-- A scale record (Table 14.4). -/
structure ScaleRec where
  stride : Nat
  off    : Nat
  deriving DecidableEq, Repr

/-- A team's matrix state (R261, R262). -/
structure MState where
  afmt : Nat
  bfmt : Nat
  asc  : Bool
  bsc  : Bool
  a    : ScaleRec
  b    : ScaleRec
  deriving DecidableEq, Repr

/-- What a Waiting team waits for (Table 3.2). A barrier wait learns its phase when its own arrival is counted. -/
inductive WaitOn where
  | join
  | waitq (list : Nat) (sd : BitVec 6)
  | waitdep
  | bar (key : BarKey) (phase : Option Nat) (sd : BitVec 6) (own : Bool)
  | tb (key : BarKey) (phase : Nat) (sd : BitVec 6)
  | tok (mask : BitVec 8) (any : Bool) (sd : BitVec 6)
  | memw (handle v : QWord) (w32 : Bool) (cond : WCond) (pol : QWord) (sd : BitVec 6)
  deriving DecidableEq, Repr

/-- A wait, the word of its instruction, the Thyme at which it began, the Thyme from which it counts and what it counted before
a park or save (R359). -/
structure Wait where
  on    : WaitOn
  word  : Word
  began : Nat
  since : Nat
  spent : Nat
  deriving DecidableEq, Repr

/-- A park (R319, R325): cause, detail, the state left, recorded PC, unfinished lanes, SEQ of the record or 0; where the team
goes on after a replay when its fault was found late (DEDUCED, assumption 7); and the number that its record bears too. -/
structure ParkInfo where
  cause    : Nat
  detail   : Nat
  fromWait : Bool
  pc       : QWord
  umask    : Mask
  seq      : Nat
  cont     : Option QWord
  own      : Nat
  deriving DecidableEq, Repr

/-- A fault found after its instruction retired, waiting for the team's next boundary (R321). -/
structure LateFault where
  cause  : Nat
  detail : Nat
  addr   : QWord
  aux    : QWord
  word   : Word
  prec   : Bool
  pc     : QWord
  rpc    : QWord
  umask  : Mask
  lanes  : Nat
  deriving DecidableEq, Repr

/-- A replay (R329): the instruction at which it ends, its lanes there (none: all), and where the team then goes on when not
at the next instruction, with the wait that stands there (R321). -/
structure Replay where
  pc    : QWord
  lanes : Option Mask
  cont  : Option QWord
  wait  : Option Wait
  deriving DecidableEq, Repr

/-- What a saved team's context keeps beside its registers (R33, R103, R267). -/
structure SaveInfo where
  die   : Nat
  core  : Nat
  steps : List (Nat × Nat)
  deriving DecidableEq, Repr

/-- A team (R20). -/
structure Team where
  tid      : Nat                    -- R36
  vf       : Nat
  launch   : Nat
  forked   : Bool                   -- R27
  origin   : Option QWord           -- the origin frame of a forked team (R51)
  parent   : Nat                    -- the parent's identifier
  key      : List Nat               -- logical key (R159)
  children : Nat                    -- teams it has forked (R159)
  teamid   : Nat                    -- R25
  crewid   : Nat
  fleetid  : Nat
  lgx      : Nat
  lgy      : Nat
  lgz      : Nat
  lanes    : Nat                    -- TEAMSZ
  regs     : Nat                    -- R19
  v        : Tbl (List Word)        -- R19
  p        : Tbl Mask               -- R19; p0 is always true
  s        : Tbl QWord              -- R20; s0 reads zero
  mask     : Mask                   -- R20
  lat      : List Latch             -- b0 first (R16)
  toks     : List Token             -- top first (R221)
  ct       : Tbl CToken             -- R253
  rmode    : Nat                    -- R132
  prio     : Nat                    -- R270
  level    : Bool                   -- true: supervisor (R268)
  pc       : QWord                  -- R164
  runStart : Option QWord           -- first instruction of the open latch run (R175)
  runClock : Nat                    -- the count before it (R178)
  clock    : Nat                    -- retired instructions (R60)
  epc      : QWord                  -- Table 14.8
  ecode    : QWord
  dbg      : Bool                   -- breakpoints enabled (R272)
  trig     : Bool                   -- has executed TRIG (R144)
  mst      : MState                 -- R261
  fsb      : QWord                  -- R30
  fsl      : QWord
  pending  : Bool                   -- promotion-pending flag (R50)
  tq       : List TqEntry           -- R84, oldest first
  sq       : List SqEntry           -- R84, oldest first
  observed : List Nat               -- stores observed (R84)
  horizon  : Nat                    -- lease horizon (R103); 0: none
  owed     : List Nat               -- stores a restored team waits for (R103)
  ended    : Bool                   -- R34, R35
  saved    : Option SaveInfo
  park     : Option ParkInfo
  wait     : Option Wait
  late     : List LateFault         -- R321
  parkReq  : Bool                   -- TCTL.park accepted, next boundary (R272)
  replay   : List Replay            -- R329, newest first
  fenced   : List (Nat × Nat × Nat) -- code that IFENCE named: object, first and last offset (R245)
  brkSkip  : Bool                   -- R330: the next BRKPT acts as NOP once
  named    : Option Nat             -- list last named in REFILL or WAITQ (R38)
  slice    : Nat                    -- module slice number (R8)
  slot     : Nat                    -- R147
  floor    : Nat                    -- R147
  forced   : Bool                   -- has been force-switched (R150)
  region   : Nat                    -- lane-private region in the pool (R65)
  first    : Option Nat             -- first deterministic round (R160)
  turn     : Nat                    -- last round in which it took its turn
  rlFired  : Bool                   -- parked once by RUNLIM (R359)
  hbAt     : Nat                    -- retired count at which R60 was last applied
  deriving DecidableEq, Repr

/-! ## Units of work -/

/-- Barrier state (Table 13.3), and the phases to which a dropped copy arrived (R346). -/
structure Barrier where
  ph    : Nat
  exp   : Nat
  arr   : Nat
  marks : List Nat
  deriving DecidableEq, Repr

structure Crew where
  launch : Nat
  fleet  : Nat
  cid    : Nat
  core   : Nat
  base   : Nat                 -- offset of its scratchpad allocation in the core (R80)
  cb     : Tbl Barrier
  tb     : Tbl Barrier
  left   : Nat                 -- teams not yet out of their slots
  deriving DecidableEq, Repr

structure Fleet where
  launch  : Nat
  fid     : Nat
  cluster : Nat
  fb      : Tbl Barrier
  left    : Nat
  deriving DecidableEq, Repr

/-- A launch read by the distributor (R25, R41). -/
structure Launch where
  vf       : Nat
  q        : Nat
  asid     : Nat
  level    : Bool
  pkt      : List QWord        -- the sixteen qwords of Table 3.1
  readAt   : Nat               -- Thyme of the packet read
  next     : Nat               -- next FLEETID to place
  placedAt : Option Nat        -- Thyme of its first placement
  ended    : Nat               -- teams that have left their slots
  counter  : Nat               -- completion counter (R41)
  nteams   : Nat
  nitems   : Nat
  status   : Nat
  cancel   : Bool              -- a cancel has been accepted (R42)
  done     : Bool
  trig     : Bool              -- triggered (R144)
  lists    : Tbl (List QWord)  -- R37, head first
  carry    : Tbl (List QWord)  -- items carried out of it (R40)
  dspk     : Tbl Nat           -- die to die-scratchpad base (R65)
  lb       : Tbl Barrier
  round    : Nat               -- deterministic round (R160)
  fleets   : Tbl (Nat × Nat)   -- fleet to teams left and the round in which the last one ended (R160)
  dead     : Option Nat        -- Thyme since which the deadlock condition holds (R359)
  gang     : Option Nat
  quiet    : Bool              -- Sage has reported quiescence (R39)
  past     : Bool              -- its job has completed (R40, R378)
  deriving DecidableEq, Repr

/-! ## Engines and cores -/

/-- One end of a copy: space, first location or handle, and its limits are checked at issue (R258). -/
structure CopyEnd where
  space : Nat
  reg   : QWord
  deriving DecidableEq, Repr

/-- A tensor window (Table 14.3). -/
structure Window where
  i0 : Nat
  i1 : Nat
  i2 : Nat
  i3 : Nat
  w0 : Nat
  w1 : Nat
  pitch : Nat
  dq : Bool
  dfmt : Nat
  deriving DecidableEq, Repr

/-- A source piece that a copy has still to read, or a destination piece that it has still to write (R99). p.off is the byte of the
source (its scales from 2^41) or of the copy's data; at_ is the byte of the data with whose start the piece may move; obj is the
object that it was translated through. -/
structure CopyPiece where
  p   : Piece
  at_ : Nat
  obj : Option Nat
  deriving DecidableEq, Repr

/-- A copy in flight (R256 to R260, R345). -/
structure Copy where
  id     : Nat
  tk     : Nat
  ct     : Nat
  src    : CopyEnd
  dst    : CopyEnd
  len    : Nat
  win    : Option Window
  rmode  : Nat
  geo    : List QWord          -- the descriptor of its window's tensor, as it was last read
  chunk  : Nat                 -- the chunk that it starts next or has started in part
  part   : Nat                 -- bytes of that chunk which it has started (R12, R154)
  reads  : List CopyPiece
  puts   : List CopyPiece
  buf    : Tbl Byte            -- source bytes read
  writes : List Nat            -- store ids of its writes that may not be Complete yet
  seen   : List Nat            -- stores whose values it read
  remote : Nat                 -- remote requests outstanding
  arr    : Option Nat
  held   : Bool
  fail   : Bool
  away   : Bool                -- its destination is a remote object (R85)
  crew   : Nat
  prio   : Nat
  last   : Nat                 -- core cycle of its last start (R154)
  starve : Bool
  pc     : QWord
  word   : Word
  deriving DecidableEq, Repr

inductive MatOp where
  | mloop (mt ks binc nstep boff : Nat) (a : List (List Word)) (st : MState)
  | mld (mt : Nat) (ra rb : QWord)
  | mst (mt : Nat) (ra rb : QWord) (f : StFmt) (mode : Nat)
  | mzero (mt : Nat)
  deriving DecidableEq, Repr

/-- A command of the matrix engine (R256, R264 to R266). -/
structure MatCmd where
  id     : Nat
  tk     : Nat
  ct     : Nat
  op     : MatOp
  step   : Nat
  fail   : Bool
  prio   : Nat
  last   : Nat
  starve : Bool
  cols   : List Nat            -- the columns of B that a first 16-bit step has read (R100, R139)
  pc     : QWord
  word   : Word
  deriving DecidableEq, Repr

/-- An operand latch of a slice (R265): the holder and A per step. -/
structure OpLatch where
  tk    : Nat
  steps : List (List Word)
  deriving DecidableEq, Repr

/-- An issue port: the team whose latch run holds it, and whether it is protected (R150). -/
structure Port where
  run  : Option Nat
  prot : Bool
  deriving DecidableEq, Repr

structure Slice where
  ptr   : Nat                  -- rotation pointer (R148)
  p0    : Port
  p1    : Port
  prec  : List Nat             -- teams with precedence (R149)
  latch : Option OpLatch
  yield : Option Nat           -- team that yielded (R224)
  second : Bool                -- its port 1 has issued in this cycle (R148)
  deriving DecidableEq, Repr

/-- A core: Table 9.1 and R12. -/
structure Core where
  pacost  : QWord
  guard   : Nat
  cap     : Nat
  allow   : Int
  ceil    : BitVec 24
  slices  : Tbl Slice
  copies  : List Copy
  mats    : List MatCmd
  copyRR  : Nat                -- slice the streamer granted last (R149)
  matRR   : Nat
  items   : List (Nat × Nat × QWord)   -- item queue: launch, list, item (R38)
  icache  : Tbl Word           -- instruction words held, by location (R97, R245)
  served  : List (Nat × Nat × Nat)   -- scratchpad words served in this cycle, with the instruction and its pass (R80)
  streamed : Nat               -- bytes that the streamer has started in this cycle (R12)
  stepped : Bool               -- its matrix engine has taken a step in this cycle (R13)
  refill  : Nat                -- REFILL, as the limits of its die leave it (R154, R362)
  deriving DecidableEq, Repr

/-- A die: its current limits, Thyme departure, rail trips (R350, R362, R363). -/
structure Die where
  limiting : Bool              -- its REFILL falls: above 2,375 A, until below 2,250 A (Table 24.6)
  throttle : Bool              -- every EFF is 1 (Table 24.6)
  above    : Nat               -- consecutive samples above 2,500 A
  next     : Nat               -- Thyme from which its REFILL may move again (Table 24.6)
  temp     : Nat               -- its last temperature reading (R317)
  thyme    : Bool              -- Thyme departed (R350)
  resync   : Option Nat        -- Thyme of its last resynchronisation
  tripAt   : Option Nat        -- Thyme of the last rail trip
  off      : Bool              -- the rail is off (R363)
  lost     : Bool              -- R364
  deriving DecidableEq, Repr

/-- An SRAM stack (R155). heat: 0 Normal, 1 Warm, 2 Hot, 3 Critical, 4 Shutdown; temp in degrees. -/
structure Stack where
  limit : Nat
  heat  : Nat
  temp  : Nat
  next  : Nat                  -- Thyme from which its limit may move again (R155)
  off   : Bool                 -- switched off by an emergency shutdown (R363)
  deriving DecidableEq, Repr

structure Cluster where
  gated : Bool
  idle  : Nat                  -- Thyme since which it is idle (R145)
  waking : Bool
  gatedAt : Nat                -- core cycle in which its gating began (R145)
  deriving DecidableEq, Repr

/-! ## Memory system -/

/-- A replica (R88, R114): 128 bytes, the writers of bytes whose store may not be Complete (offset, store, team), expiry, and the point of the
coherence order at which it was granted, with the partition and the home die of its line (R118). -/
structure Replica where
  bytes : List Byte
  by_   : List (Nat × Nat × Nat)
  exp   : Nat
  coh   : Nat
  vf    : Nat
  home  : Nat
  deriving DecidableEq, Repr

/-- A performed store whose GWCT may not have come (R85, R88); live: the locations of which it is still the last
writer; await: the dies whose CACK it waits for; lapse: the latest expiry among their replicas (R115, R283). -/
structure Partial where
  id    : Nat
  tk    : Nat
  line  : Nat
  home  : Nat
  own   : Nat
  coh   : Nat
  live  : List Nat
  await : List Nat
  lapse : Nat
  deriving DecidableEq, Repr

/-- Fennel's figures for a memory granule (R118, R119), and its accesses in this window and the last (R156). -/
structure Gran where
  degree : Nat
  rm     : Nat
  wr     : Nat
  repl   : Nat                 -- descriptor REPL of the object last seen on it (Table 7.3)
  pdies  : Nat                 -- P of its partition
  obj    : Nat                 -- that object: ASID × 2^24 + number
  acc    : Nat
  last   : Nat
  deriving DecidableEq, Repr

/-- A TLB entry (R74): physical granule and the descriptor's qwords. -/
structure TlbEntry where
  cluster : Nat
  asid    : Nat
  obj     : Nat
  gran    : Nat
  start   : Nat
  desc    : List QWord
  deriving DecidableEq, Repr

structure Asid where
  vf   : Nat
  base : Nat
  len  : Nat
  deriving DecidableEq, Repr

/-- A directory entry (Table 7.1), the tokens cores hold, the open transaction and persistent queue (R110), the byte
masks of privatisation (R112) and the outstanding collapses (R115). -/
structure Dir where
  mode   : Nat
  htok   : Nat
  ptrs   : List Nat
  cvec   : BitVec 12
  rvec   : BitVec 8
  toks   : Tbl Nat             -- tokens each core holds
  owner  : Option Nat          -- core with the owner token; none: the home
  opened : Option (Nat × Bool × Nat)   -- requester, for writing, answers awaited
  urgent : Option Nat          -- Thyme of the persistent request that it serves (R110)
  pers   : List (Nat × Bool × Nat)     -- persistent requests in arrival order, with their Thyme
  nacks  : Tbl Nat             -- NACKs each core has met for its access
  getx   : List (Nat × Nat)    -- GETX served: core and Thyme (R112)
  masks  : Tbl (BitVec 128)    -- privatised byte masks per core
  col    : List Nat            -- dies whose CACK is awaited
  lapse  : Nat                 -- the latest expiry among the replicas that the collapses found (R283)
  deriving DecidableEq, Repr

/-- A message of Table 7.2 or R115 in flight. DATA carries the line's 128 bytes; TACK and EVICT do where the owner token comes with
them (R109). -/
inductive Msg where
  | gets (die core line : Nat)
  | getx (die core line : Nat)
  | pers (die core line : Nat) (write : Bool) (since : Nat)
  | evict (die core line toks : Nat) (data : Option (List Byte))
  | data (die core line toks : Nat) (bytes : List Byte)
  | down (die core line : Nat)
  | recall (die core line since : Nat)
  | tack (die core line toks : Nat) (data : Option (List Byte))
  | nack (die core line : Nat)
  | collapse (die line : Nat)
  | cack (die line : Nat)
  deriving DecidableEq, Repr

/-- A counter operation waiting at a slice or a home: the team, the queue entry's destination and place. -/
structure CtrReq where
  tk   : Nat
  id   : Nat
  die  : Nat
  op   : CtrOp
  acq  : Bool
  dest : Dest
  pc   : QWord
  rpc  : QWord
  word : Word
  addr : QWord
  deriving DecidableEq, Repr

/-- A recall (R124): the dies that have answered, and the pool so far. -/
structure Recall where
  answered : List Nat
  pool     : Nat
  since    : Nat
  deriving DecidableEq, Repr

/-- A counter element (R121). -/
structure Elem where
  vf      : Nat
  obj     : Nat
  idx     : Nat
  reserve : Nat
  alw     : Tbl Nat                 -- allowance per die
  q       : Tbl (List CtrReq)       -- operations waiting at the slice of a die
  asked   : List (Nat × Nat)        -- requests in flight to the home: die and shortfall
  hq      : List CtrReq             -- the home's queue
  recallOf : Option Recall
  lost    : Bool
  deriving DecidableEq, Repr

/-- A migration (R83): partition, source and destination physical granule; or a row being spared (R353). -/
inductive Move where
  | gran (vf src dst : Nat)
  | row (r : MemRow)
  deriving DecidableEq, Repr

/-! ## Partitions -/

/-- An event (Table 24.3). -/
structure Event where
  kind   : Nat
  status : Nat
  job    : Nat
  phase  : Nat
  member : Nat
  thyme  : Nat
  id     : Nat
  deriving DecidableEq, Repr

/-- A launch queue (Table 21.2) and what the distributor keeps of it. -/
structure Queue where
  base    : QWord
  size    : Nat
  asid    : Nat
  level   : Bool
  pmax    : Nat
  evb     : QWord
  evsize  : Nat
  head    : Nat
  tail    : Nat
  evtail  : Nat
  evhead  : Nat
  stopped : Bool
  held    : List Event
  waiting : Option Nat         -- the launch read at HEAD and not yet placed
  deriving DecidableEq, Repr

/-- A phase of a job (R378). -/
structure Phase where
  job    : Nat
  phase  : Nat
  live   : Nat
  closed : Bool
  last   : Bool
  status : Nat
  q      : Nat
  done   : Bool
  cancel : Bool                -- a cancel of the phase has been accepted (R274)
  deriving DecidableEq, Repr

/-- A fault record, or with cause 0 the entry of TCTL.park, due and not yet written (R319, R326, R327). -/
structure Record where
  tk     : Nat
  cause  : Nat
  detail : Nat
  prec   : Bool
  level  : Bool
  set    : Bool
  det    : Bool
  pc     : QWord
  rpc    : QWord
  word   : Word
  lid    : Nat
  addr   : QWord
  aux    : QWord
  thyme  : Nat
  usum   : Nat
  own    : Nat                 -- the team's stores with lower ids come before the record (R326); it names the park too
  cycle  : Nat                 -- core cycle of detection, slice and slot of the team (R326)
  place  : Nat
  entered : Bool               -- its parked-team entry is written (R326, R327)
  launch : Nat                 -- the launch that is cancelled where it cannot be written (R327)
  deriving DecidableEq, Repr

/-- A partition (R10). -/
structure Part where
  mask     : BitVec 32                 -- PGRAN
  key      : Nat                       -- draw of its T2 keys (R312)
  lease    : Nat                       -- R114
  leases   : List (Nat × Nat)          -- values in force and the Thyme until which (R103)
  teamCtr  : Nat                       -- R36
  clockBase : Nat                      -- core cycle of the partition reset
  lanePool : Option (QWord × Nat)      -- R65
  framePool : Option (QWord × Nat)     -- R45
  listPool : Option (QWord × Nat)      -- R37
  queues   : Tbl Queue
  rr       : Nat                       -- queue the distributor served last (R142)
  phases   : List Phase
  jobCancel : List Nat                 -- jobs whose cancel has been accepted and that have not ended (R274)
  cancelled : List Nat                 -- LAUNCHIDs cancelled while their packets stand unread (R274)
  reserve  : Option Nat                -- reserving launch (R143)
  fqbase   : QWord                     -- Table 14.8
  fqsize   : Nat
  fqhead   : Nat
  fqtail   : Nat
  fqasid   : Nat                       -- R323
  pkbase   : QWord
  pkasid   : Nat
  tvec     : QWord
  parked   : List Nat                  -- parked-team list, entry order (R325)
  due      : List Record               -- records waiting to be written, in parking order (R327)
  failed   : List Nat                  -- teams whose moved entry could not be written (R325, R327)
  waitlim  : Nat                       -- R359
  runlim   : Nat
  noRec    : Nat                       -- completion records unwritten (R41)
  noFault  : Nat                       -- fault records that could not be written (R327)
  deferred : Nat                       -- promotions deferred (R360)
  resize   : Option (Nat × BitVec 32 × Nat)   -- PRESIZE under way: tag, new mask, Thyme (R310)
  noPlace  : BitVec 32                 -- granules on which placement is stopped
  deriving DecidableEq, Repr

/-! ## Links and control -/

/-- A fabric port (R313, R371); eth: it is set to Ethernet mode (R15, R318). -/
structure FabPort where
  up    : Bool
  eth   : Bool
  fails : Nat
  times : List Nat
  deriving DecidableEq, Repr

/-- What a remote request serves here: an atomic of a team, or a chunk of a copy. -/
inductive RemoteFor where
  | atom (tk : Nat) (e : SqEntry)
  | chunk (core id : Nat)
  deriving DecidableEq, Repr

/-- A remote request of this module that has not been answered (R314, R371, R372). -/
structure Remote where
  id   : Nat
  dest : Nat
  req  : RemoteReq
  who  : RemoteFor
  at_  : Nat
  deriving DecidableEq, Repr

/-- What the module sends out: fabric messages, storage writes, host transfers, MSI-X, management replies. -/
inductive Out where
  | remote (module : Nat) (r : RemoteReq)
  | answer (module seq : Nat) (a : RemoteAns)
  | arm (gang leader member : Nat)
  | go (gang t0 : Nat)
  | abort (gang member : Nat)
  | memberDone (gang leader member : Nat)
  | store (ns lba : Nat) (data : List Byte)
  | toHost (addr : Nat) (data : List Byte)
  | fromHost (addr n : Nat)
  | bar2 (data : List Byte)
  | msix (vf q : Nat)
  | spdm (version : Nat) (data : List Byte)
  | redfish (item : RedfishItem) (values : List Nat)
  deriving DecidableEq, Repr

/-- A member of a gang launch on this module (R315, R370). -/
structure Gang where
  number  : Nat
  count   : Nat
  member  : Nat
  leader  : Nat
  eager   : Bool
  vf      : Nat
  q       : Nat
  entry   : Nat
  launch  : Nat                -- the member's launch once its packet is read; 0 before
  armed   : Bool
  arms    : List Nat           -- members whose ARM reached the leader
  go      : Option Nat         -- T0, or the Thyme of GO in eager mode
  at_     : Nat                -- Thyme of the GANG
  armAt   : Nat                -- Thyme of its own arm
  dones   : List Nat           -- members that completed
  closed  : Bool
  tag     : Nat
  deriving DecidableEq, Repr

/-- An administration command accepted and not yet completed (R75, R310, R315); a STREAD whose stores are not Complete yet (R318). -/
inductive AdminJob where
  | tinval (tag vf asid obj : Nat)
  | presize (tag vf : Nat)
  | stread (tag vf asid : Nat) (h : QWord) (n : Nat)
  | done (tag status value : Nat)
  deriving DecidableEq, Repr

/-- The team whose instruction runs: its key, its word, and the lanes of a replay (R329). -/
structure Cur where
  tk    : Nat
  word  : Word
  lanes : Option Mask
  deriving DecidableEq, Repr

/-- What a labelled statement bounds in time (R377): a wait whose condition holds (R231, R254), a fault record (R326), a move of
memory (R83, R353), an invalidation (R75), items to hand back (R38), a persistent request (R110), a store (R120), a counter
operation (R125, R243), a cluster that wakes (R145), a deadlocked launch (R359), routes to be found anew (R371), a reset (R369). -/
inductive Duty where
  | wait (tk : Nat)
  | record (vf own : Nat)
  | move (m : Move)
  | inval (asid obj : Nat)
  | items (core launch list : Nat)
  | pers (die line core : Nat)
  | store (id : Nat) (far : Bool)
  | ctr (id : Nat) (exact : Bool)
  | wake (cluster : Nat)
  | dead (launch : Nat)
  | routes
  | reset (vf : Nat)
  deriving DecidableEq, Repr

/-- One move of the machine: a whole step of Instr, an issue of a team, an instruction-cache fill or drop (R97), the records of
a partition, the read or write of a piece of a copy (R99), a line that leaves its L2 slice (R111), a host write to a VF's BAR0 or
to the PF's administration registers (R306), a fabric port set to Ethernet mode or back (R313). -/
inductive Act where
  | ev (i : Instr)
  | issue (tk : Nat)
  | fill (tk : Nat)
  | drop (core loc : Nat)
  | flush (vf : Nat)
  | read (core copy piece : Nat)
  | write (core copy piece : Nat)
  | leave (die line : Nat)
  | bar0 (vf off : Nat) (v : QWord)
  | adminRegs (base : QWord) (size : Nat)
  | ethernet (port : Nat) (on : Bool)
  deriving DecidableEq, Repr

/-- The state of the module (DESIGN CHOICE, assumption 5). -/
structure State where
  agenda    : List Act
  todo      : List (Nat × Nat)
  duties    : List (Duty × Nat)
  cur       : Option Cur
  nextId    : Nat
  coh       : Nat
  free      : Nat
  cycle     : Nat
  thyme     : Nat
  frac      : Nat
  hbi       : Nat
  hbiNext   : Option Nat
  hbM       : Nat
  hbBase    : Nat
  window    : Nat
  status    : QWord
  mem       : List Host.Cell
  tiles     : Tbl (List Word)
  teams     : Tbl Team
  launches  : Tbl Launch
  fleets    : Tbl Fleet
  crews     : Tbl Crew
  parts     : Tbl Part
  cores     : Tbl Core
  dies      : Tbl Die
  srams     : Tbl Stack
  clusters  : Tbl Cluster
  cvs       : Tbl (List CvEntry)
  partials  : List Partial
  replicas  : Tbl Replica
  grans     : Tbl Gran
  tlb       : List TlbEntry
  asids     : Tbl Asid
  dirs      : Tbl Dir
  msgs      : List Msg
  elems     : Tbl Elem
  lost      : List LostUnit
  lostCached : List Nat
  moves     : List Move
  rowErrs   : List (MemRow × Nat)
  spared    : List MemRow
  noSpare   : List MemRow
  regErrs   : List (Nat × Nat × Nat)
  refetched : Nat
  retired   : List Nat
  fused     : List Nat
  ports     : Tbl FabPort
  routes    : List Nat
  routing   : Bool
  modNum    : Nat
  remotes   : List Remote
  served    : List (Nat × Nat × RemoteAns)
  gangs     : Tbl Gang
  ring      : List (Nat × AdminCmd)
  jobs      : List AdminJob
  posted    : List (Nat × Nat × Nat)
  adminBase : QWord
  adminSize : Nat
  adminHead : Nat
  adminOpen : Bool
  hostLink  : Bool
  resets    : List Nat
  flash     : Option ImageCheck
  refresh   : Option Nat
  coolant   : Bool
  amps      : List Nat
  total     : Nat
  nextAmps  : Nat
  nextHeat  : Nat
  out       : List Out
  deriving DecidableEq, Repr

/-- Why a step can stop with a fault. -/
inductive Fault where
  /-- Raised by exec of an instruction word when no team is named to run it. step never raises it, because it names the
  team before it runs an instruction. Safe: the hardware has no such case. -/
  | noTeam
  deriving DecidableEq, Repr

/-- Why an instruction can have no meaning. -/
inductive Refusal where
  /-- Raised by an arm of exec that has not been modelled. Safe: nothing is claimed of such an instruction. -/
  | notModelled (mnemonic : String)
  deriving DecidableEq, Repr

abbrev Result := Host.Outcome State Fault Refusal

/-- The module right after reset (R316, R374): the management cores start from ROM and BOOT is still to come; no partition
exists. Values that the spec does not state are those of assumption 4. -/
def State.reset : State where
  agenda    := []
  todo      := []
  duties    := []
  cur       := none
  nextId    := 1
  coh       := 0
  free      := 0
  cycle     := 0
  thyme     := 0
  frac      := 0
  hbi       := 22500
  hbiNext   := none
  hbM       := 0
  hbBase    := 0
  window    := 0
  status    := 0
  mem       := []
  tiles     := []
  teams     := []
  launches  := []
  fleets    := []
  crews     := []
  parts     := []
  cores     := []
  dies      := []
  srams     := []
  clusters  := []
  cvs       := []
  partials  := []
  replicas  := []
  grans     := []
  tlb       := []
  asids     := []
  dirs      := []
  msgs      := []
  elems     := []
  lost      := []
  lostCached := []
  moves     := []
  rowErrs   := []
  spared    := []
  noSpare   := []
  regErrs   := []
  refetched := 0
  retired   := []
  fused     := []
  ports     := []
  routes    := []
  routing   := false
  modNum    := 0
  remotes   := []
  served    := []
  gangs     := []
  ring      := []
  jobs      := []
  posted    := []
  adminBase := 0
  adminSize := 0
  adminHead := 0
  adminOpen := false
  hostLink  := true
  resets    := []
  flash     := none
  refresh   := none
  coolant   := false
  amps      := []
  total     := 0
  nextAmps  := 0
  nextHeat  := 0
  out       := []

end Sys2Proof.Machine
end

