-- ==== Sys2Proof/Machine/Sparse.lean ====
section
/-! DEFINITION. Sparse tables and the one sparse memory: reads, writes, and the canonical form that every write keeps
(addresses strictly rising, no zero byte listed; an unlisted byte reads 0, assumption 3). -/

namespace Sys2Proof.Machine

/-! ## Tables -/

def Tbl.get? {α : Type} : Tbl α → Nat → Option α
  | [], _ => none
  | (k, a) :: r, n => if k = n then some a else Tbl.get? r n

def Tbl.getD {α : Type} (t : Tbl α) (n : Nat) (d : α) : α := (Tbl.get? t n).getD d

def Tbl.set {α : Type} : Tbl α → Nat → α → Tbl α
  | [], n, a => [(n, a)]
  | (k, b) :: r, n, a =>
    if n < k then (n, a) :: (k, b) :: r
    else if n = k then (n, a) :: r
    else (k, b) :: Tbl.set r n a

def Tbl.del {α : Type} (t : Tbl α) (n : Nat) : Tbl α := List.filter (fun e => e.1 != n) t

def Tbl.modify {α : Type} (t : Tbl α) (n : Nat) (f : α → α) : Tbl α :=
  match Tbl.get? t n with
  | some a => Tbl.set t n (f a)
  | none => t

/-- Apply f to every entry. -/
def Tbl.mapVals {α : Type} (t : Tbl α) (f : α → α) : Tbl α := List.map (fun e => (e.1, f e.2)) t

/-- Keys strictly rising. -/
def Tbl.wf {α : Type} : Tbl α → Bool
  | [] => true
  | [_] => true
  | (k, _) :: (k', b) :: r => decide (k < k') && Tbl.wf ((k', b) :: r)

/-! ## Memory -/

abbrev Memory := List Host.Cell

/-- What an unlisted byte reads as (DESIGN CHOICE, assumption 3). -/
def Memory.unlisted : Byte := 0

def Memory.get : Memory → Nat → Byte
  | [], _ => Memory.unlisted
  | (k, b) :: r, a => if k = a then b else if a < k then Memory.unlisted else Memory.get r a

/-- Write one byte; a write of the unlisted value removes the entry. -/
def Memory.set : Memory → Nat → Byte → Memory
  | [], a, b => if b = Memory.unlisted then [] else [(a, b)]
  | (k, c) :: r, a, b =>
    if a < k then (if b = Memory.unlisted then (k, c) :: r else (a, b) :: (k, c) :: r)
    else if a = k then (if b = Memory.unlisted then r else (a, b) :: r)
    else (k, c) :: Memory.set r a b

/-- The canonical form. -/
def Memory.wf : Memory → Bool
  | [] => true
  | [(_, b)] => decide (b ≠ Memory.unlisted)
  | (k, b) :: (k', c) :: r => decide (b ≠ Memory.unlisted) && decide (k < k') && Memory.wf ((k', c) :: r)

/-- n bytes from a, lowest first. -/
def Memory.read (m : Memory) (a : Nat) : Nat → List Byte
  | 0 => []
  | n + 1 => Memory.get m a :: Memory.read m (a + 1) n

def Memory.write (m : Memory) (a : Nat) : List Byte → Memory
  | [] => m
  | b :: r => Memory.write (Memory.set m a b) (a + 1) r

/-- Zero every byte with lo ≤ a < hi. -/
def Memory.zero (m : Memory) (lo hi : Nat) : Memory := List.filter (fun e => !(decide (lo ≤ e.1) && decide (e.1 < hi))) m

/-! ## Bits and lanes -/

/-- Bits hi to lo of a value, as a number (R1). -/
def fld (q : QWord) (hi lo : Nat) : Nat := q.toNat / 2 ^ lo % 2 ^ (hi - lo + 1)

/-- The set of i < n with f i, as a number. -/
def natOfBits (f : Nat → Bool) : Nat → Nat
  | 0 => 0
  | n + 1 => natOfBits f n + (if f n then 2 ^ n else 0)

/-- The mask of the lanes below n with f. -/
def maskOf (n : Nat) (f : Nat → Bool) : Mask := BitVec.ofNat 1024 (natOfBits f n)

/-- The full mask of n lanes (R20). -/
def fullMask (n : Nat) : Mask := BitVec.ofNat 1024 (2 ^ n - 1)

/-- Mask word w (R20). -/
def maskWord (m : Mask) (w : Nat) : Nat := m.toNat / 2 ^ (32 * w) % 2 ^ 32

/-- The summary word (R20): bit w set when mask word w is not zero. -/
def summary (m : Mask) : Nat := natOfBits (fun w => maskWord m w != 0) 32

/-- A mask from its words, word 0 first. -/
def maskOfWords (ws : List Nat) : Mask := BitVec.ofNat 1024 (ws.reverse.foldl (fun a w => a * 2 ^ 32 + w % 2 ^ 32) 0)

/-- Update the entries of a list that satisfy p. -/
def updWhere {α : Type} (l : List α) (p : α → Bool) (f : α → α) : List α := l.map fun a => if p a then f a else a

end Sys2Proof.Machine
end

