-- ==== Sys2Proof/Machine/Fields.lean ====
section
/-! DEFINITION. What an instruction names: sources, vector and uniform registers read and written, latches, banks, cost
class and engine (spec 09 R147, R149, R152; 10 R166 to R175; 22 ILLEGAL 6). -/

namespace Sys2Proof

/-- Registers and latches an instruction reads and writes, and the vector registers it names. -/
structure Uses where
  vr : List Nat := []        -- vector registers read
  vw : List Nat := []        -- vector registers written, or named as a destination
  sr : List Nat := []        -- uniform registers read
  sw : List Nat := []        -- uniform registers written
  lat : List Nat := []       -- latches read
  deriving DecidableEq, Repr

def Uses.add (a b : Uses) : Uses := ⟨a.vr ++ b.vr, a.vw ++ b.vw, a.sr ++ b.sr, a.sw ++ b.sw, a.lat ++ b.lat⟩

/-- A source of 32 bits, or of a pair (R168). -/
def Src.uses (pair : Bool) : Src → Uses
  | .v r => { vr := if pair then [r.toNat, r.toNat + 1] else [r.toNat] }
  | .b k => { lat := [k.toNat] }
  | _ => {}

def pairOf (wide : Bool) (r : BitVec 6) : List Nat := if wide then [r.toNat, r.toNat + 1] else [r.toNat]

def uni (rs : List (BitVec 6)) : Uses := { sr := rs.map BitVec.toNat }

def VR.uses (o : VR) (acc pair : Bool) : Uses :=
  (Src.uses pair o.sa).add ((Src.uses pair o.sb).add
    { vw := pairOf pair o.vd, vr := if acc then [o.vd.toNat] else [] })

def VM.uses (o : VM) (load : Bool) : Uses :=
  (Src.uses false o.so).add
    { sr := [o.sbase.toNat, o.spol.toNat]
      vw := if load then pairOf (o.size == .b8) o.vt else []
      vr := if load then [] else pairOf (o.size == .b8) o.vt }

def vaUses (so : Src) (sbase : BitVec 6) (spol : BitVec 2) (rd wr : List Nat) : Uses :=
  (Src.uses false so).add { sr := [sbase.toNat, spol.toNat], vr := rd, vw := wr }

def SM.uses (o : SM) (load : Bool) : Uses :=
  { sr := [o.sbase.toNat, o.soff.toNat, o.spol.toNat] ++ if load then [] else [o.sd.toNat]
    sw := if load then [o.sd.toNat] else [] }

def Instr.uses : Instr → Uses
  | .vadd o | .vsub o | .vmul o | .vmulh o | .vmulhn o | .vmin o | .vmax o | .vminn o | .vmaxn o | .vand o
  | .vor o | .vxor o | .vandn o | .vshl o | .vshr o | .vsar o | .vrot o | .vabsd o | .vsel o | .vbfx o
  | .vadds o | .vsubs o | .vdiv o | .vrem o | .fadd o | .fsub o | .fmul o | .fmin o | .fmax o | .fscale o
  | .hadd2 o | .hmul2 o | .badd2 o | .bmul2 o | .fdiv o | .xshfl o | .xup o | .xdn o | .xbfly o | .xbcast o
  | .xscan o => o.uses false false
  | .vmad o | .vbfi o | .ffma o | .fnma o | .hfma2 o | .bfma2 o | .dot4i8 o | .dot4n8 o | .dot8i4 o | .dot4e4 o
  | .dot4e5 o | .dot8f4 o => o.uses true false
  | .vaddc o | .vsubb o => o.uses false true
  | .vclz o | .vpopc o | .vbrev o | .vmov o | .vpop o | .vfcls o | .fneg o | .fabs o | .frcp o | .frsq o
  | .fsqrt o | .fexp2 o | .flog2 o | .frint o => (Src.uses false o.sa).add { vw := [o.vd.toNat] }
  | .vp2v o => { vw := [o.vd.toNat] }
  | .vcmp o | .vcmpf o => (Src.uses false o.sa).add (Src.uses false o.sb)
  | .vv2p o => (Src.uses false o.sa).add (if o.cond = .all then {} else Src.uses false o.sb)
  | .cvt o => (Src.uses false o.sa).add ((Src.uses false o.sb).add { vw := [o.vd.toNat], vr := [o.vd.toNat] })
  | .pack o => (Src.uses false o.sa).add ((Src.uses false o.sb).add { vw := [o.vd.toNat], vr := [o.vd.toNat] })
  | .cvtscQ o => (Src.uses false o.sa).add ((Src.uses false o.sb).add { vw := [o.vd.toNat] })
  | .qscale o => (Src.uses false o.sa).add ((Src.uses false o.sb).add { vw := [o.vd.toNat] })
  | .cvtscD o => (Src.uses false o.sa).add ((Src.uses false o.sb).add { vw := [o.vd.toNat] })
  | .unpk o => (Src.uses false o.sa).add ((Src.uses false o.sb).add { vw := [o.vd.toNat] })
  | .i2f o | .f2i o => (Src.uses false o.sa).add { vw := [o.vd.toNat] }
  | .vaddi o | .vandi o | .vori o | .vxori o | .vshli o | .vshri o | .vsari o | .vldi o =>
    (Src.uses false o.sa).add { vw := [o.vd.toNat] }
  | .ldl o | .ldc o | .ldf o | .ldd o | .ldg o => o.uses true
  | .stl o | .stc o | .stf o | .std o | .stg o => o.uses false
  | .atomg o | .atomc o => vaUses o.so o.sbase o.spol [o.vt.toNat] [o.vt.toNat]
  | .atomgn o => vaUses o.so o.sbase o.spol [o.vt.toNat] []
  | .faddg o => vaUses o.so o.sbase o.spol [o.vt.toNat] [o.vt.toNat]
  | .xchg o => vaUses o.so o.sbase o.spol (pairOf (o.wide == .w64) o.vt) (pairOf (o.wide == .w64) o.vt)
  | .casg o =>
    vaUses o.so o.sbase o.spol
      (if o.wide = .w64 then [o.vt.toNat, o.vt.toNat + 1, o.vt.toNat + 2, o.vt.toNat + 3] else [o.vt.toNat, o.vt.toNat + 1])
      (pairOf (o.wide == .w64) o.vt)
  | .sadd o | .ssub o | .smul o | .sand o | .sor o | .sxor o | .sshl o | .sshr o | .ssar o | .hmake o | .haddo o =>
    { sr := [o.sa.toNat, o.sb.toNat], sw := [o.sd.toNat] }
  | .tctlState o | .tctlPark o | .tctlResume o | .tctlKill o | .tctlAbort o | .tctlDbg o =>
    { sr := [o.sa.toNat, o.sb.toNat], sw := [o.sd.toNat] }
  | .smulh o | .smin o | .smax o => { sr := [o.sa.toNat, o.sb.toNat], sw := [o.sd.toNat] }
  | .scmp o => { sr := [o.sa.toNat, o.sb.toNat], sw := [o.sd.toNat] }
  | .spopc o | .sclz o | .smov o | .saddi o | .sandi o | .sori o | .sxori o | .sshli o | .sshri o | .jmpi o
  | .waitq o | .haltStop o | .haltGo o | .cancelLaunch o | .cancelPhase o | .cancelJob o =>
    { sr := [o.sa.toNat], sw := [o.sd.toNat] }
  | .take o => { sr := [o.sa.toNat], sw := [o.sd.toNat, o.sd.toNat + 1] }
  | .sldi o => { sw := [o.sd.toNat] }
  | .sldu o => { sr := [o.sd.toNat], sw := [o.sd.toNat] }
  | .redadd o | .redmin o | .redmax o => { vr := [o.va.toNat], sw := [o.sd.toNat] }
  | .redfadd o => { vr := [o.sa.toNat], sw := [o.sd.toNat] }
  | .ballot o => { sr := [o.sa.toNat], sw := [o.sd.toNat] }
  | .anyl o => { sw := [o.sd.toNat] }
  | .vbcs o => { sr := [o.sa.toNat], vw := pairOf o.w o.vd }
  | .vgetl o => { sr := [o.sb.toNat], vr := pairOf o.w o.a, sw := [o.d.toNat] }
  | .vsetl o => { sr := [o.a.toNat, o.sb.toNat], vw := pairOf o.w o.d }
  | .bra _ | .rpush _ | .lpush _ => {}
  | .call _ => { sw := [63] }
  | .bz o | .bnz o => { sr := [o.sa.toNat] }
  | .brv _ | .bloop _ | .brk _ | .cont _ => {}
  | .ret o | .eret o => { sr := [o.sa.toNat] }
  | .rjoin | .tend | .yield | .nop | .ppt | .trig | .waitdep => {}
  | .join => { sw := [1, 2, 3, 4, 5, 6, 7, 8, 9, 10, 11, 12, 62] }
  | .fork _ | .forkv _ => { sr := [1, 2, 3, 4, 5, 6, 7, 8, 9, 10, 11, 12], sw := [62] }
  | .forkl o => { sr := [o.sa.toNat, o.sb.toNat, 1, 2, 3, 4, 5, 6, 7, 8, 9, 10, 11, 12], sw := [62] }
  | .fres o => { sr := [o.sa.toNat] }
  | .frget o => { sw := [o.sd.toNat] }
  | .enq o => { sr := [o.sa.toNat], vr := pairOf true o.vb, sw := [o.sd.toNat] }
  | .refill o => { sr := [o.sa.toNat], vw := pairOf true o.vb, sw := [o.sd.toNat] }
  | .sldg o | .sldc o | .sldf o | .sldd o => o.uses true
  | .sstg o | .sstc o | .sstf o | .sstd o | .pfetch o => o.uses false
  | .satom o => { sr := [o.sbase.toNat, o.sv.toNat, o.spol.toNat], sw := [o.sd.toNat] }
  | .scas o => { sr := [o.sbase.toNat, o.sv.toNat, o.spol.toNat, o.sd.toNat], sw := [o.sd.toNat] }
  | .sxch o => { sr := [o.sbase.toNat, o.sv.toNat, o.spol.toNat], sw := [o.sd.toNat] }
  | .bcdecAll o | .bcdecPart o | .bcset o => { sr := [o.sbase.toNat, o.sv.toNat, o.spol.toNat], sw := [o.sd.toNat] }
  | .bcinc o => { sr := [o.sbase.toNat, o.sv.toNat, o.spol.toNat] }
  | .bcread o => { sr := [o.sbase.toNat, o.spol.toNat], sw := [o.sd.toNat] }
  | .fence _ => {}
  | .ifence o => { sr := [o.sa.toNat, o.sb.toNat] }
  | .waitv o => { sr := [o.sbase.toNat, o.sv.toNat, o.spol.toNat], sw := [o.sd.toNat] }
  | .repl o => { sr := [o.sa.toNat, o.sb.toNat] }
  | .bara o | .baraw o => { sw := [o.sd.toNat] }
  | .barw o => { sr := [o.sa.toNat], sw := [o.sd.toNat] }
  | .tbinit o => { sr := [o.sa.toNat] }
  | .tbarr o => { sw := [o.sd.toNat] }
  | .tbwait o => { sr := [o.sa.toNat], sw := [o.sd.toNat] }
  | .waitt o => { sw := [o.sd.toNat] }
  | .cpy o => { sr := [o.ra.toNat, o.rb.toNat, o.rc.toNat, o.spol.toNat] }
  | .cpyt o =>
    { sr := [o.ra.toNat, o.rb.toNat, o.rc.toNat, o.rc.toNat + 1, o.rc.toNat + 2, o.rc.toNat + 3, o.spol.toNat] }
  | .mloop o => { sr := [o.sb.toNat], vr := [o.va.toNat] }
  | .mld o => { sr := [o.ra.toNat, o.rb.toNat] }
  | .mst o => { sr := [o.ra.toNat, o.rb.toNat] }
  | .mzero _ => {}
  | .mscl o => { sr := [o.ra.toNat, o.rb.toNat, o.rc.toNat] }
  | .sysr o => { sw := [o.sd.toNat] }
  | .sysw o => { sr := [o.sa.toNat] }
  | .rmset o => { sr := if o.reg then [o.sa.toNat] else [], sw := [o.sd.toNat] }
  | .prio o => { sr := if o.reg then [o.sa.toNat] else [], sw := [o.sd.toNat] }
  | .trap _ | .brkpt _ => {}
  -- the steps without a word name no register of a team
  | _ => {}

/-- Whether an instruction reads a latch (R175). -/
def Instr.readsLatch (i : Instr) : Bool := !i.uses.lat.isEmpty

/-- The first vector register named at or above a register count (ILLEGAL 6): the destination field first. -/
def Instr.highReg (i : Instr) (regs : Nat) : Option Nat := (i.uses.vw ++ i.uses.vr).find? fun r => decide (regs ≤ r)

/-- The opcode byte of an instruction word: set bit and opcode; 256 for a step without a word. -/
def Instr.opcode (i : Instr) : Nat :=
  match encode i with
  | some w => w.toNat / 2 ^ 24
  | none => 256

def Instr.isV (i : Instr) : Bool := decide (i.opcode < 128)

/-- The cost class (Table 9.2). -/
def Instr.costClass (i : Instr) : Nat :=
  let c := i.opcode
  if c < 128 then
    if c = 0x1E ∨ c = 0x1F ∨ (0x31 ≤ c ∧ c ≤ 0x35) ∨ c = 0x3E then 5
    else if c ≤ 0x1D ∨ (0x20 ≤ c ∧ c ≤ 0x25) ∨ (0x50 ≤ c ∧ c ≤ 0x5F) then 1
    else if (0x28 ≤ c ∧ c ≤ 0x30) ∨ (0x36 ≤ c ∧ c ≤ 0x3D) then 2
    else if 0x40 ≤ c ∧ c ≤ 0x4C then 3
    else 4
  else if 0xC8 ≤ c ∧ c ≤ 0xDB then 4
  else 0

/-- The streamer's commands (R256). -/
def Instr.isCopy : Instr → Bool
  | .cpy _ | .cpyt _ => true
  | _ => false

/-- The matrix engine's commands (R256). -/
def Instr.isMatrix : Instr → Bool
  | .mloop _ | .mld _ | .mst _ | .mzero _ => true
  | _ => false

/-- Memory instructions of either set, which a FENCE holds back (R244): accesses, atomics, counters, fences and the
instructions that order memory. -/
def Instr.isMemory (i : Instr) : Bool :=
  let c := i.opcode
  decide (0x60 ≤ c ∧ c ≤ 0x6F) || decide (0xC8 ≤ c ∧ c ≤ 0xDB) || i.isCopy || i.isMatrix
  || decide (0xE0 ≤ c ∧ c ≤ 0xE6) || decide (0xC0 ≤ c ∧ c ≤ 0xC4)

/-- Register-file bank reads of an instruction (R149): one per vector source, of either set; bank k mod 4. -/
def Instr.banks (i : Instr) : List Nat := i.uses.vr.map (· % 4)

end Sys2Proof
end

