-- ==== Sys2Proof/Machine/Float.lean ====
section
/-! DEFINITION. Number formats, exact values, rounding once, narrowing, the correctly rounded functions, dot products and
the matrix tree (spec 08 R126 to R141; 11 R195 to R207). Values are exact dyadic numbers; nothing is rounded but by the
functions named round. -/

namespace Sys2Proof.Machine

/-- What a format's top exponent holds (Table 8.1). -/
inductive Top where
  | ieee | e4m3 | finite
  deriving DecidableEq, Repr

/-- A floating format (Table 8.1). -/
structure FFmt where
  ebits : Nat
  mbits : Nat
  bias  : Nat
  top   : Top
  nan   : Nat
  deriving DecidableEq, Repr

def fp32 : FFmt := ⟨8, 23, 127, .ieee, 0x7FC00000⟩
def fp16 : FFmt := ⟨5, 10, 15, .ieee, 0x7E00⟩
def bf16 : FFmt := ⟨8, 7, 127, .ieee, 0x7FC0⟩
def e5m2 : FFmt := ⟨5, 2, 15, .ieee, 0x7E⟩
def e4m3 : FFmt := ⟨4, 3, 7, .e4m3, 0x7F⟩
/-- E2M1 has no NaN; where a NaN would stand, the result is +0 (R135, R138). -/
def e2m1 : FFmt := ⟨2, 1, 1, .finite, 0⟩

def FFmt.width (F : FFmt) : Nat := 1 + F.ebits + F.mbits

/-- A value: NaN, an infinity, or (-1)^neg × m × 2^e. -/
inductive FVal where
  | nan
  | inf (neg : Bool)
  | num (neg : Bool) (m : Nat) (e : Int)
  deriving DecidableEq, Repr

def fzero (neg : Bool) : FVal := .num neg 0 0

/-- The value of a code (R126, R127). -/
def FFmt.dec (F : FFmt) (n : Nat) : FVal :=
  let M := n % 2 ^ F.mbits
  let E := n / 2 ^ F.mbits % 2 ^ F.ebits
  let neg := n / 2 ^ (F.mbits + F.ebits) % 2 == 1
  let emin : Int := 1 - (F.bias : Int) - F.mbits
  let ordinary : FVal :=
    if E = 0 then .num neg M emin else .num neg (2 ^ F.mbits + M) (emin + E - 1)
  if E = 2 ^ F.ebits - 1 then
    match F.top with
    | .ieee => if M = 0 then .inf neg else .nan
    | .e4m3 => if M = 2 ^ F.mbits - 1 then .nan else ordinary
    | .finite => ordinary
  else ordinary

/-- RMODE[2:0] (R132): 0 RNE, 1 RTZ, 2 RDN, 3 RUP, 4 RNA. -/
def roundsUp (mode : Nat) (neg : Bool) (quo rem half : Nat) : Bool :=
  match mode with
  | 0 => decide (half < rem) || (rem == half && quo % 2 == 1)
  | 1 => false
  | 2 => neg && rem != 0
  | 3 => !neg && rem != 0
  | _ => decide (half ≤ rem)

/-- The sign of an exact zero result (R133, step 3). -/
def zeroNeg (mode : Nat) : Bool := mode == 2

/-- Divide m × 2^e by 2^q and round to an integer. -/
def roundAt (mode : Nat) (neg : Bool) (m : Nat) (e q : Int) : Nat :=
  if q ≤ e then m * 2 ^ (e - q).toNat
  else
    let k := (q - e).toNat
    let quo := m / 2 ^ k
    if roundsUp mode neg quo (m % 2 ^ k) (2 ^ (k - 1)) then quo + 1 else quo

/-- Round a non-zero magnitude to p bits with least exponent emin: significand and exponent, the significand below 2^p
(R133, step 1). -/
def roundSig (mode : Nat) (neg : Bool) (p : Nat) (emin : Option Int) (m : Nat) (e : Int) : Nat × Int :=
  let q0 : Int := e + (Nat.log2 m + 1 : Nat) - p
  let q := match emin with | some x => max q0 x | none => q0
  let r := roundAt mode neg m e q
  if r = 2 ^ p then (2 ^ (p - 1), q + 1) else (r, q)

/-- The largest finite significand and its exponent. -/
def FFmt.maxSig (F : FFmt) : Nat := match F.top with | .e4m3 => 2 ^ (F.mbits + 1) - 2 | _ => 2 ^ (F.mbits + 1) - 1
def FFmt.emin (F : FFmt) : Int := 1 - (F.bias : Int) - F.mbits
def FFmt.qmax (F : FFmt) : Int :=
  F.emin + (match F.top with | .ieee => 2 ^ F.ebits - 3 | _ => 2 ^ F.ebits - 2 : Nat)

def FFmt.signBit (F : FFmt) (neg : Bool) : Nat := if neg then 2 ^ (F.width - 1) else 0
/-- The code of ±M, M the largest finite magnitude. -/
def FFmt.maxCode (F : FFmt) (neg : Bool) : Nat :=
  F.signBit neg + ((F.qmax - F.emin).toNat + 1) * 2 ^ F.mbits + (F.maxSig - 2 ^ F.mbits)
/-- The code of an infinity in a format that has them. -/
def FFmt.infCode (F : FFmt) (neg : Bool) : Nat := F.signBit neg + (2 ^ F.ebits - 1) * 2 ^ F.mbits

/-- Whether R134 gives an infinity on overflow. -/
def overflowsToInf (mode : Nat) (neg : Bool) : Bool :=
  match mode with
  | 1 => false
  | 2 => neg
  | 3 => !neg
  | _ => true

/-- The code of a finite value, or none when it overflows (R133, steps 1 to 3). -/
def FFmt.finCode (F : FFmt) (mode : Nat) (neg : Bool) (m : Nat) (e : Int) : Option Nat :=
  if m = 0 then some (F.signBit neg)
  else
    let (r, q) := roundSig mode neg (F.mbits + 1) (some F.emin) m e
    if F.qmax < q ∨ (q = F.qmax ∧ F.maxSig < r) then none
    else if r < 2 ^ F.mbits then some (F.signBit neg + r)
    else some (F.signBit neg + ((q - F.emin).toNat + 1) * 2 ^ F.mbits + (r - 2 ^ F.mbits))

/-- Round once into a format whose overflow is R134's. -/
def FFmt.round (F : FFmt) (mode : Nat) : FVal → Nat
  | .nan => F.nan
  | .inf neg => F.infCode neg
  | .num neg m e =>
    match F.finCode mode neg m e with
    | some c => c
    | none => if overflowsToInf mode neg then F.infCode neg else F.maxCode neg

/-- A value as a rounding under R133 takes it: an exact zero has the sign of step 3, not its operand's. -/
def FVal.ruled (mode : Nat) : FVal → FVal
  | .num s m e => if m = 0 then fzero (zeroNeg mode) else .num s m e
  | x => x

/-- A narrowing (Table 8.3); rmode is the sampled RMODE with SAT at bit 3. -/
def FFmt.narrow (F : FFmt) (rmode : Nat) (x : FVal) : Nat :=
  let mode := rmode % 8
  let sat := rmode / 8 % 2 == 1
  let toInf (neg : Bool) : Nat :=
    match F.top with
    | .ieee => F.infCode neg
    | .e4m3 => F.nan
    | .finite => F.maxCode neg
  match x.ruled mode with
  | .nan => F.nan
  | .inf neg => if sat then F.maxCode neg else toInf neg
  | .num neg m e =>
    match F.finCode mode neg m e with
    | some c => c
    | none => if sat then F.maxCode neg else if overflowsToInf mode neg then toInf neg else F.maxCode neg

/-! ## Exact arithmetic -/

def FVal.neg' : FVal → FVal
  | .nan => .nan
  | .inf s => .inf (!s)
  | .num s m e => .num (!s) m e

/-- A product; an exact zero takes the sign zn (R133: the sign of the mode; in the matrix tree that of IEEE 754). -/
def mulWith (zn : Bool → Bool) : FVal → FVal → FVal
  | .nan, _ => .nan
  | _, .nan => .nan
  | .inf s, .inf t => .inf (s ^^ t)
  | .inf s, .num t m _ => if m = 0 then .nan else .inf (s ^^ t)
  | .num s m _, .inf t => if m = 0 then .nan else .inf (s ^^ t)
  | .num s m e, .num t n f => if m * n = 0 then fzero (zn (s ^^ t)) else .num (s ^^ t) (m * n) (e + f)

def FVal.mul (mode : Nat) (a b : FVal) : FVal := mulWith (fun _ => zeroNeg mode) a b

/-- The signed integer m × 2^(e - q) of a finite value. -/
def FVal.atExp (q : Int) : FVal → Int
  | .num s m e => (if s then -1 else 1) * ((m * 2 ^ (e - q).toNat : Nat) : Int)
  | _ => 0

def FVal.isZero : FVal → Bool
  | .num _ m _ => m == 0
  | _ => false

def FVal.expo : FVal → Option Int
  | .num _ m e => if m = 0 then none else some e
  | _ => none

def FVal.negative : FVal → Bool
  | .nan => false
  | .inf s => s
  | .num s _ _ => s

/-- The exact sum of terms; a zero sum follows R133 (zeros of one sign keep it). -/
def sumV (mode : Nat) (ts : List FVal) : FVal :=
  if ts.any (· == .nan) then .nan
  else
    let pos := ts.any (· == .inf false)
    let ngt := ts.any (· == .inf true)
    if pos && ngt then .nan
    else if pos then .inf false
    else if ngt then .inf true
    else
      let q := (ts.filterMap FVal.expo).foldl min 0
      let z := (ts.map (FVal.atExp q)).sum
      if z ≠ 0 then .num (decide (z < 0)) z.natAbs q
      else if ts.all (fun t => t.isZero && t.negative) then fzero true
      else if ts.all (fun t => t.isZero && !t.negative) then fzero false
      else fzero (zeroNeg mode)

def FVal.add (mode : Nat) (a b : FVal) : FVal := sumV mode [a, b]

/-- Floor of the square root, k bits (2^k above the root). -/
def isqrtBits (n : Nat) : Nat → Nat → Nat
  | 0, r => r
  | k + 1, r => if (r + 2 ^ k) * (r + 2 ^ k) ≤ n then isqrtBits n k (r + 2 ^ k) else isqrtBits n k r

def isqrt (n : Nat) : Nat := isqrtBits n (Nat.log2 n / 2 + 1) 0

/-- A magnitude known only to lie strictly between m and m + 1 units of 2^e keeps an odd low bit, so that it rounds as the
exact value does; every caller supplies well above 26 bits. -/
def sticky (exact : Bool) (neg : Bool) (m : Nat) (e : Int) : FVal :=
  if exact then .num neg m e else .num neg (2 * m + 1) (e - 1)

/-- a / b (R199). -/
def FVal.div (mode : Nat) : FVal → FVal → FVal
  | .nan, _ => .nan
  | _, .nan => .nan
  | .inf _, .inf _ => .nan
  | .inf s, .num t _ _ => .inf (s ^^ t)
  | .num _ _ _, .inf _ => fzero (zeroNeg mode)
  | .num s m e, .num t n f =>
    if n = 0 then (if m = 0 then .nan else .inf (s ^^ t))
    else if m = 0 then fzero (zeroNeg mode)
    else
      let k := 64 + Nat.log2 n
      sticky (m * 2 ^ k % n == 0) (s ^^ t) (m * 2 ^ k / n) (e - f - k)

/-- √a (Table 11.7a). -/
def FVal.sqrt (mode : Nat) : FVal → FVal
  | .nan => .nan
  | .inf s => if s then .nan else .inf false
  | .num s m e =>
    if m = 0 then fzero (zeroNeg mode)
    else if s then .nan
    else
      let m' := m * 2 ^ (if e % 2 = 0 then 128 else 129)
      let e' := if e % 2 = 0 then e - 128 else e - 129
      let r := isqrt m'
      sticky (r * r == m') false r (e' / 2)

/-- 1/√a. -/
def FVal.rsqrt (mode : Nat) : FVal → FVal
  | .nan => .nan
  | .inf s => if s then .nan else fzero (zeroNeg mode)
  | .num s m e =>
    if m = 0 then .inf s
    else if s then .nan
    else
      let m' := if e % 2 = 0 then m else 2 * m
      let e' := if e % 2 = 0 then e else e - 1
      let k := 64 + Nat.log2 m'
      let r := isqrt (2 ^ (2 * k) / m')
      sticky (r * r * m' == 2 ^ (2 * k)) false r (-(e' / 2) - k)

/-- ln 2 in units of 2^-256, by the series of 1 / (k 2^k). -/
def ln2Terms : Nat → Nat
  | 0 => 0
  | k + 1 => 2 ^ 256 / ((k + 1) * 2 ^ (k + 1)) + ln2Terms k

/-- The remaining terms of exp y, y in units of 2^-256, from the term t of index i. -/
def expTerms (y : Nat) : Nat → Nat → Nat → Nat
  | 0, _, _ => 0
  | k + 1, i, t => t + expTerms y k (i + 1) (t * y / ((i + 1) * 2 ^ 256))

/-- 2^a (R200). A fraction is taken to 256 bits (DEDUCED, assumption 13). -/
def FVal.exp2 (mode : Nat) : FVal → FVal
  | .nan => .nan
  | .inf s => if s then fzero (zeroNeg mode) else .inf false
  | .num s m e =>
    if m = 0 then .num false 1 0
    else if 8 ≤ e + (Nat.log2 m : Int) then
      -- |a| ≥ 256: far outside the format on either side
      if s then .num false 1 (-1000) else .num false 1 1000
    else
      let units := 2 ^ 256
      let mag := if 0 ≤ e then m * 2 ^ e.toNat * units else m * units / 2 ^ (-e).toNat
      let x : Int := if s then -(mag : Int) else mag
      let n := x / (units : Int)
      let f := (x % (units : Int)).toNat
      if f = 0 then .num false 1 n
      else sticky false false (expTerms (f * ln2Terms 260 / units) 70 0 units) (n - 256)

/-- Fraction bits of log2 g, g in [1, 2) in units of 2^256, k bits, high first. -/
def log2Bits : Nat → Nat → Nat → Nat
  | 0, _, acc => acc
  | k + 1, g, acc =>
    let h := g * g / 2 ^ 256
    if 2 ^ 257 ≤ h then log2Bits k (h / 2) (2 * acc + 1) else log2Bits k h (2 * acc)

/-- log2 a (R200), to 110 fraction bits (DEDUCED, assumption 13). -/
def FVal.log2 (mode : Nat) : FVal → FVal
  | .nan => .nan
  | .inf s => if s then .nan else .inf false
  | .num s m e =>
    if m = 0 then .inf true
    else if s then .nan
    else
      let b := Nat.log2 m
      let k : Int := e + b
      if m = 2 ^ b then
        if k = 0 then fzero (zeroNeg mode) else .num (decide (k < 0)) k.natAbs 0
      else
        let t : Int := k * 2 ^ 110 + log2Bits 110 (m * 2 ^ 256 / 2 ^ b) 0
        if 0 ≤ t then sticky false false t.natAbs (-110) else sticky false true (t.natAbs - 1) (-110)

/-- a × 2^n; an exponent beyond every format is cut where nothing can change. -/
def FVal.scale (mode : Nat) (n : Int) : FVal → FVal
  | .num s m e => if m = 0 then fzero (zeroNeg mode) else .num s m (max (-2000) (min 2000 (e + n)))
  | x => x

/-- A value rounded to an integer in a mode (R136, R198). -/
def roundInt (mode : Nat) (neg : Bool) (m : Nat) (e : Int) : Int :=
  let r := roundAt mode neg m e 0
  if neg then -(r : Int) else r

/-! ## Integer formats (R130, R136) -/

/-- Width and signedness of an integer element format. -/
structure IFmt where
  width  : Nat
  signed : Bool
  deriving DecidableEq, Repr

def IFmt.lo (F : IFmt) : Int := if F.signed then -(2 ^ (F.width - 1) : Int) else 0
def IFmt.hi (F : IFmt) : Int := if F.signed then 2 ^ (F.width - 1) - 1 else 2 ^ F.width - 1
def IFmt.sat (F : IFmt) (z : Int) : Int := max F.lo (min F.hi z)
/-- The code of an integer: its low bits. -/
def IFmt.code (F : IFmt) (z : Int) : Nat := (z % (2 ^ F.width : Int)).toNat
def IFmt.dec (F : IFmt) (n : Nat) : Int :=
  let x := n % 2 ^ F.width
  if F.signed ∧ 2 ^ (F.width - 1) ≤ x then (x : Int) - 2 ^ F.width else x

/-- Integer source, integer target (R136). -/
def IFmt.narrow (F : IFmt) (rmode : Nat) (z : Int) : Nat :=
  if rmode / 8 % 2 = 1 then F.code (F.sat z) else F.code z

/-- Floating source, integer target: always saturated (R136). -/
def IFmt.ofF (F : IFmt) (rmode : Nat) : FVal → Int
  | .nan => 0
  | .inf s => if s then F.lo else F.hi
  | .num s m e =>
    -- beyond 2^70 every target is saturated
    if 70 < e then (if m = 0 then 0 else if s then F.lo else F.hi) else F.sat (roundInt (rmode % 8) s m e)

def intV (z : Int) : FVal := .num (decide (z < 0)) z.natAbs 0

def i32 : IFmt := ⟨32, true⟩
def i8 : IFmt := ⟨8, true⟩
def i4 : IFmt := ⟨4, true⟩
def n8 : IFmt := ⟨8, false⟩
def n4 : IFmt := ⟨4, false⟩

/-! ## Packed elements (R131) -/

/-- Element j of width w. -/
def elemAt (w : Nat) (x : Word) (j : Nat) : Nat := x.toNat / 2 ^ (w * j) % 2 ^ w

/-- x with element j replaced. -/
def setElem (w : Nat) (x : Word) (j v : Nat) : Word :=
  BitVec.ofNat 32 (x.toNat - elemAt w x j * 2 ^ (w * j) + v % 2 ^ w * 2 ^ (w * j))

/-- The same element in every position. -/
def splat (w v : Nat) : Word :=
  BitVec.ofNat 32 ((List.range (32 / w)).foldl (fun a j => a + v % 2 ^ w * 2 ^ (w * j)) 0)

/-- Combine the two 16-bit elements of three registers. -/
def pairwise (f : Nat → Nat → Nat → Nat) (a b d : Word) : Word :=
  BitVec.ofNat 32
    (f (elemAt 16 a 0) (elemAt 16 b 0) (elemAt 16 d 0) % 2 ^ 16
      + f (elemAt 16 a 1) (elemAt 16 b 1) (elemAt 16 d 1) % 2 ^ 16 * 2 ^ 16)

/-! ## Arithmetic of a format (R196, R201) -/

def FFmt.addC (F : FFmt) (mode a b : Nat) : Nat := F.round mode ((F.dec a).add mode (F.dec b))
def FFmt.mulC (F : FFmt) (mode a b : Nat) : Nat := F.round mode ((F.dec a).mul mode (F.dec b))
/-- a × b + d with one rounding. -/
def FFmt.fmaC (F : FFmt) (mode a b d : Nat) : Nat :=
  F.round mode (sumV mode [(F.dec a).mul mode (F.dec b), F.dec d])
/-- d - a × b with one rounding; a zero product enters negated (R133). -/
def FFmt.fnmaC (F : FFmt) (mode a b d : Nat) : Nat :=
  F.round mode (sumV mode [F.dec d, ((F.dec a).mul mode (F.dec b)).neg'])

/-- Compare finite or infinite values: -1, 0, 1; none when unordered (R191). -/
def FVal.cmp : FVal → FVal → Option Int
  | .nan, _ => none
  | _, .nan => none
  | .inf s, .inf t => some (if s = t then 0 else if s then -1 else 1)
  | .inf s, _ => some (if s then -1 else 1)
  | _, .inf t => some (if t then 1 else -1)
  | a, b =>
    let q := min (a.expo.getD 0) (min (b.expo.getD 0) 0)
    let x := a.atExp q
    let y := b.atExp q
    some (if x < y then -1 else if x = y then 0 else 1)

/-- FMIN and FMAX on FP32 codes (R197): -0 lies below +0. -/
def fminmax (max : Bool) (a b : Word) : Word :=
  match fp32.dec a.toNat, fp32.dec b.toNat with
  | .nan, .nan => 0x7FC00000
  | .nan, _ => b
  | _, .nan => a
  | x, y =>
    let less : Bool :=
      match x.cmp y with
      | some (-1) => true
      | some 0 => x.negative && !y.negative
      | _ => false
    if less ^^ max then a else b

/-- FRINT (R198). -/
def frint (mode : Nat) (a : Word) : Word :=
  match fp32.dec a.toNat with
  | .nan => 0x7FC00000
  | .inf _ => a
  | .num s m e =>
    if m = 0 then BitVec.ofNat 32 (fp32.signBit (zeroNeg mode))
    else if 0 ≤ e then a
    else
      let r := (roundInt mode s m e).natAbs
      if 23 ≤ e + (Nat.log2 m : Int) then a
      else BitVec.ofNat 32 (fp32.round mode (.num s r 0))

/-- VFCLS (Table 11.5). -/
def fclass (a : Word) : Nat :=
  let E := a.toNat / 2 ^ 23 % 256
  let M := a.toNat % 2 ^ 23
  let neg := decide (2 ^ 31 ≤ a.toNat)
  if E = 255 then
    if M = 0 then (if neg then 0 else 7) else if M / 2 ^ 22 = 0 then 8 else 9
  else if E = 0 then
    if M = 0 then (if neg then 3 else 4) else (if neg then 2 else 5)
  else (if neg then 1 else 6)

/-- QSCALE (R205): a as FP32, b as SInt. -/
def qscale (emax : Int) (a : Word) (b : Int) : Nat :=
  match fp32.dec a.toNat with
  | .nan => 0xFF
  | .inf _ => 0xFF
  | .num _ m e =>
    if m = 0 then 127
    else (max 0 (min 254 (e + (Nat.log2 m : Int) - emax + 127 + b))).toNat

/-! ## Scales (R138) -/

/-- Quantise by E8M0 scale e (R204). -/
def FFmt.quant (F : FFmt) (rmode e : Nat) (x : FVal) : Nat :=
  if e = 0xFF then F.nan
  else
    match x with
    | .num s m k => F.narrow rmode (.num s m (k + 127 - e))
    | y => F.narrow rmode y

/-- The value of an element under a scale. -/
def scaled (x : FVal) (e : Nat) : FVal :=
  if e = 0xFF then .nan
  else
    match x with
    | .num s m k => .num s m (k + e - 127)
    | y => y

/-! ## Dot products (R137, R207) -/

/-- The exact sum of n products of elements of F and d, rounded once to FP32. -/
def dotF (F : FFmt) (n mode : Nat) (a b d : Word) : Word :=
  BitVec.ofNat 32 (fp32.round mode (sumV mode (fp32.dec d.toNat ::
    (List.range n).map fun j => (F.dec (elemAt F.width a j)).mul mode (F.dec (elemAt F.width b j)))))

def dotI (F : IFmt) (a b d : Word) : Word :=
  wrap32 (d.toInt + ((List.range (32 / F.width)).map fun j => F.dec (elemAt F.width a j) * F.dec (elemAt F.width b j)).sum)

/-! ## The matrix tree (R139 to R141) -/

/-- RoundW24: 24 bits, unbounded exponent, ties to even. -/
def roundW24 : FVal → FVal
  | .num s m e => if m = 0 then .num s 0 0 else let (r, q) := roundSig 0 s 24 none m e; .num s r q
  | x => x

/-- A node: IEEE addition; a zero sum is +0 unless both children are -0. -/
def nodeW24 (a b : FVal) : FVal := roundW24 (sumV 0 [a, b])

/-- One level of the tree. -/
def treeLevel : List FVal → List FVal
  | a :: b :: r => nodeW24 a b :: treeLevel r
  | l => l

/-- The products of one group onto an accumulator element (R140). The scaled root is rounded under R133, an exact zero too. -/
def groupAcc (ps : List FVal) (ea eb : Nat) (acc : Word) : Word :=
  let root := (treeLevel (treeLevel (treeLevel (treeLevel ps)))).getD 0 (fzero false)
  let g : FVal :=
    if ea = 0xFF ∨ eb = 0xFF then .nan
    else
      match root with
      | .num s m e => .num s m (e + ea + eb - 254)
      | x => x
  BitVec.ofNat 32 (fp32.addC 0 acc.toNat (fp32.round 0 (g.ruled 0)))

/-- A product of the engine; its zero has the sign of IEEE 754 (R141; DEDUCED, assumption 14). -/
def engineMul (a b : FVal) : FVal := mulWith id a b

/-! ## REDFADD (R217) -/

/-- One level: absent children pass the other on; a NaN passes as the canonical NaN. -/
def redLevel (mode : Nat) : List (Option Nat) → List (Option Nat)
  | a :: b :: r =>
    (match a, b with
     | none, w => w.map fun x => if fp32.dec x = .nan then 0x7FC00000 else x
     | u, none => u.map fun x => if fp32.dec x = .nan then 0x7FC00000 else x
     | some x, some y => some (fp32.addC mode x y)) :: redLevel mode r
  | l => l

def redLevels (mode : Nat) : Nat → List (Option Nat) → List (Option Nat)
  | 0, l => l
  | k + 1, l => redLevels mode k (redLevel mode l)

def redfadd (mode : Nat) (xs : List (Option Nat)) : Nat := ((redLevels mode 10 xs).getD 0 none).getD 0

/-! ## Atomic and packed helpers (R239) -/

def faddPair (F : FFmt) (mode : Nat) (m v : Word) : Word := pairwise (fun a b _ => F.addC mode a b) m v 0

end Sys2Proof.Machine
end

