-- ==== Sys2Proof/Machine/Objects.lean ====
section
/-! DEFINITION. The module's layout (spec 01 R7 to R10), locations, packet and descriptor fields (03 Table 3.1, 05 Table
5.2), the walk from a handle to locations, homes (05 R66 to R74) and the checks an access meets before it reaches memory
(05 R63, R64, R73; 23 R340, R342). -/

namespace Sys2Proof.Machine

/-! ## Layout -/

def coreDie (core : Nat) : Nat := core / 48
def coreGran (core : Nat) : Nat := 4 * (core / 48) + core % 48 / 12
def coreCluster (core : Nat) : Nat := core / 4
def clusterGran (cl : Nat) : Nat := 4 * (cl / 12) + cl % 12 / 3
def l2Die (s : Nat) : Nat := s / 24
def l2Gran (s : Nat) : Nat := 4 * (s / 24) + s % 24 / 6

def Part.owns (p : Part) (g : Nat) : Bool := p.mask.getLsbD g

/-- Dies of a partition, ascending. -/
def Part.dies (p : Part) : List Nat :=
  (List.range 8).filter fun d => (List.range 4).any fun q => p.owns (4 * d + q)

/-- L2 slices of a partition, ascending (R9). -/
def Part.l2s (p : Part) : List Nat := (List.range 192).filter fun s => p.owns (l2Gran s)

def Part.coresOf (p : Part) : List Nat := (List.range 384).filter fun c => p.owns (coreGran c)

/-- The partition granule that owns a physical address; none where R71 backs nothing. -/
def physGran (a : Nat) : Option Nat :=
  if a < 2 ^ 37 then
    if a % 2 ^ 32 < 3 * 2 ^ 30 then some (a / 2 ^ 32) else none
  else if (a - 2 ^ 37) / 2 ^ 34 < 192 then some (l2Gran ((a - 2 ^ 37) / 2 ^ 34)) else none

/-! ## Locations: one number names each byte of every space (DESIGN CHOICE, assumption 8). -/

def coreLoc (core off : Nat) : Nat := 2 ^ 43 + core * 2 ^ 20 + off
def dieLoc (die off : Nat) : Nat := 2 ^ 44 + die * 2 ^ 32 + off
def laneLoc (vf off : Nat) : Nat := 2 ^ 64 + vf * 2 ^ 42 + off

/-- A location in a scratchpad, where every level is reached at the bank (R85). -/
def isBank (loc : Nat) : Bool := decide (2 ^ 42 ≤ loc) && decide (loc < 2 ^ 64)

def isPhys (loc : Nat) : Bool := decide (loc < 2 ^ 42)

/-! ## Little-endian values (R2) -/

def State.rdNat (s : State) (loc n : Nat) : Nat := leNat (Memory.read s.mem loc n)

def State.rdQ (s : State) (loc : Nat) : QWord := BitVec.ofNat 64 (s.rdNat loc 8)

/-! ## Launch packets (Table 3.1) -/

def Launch.q' (l : Launch) (n : Nat) : QWord := l.pkt.getD n 0

def Launch.prio (l : Launch) : Nat := fld (l.q' 0) 59 57
def Launch.det (l : Launch) : Bool := fld (l.q' 0) 56 56 == 1
def Launch.early (l : Launch) : Bool := fld (l.q' 0) 55 55 == 1
def Launch.cor (l : Launch) : Bool := fld (l.q' 0) 54 54 == 1
def Launch.prod (l : Launch) : Bool := fld (l.q' 0) 53 53 == 1
def Launch.prodt (l : Launch) : Nat := fld (l.q' 0) 52 49
def Launch.ncrews (l : Launch) : Nat := fld (l.q' 0) 48 47 + 1
def Launch.nteamsCrew (l : Launch) : Nat := fld (l.q' 0) 46 43 + 1
def Launch.lanes (l : Launch) : Nat := 32 * (fld (l.q' 0) 42 38 + 1)
def Launch.regs (l : Launch) : Nat := 8 * (fld (l.q' 0) 37 35 + 1)
def Launch.tbars (l : Launch) : Nat := fld (l.q' 0) 34 28
def Launch.nlists (l : Launch) : Nat := fld (l.q' 0) 27 15
def Launch.cbars (l : Launch) : Nat := fld (l.q' 0) 14 10
def Launch.fbars (l : Launch) : Nat := fld (l.q' 0) 9 6
def Launch.pend (l : Launch) : Bool := fld (l.q' 0) 5 5 == 1
def Launch.jend (l : Launch) : Bool := fld (l.q' 0) 4 4 == 1
def Launch.gx (l : Launch) : Nat := fld (l.q' 1) 63 48 + 1
def Launch.gy (l : Launch) : Nat := fld (l.q' 1) 47 32 + 1
def Launch.gz (l : Launch) : Nat := fld (l.q' 1) 31 16 + 1
def Launch.dwave (l : Launch) : Nat := fld (l.q' 1) 15 0
def Launch.hbi (l : Launch) : Nat := if fld (l.q' 2) 63 40 = 0 then 22500 else fld (l.q' 2) 63 40
def Launch.cspk (l : Launch) : Nat := fld (l.q' 2) 39 29
def Launch.fwink (l : Launch) : Nat := fld (l.q' 2) 28 19
def Launch.dspkKiB (l : Launch) : Nat := fld (l.q' 2) 18 3
def Launch.entry (l : Launch) : QWord := l.q' 3
def Launch.fstack (l : Launch) : QWord := l.q' 4
def Launch.compl (l : Launch) : QWord := l.q' 5
def Launch.fsfr (l : Launch) : Nat := fld (l.q' 6) 63 48
def Launch.lid (l : Launch) : Nat := fld (l.q' 6) 47 24
def Launch.phase (l : Launch) : Nat := fld (l.q' 6) 23 8
def Launch.job (l : Launch) : Nat := fld (l.q' 7) 63 48
def Launch.dep0 (l : Launch) : Nat := fld (l.q' 7) 47 24
def Launch.dep1 (l : Launch) : Nat := fld (l.q' 7) 23 0
def Launch.nfleets (l : Launch) : Nat := l.gx * l.gy * l.gz
def Launch.placed (l : Launch) : Bool := decide (l.nfleets ≤ l.next)

/-- A crew with none of CSPK, FWINK, TBARS, CBARS, FBARS is unbound (R23). -/
def Launch.bound (l : Launch) : Bool :=
  !(l.cspk == 0 && l.fwink == 0 && l.tbars == 0 && l.cbars == 0 && l.fbars == 0)

/-- The fleets of one deterministic wave (R160). -/
def Launch.wave (l : Launch) : Nat := if l.dwave = 0 then l.nfleets else l.dwave

/-! ## Teams and their surroundings -/

def teamKey (vf tid : Nat) : Nat := vf * 2 ^ 24 + tid
def fleetKey (launch fid : Nat) : Nat := launch * 2 ^ 48 + fid
def crewKey (launch fid cid : Nat) : Nat := launch * 2 ^ 50 + fid * 4 + cid

def Team.tk (t : Team) : Nat := teamKey t.vf t.tid
def Team.core (t : Team) : Nat := t.slice / 6
def Team.die (t : Team) : Nat := coreDie t.core
def Team.crewKey (t : Team) : Nat := Machine.crewKey t.launch t.fleetid t.crewid
def Team.fleetKey (t : Team) : Nat := Machine.fleetKey t.launch t.fleetid

def State.part? (s : State) (vf : Nat) : Option Part := Tbl.get? s.parts vf
def State.launch? (s : State) (l : Nat) : Option Launch := Tbl.get? s.launches l
def State.team? (s : State) (tk : Nat) : Option Team := Tbl.get? s.teams tk

/-- LEASE of a team's partition (R114). -/
def State.leaseOf (s : State) (vf : Nat) : Nat := ((s.part? vf).map Part.lease).getD 1000

/-! ## Handles and descriptors -/

def hObj (h : QWord) : Nat := fld h 63 40
def hOff (h : QWord) : Nat := fld h 39 0

/-- The handle of an object and an offset modulo 2^40. -/
def mkHandle (obj off : Nat) : QWord := BitVec.ofNat 64 (obj % 2 ^ 24 * 2 ^ 40 + off % 2 ^ 40)

/-- A fault an instruction or access meets: CAUSE, DETAIL, ADDR, AUX (Table 22.1). -/
structure FInfo where
  cause  : Nat
  detail : Nat
  addr   : QWord
  aux    : QWord
  deriving DecidableEq, Repr

abbrev Desc := List QWord

def Desc.q (d : Desc) (n : Nat) : QWord := List.getD d n 0
def Desc.valid (d : Desc) : Bool := fld (d.q 0) 63 63 == 1
def Desc.kind (d : Desc) : Nat := fld (d.q 0) 62 60
def Desc.pr (d : Desc) : Bool := fld (d.q 0) 59 59 == 1
def Desc.pw (d : Desc) : Bool := fld (d.q 0) 58 58 == 1
def Desc.px (d : Desc) : Bool := fld (d.q 0) 57 57 == 1
def Desc.repl (d : Desc) : Nat := fld (d.q 0) 56 55
def Desc.pin (d : Desc) : Nat := fld (d.q 0) 54 53
def Desc.hilv (d : Desc) : Nat := fld (d.q 0) 52 49
def Desc.hdie (d : Desc) : Nat := fld (d.q 0) 48 41
def Desc.len (d : Desc) : Nat := fld (d.q 0) 39 0 + 1
def Desc.next (d : Desc) : Nat := fld (d.q 1) 63 52
def Desc.ecap (d : Desc) : Nat := fld (d.q 1) 51 40
def Desc.extp (d : Desc) : Nat := 64 * fld (d.q 1) 39 0
def Desc.tfmt (d : Desc) : Nat := fld (d.q 2) 63 60
def Desc.smode (d : Desc) : Nat := fld (d.q 2) 57 56
def Desc.sbase (d : Desc) : QWord := d.q 7
def Desc.rmod (d : Desc) : Nat := fld (d.q 2) 63 58
def Desc.robj (d : Desc) : Nat := fld (d.q 2) 57 34
def Desc.rasid (d : Desc) : Nat := fld (d.q 2) 9 0

/-- A descriptor field outside Table 5.2 (OBJECT 4). The walker reads Q2 to Q7 for the tensor and remote kinds only (R68). -/
def Desc.bad (d : Desc) : Bool :=
  decide (5 ≤ d.kind) || d.repl == 3 || decide (10 ≤ d.hilv) || fld (d.q 0) 40 40 != 0
  || (d.kind == 2 && d.len % 8 != 0)
  || (if d.kind = 1 then
        decide (12 ≤ d.tfmt) || decide (2 ≤ d.smode) || fld (d.q 2) 55 48 != 0 || fld (d.q 3) 63 48 != 0
        || fld (d.q 4) 63 40 != 0 || fld (d.q 5) 63 40 != 0 || fld (d.q 6) 63 40 != 0
      else if d.kind = 4 then
        fld (d.q 2) 33 10 != 0 || (d.q 1) != 0 || (List.range 5).any (fun i => d.q (3 + i) != 0)
      else false)

def qn (n : Nat) : QWord := BitVec.ofNat 64 n

/-- The TLB entry of a cluster for the granule at a handle (R74). -/
def State.tlbHit (s : State) (cluster asid : Nat) (h : QWord) : Option TlbEntry :=
  s.tlb.find? fun e => e.cluster == cluster && e.asid == asid && e.obj == hObj h && e.gran == hOff h / 65536

/-- Where the descriptor of an object stands (R67). -/
def State.descLoc (s : State) (asid obj : Nat) : Nat := ((Tbl.get? s.asids asid).map Asid.base).getD 0 + 64 * obj

/-- The descriptor an access of a cluster finds: the TLB's for the granule, or on a miss the one in the object table (R67,
R74). Faults OBJECT 1 to 4. -/
def State.desc (s : State) (cluster asid : Nat) (h : QWord) : Except FInfo Desc :=
  let obj := hObj h
  let len := ((Tbl.get? s.asids asid).map Asid.len).getD 0
  if obj = 0 then .error ⟨0x40, 1, h, 0⟩
  else if len ≤ obj then .error ⟨0x40, 2, h, qn len⟩
  else
    match s.tlbHit cluster asid h with
    | some e => .ok e.desc
    | none =>
      let d : Desc := (List.range 8).map fun i => s.rdQ (s.descLoc asid obj + 8 * i)
      if !d.valid then .error ⟨0x40, 3, h, d.q 0⟩
      else if d.bad then .error ⟨0x40, 4, h, d.q 0⟩
      else .ok d

def State.extents (s : State) (d : Desc) : List QWord := (List.range d.next).map fun i => s.rdQ (d.extp + 8 * i)

/-- An extent list outside R70 (OBJECT 5). A remote object has none. -/
def State.extBad (s : State) (d : Desc) : Bool :=
  d.kind != 4 &&
  (d.next == 0 || decide (d.ecap < d.next)
    || (s.extents d).any (fun e => fld e 63 40 == 0 || fld e 39 26 != 0)
    || decide (((s.extents d).map (fun e => fld e 63 40)).sum < (d.len + 65535) / 65536))

/-- OBJECT 5 of an access: the walker reads the extent list on a miss only (R74). -/
def State.extFault (s : State) (cluster asid : Nat) (h : QWord) (d : Desc) : Option FInfo :=
  if (s.tlbHit cluster asid h).isNone && s.extBad d then some ⟨0x40, 5, h, d.q 1⟩ else none

/-- A descriptor or extent entry is lost until a TINVAL follows its rewriting (Table 23.3). -/
def State.descLost (s : State) (a : Nat) : Bool := s.lost.contains (.desc a) || s.lost.contains (.mended a)

/-- DATA 7 of an access: its walk read a lost descriptor or extent entry. It is the last of the walk's conditions (R380). -/
def State.walkLost (s : State) (cluster asid : Nat) (h : QWord) (d : Desc) : Option FInfo :=
  if (s.tlbHit cluster asid h).isSome then none
  else if s.descLost (s.descLoc asid (hObj h)) then some ⟨0x48, 7, h, qn (s.descLoc asid (hObj h))⟩
  else ((List.range d.next).find? fun i => s.descLost (d.extp + 8 * i)).map fun i => ⟨0x48, 7, h, qn (d.extp + 8 * i)⟩

/-- The physical granule of granule g of an extent list (R70). -/
def granOf : List QWord → Nat → Option Nat
  | [], _ => none
  | e :: r, g => if g < fld e 63 40 then some (fld e 25 0 + g) else granOf r (g - fld e 63 40)

/-- Whether a physical granule lies in a partition (R71). -/
def State.ownsGran (s : State) (vf start : Nat) : Bool :=
  match physGran (start * 65536), s.part? vf with
  | some g, some p => p.owns g
  | _, _ => false

/-- The physical address of offset off of an object: NOTPRESENT 1, or DATA 7 for what the walk has lost. -/
def State.phys (s : State) (cluster asid vf : Nat) (d : Desc) (obj off : Nat) : Except FInfo Nat :=
  let h := mkHandle obj off
  match s.tlbHit cluster asid h with
  | some e => .ok (e.start * 65536 + off % 65536)
  | none =>
    let st := (granOf (s.extents d) (off / 65536)).getD 0
    if !s.ownsGran vf st then .error ⟨0x45, 1, h, qn st⟩
    else
      match s.walkLost cluster asid h d with
      | some f => .error f
      | none => .ok (st * 65536 + off % 65536)

/-- The address space in which the control complex reads a handle of a command: the partition's lowest ASID (DEDUCED, assumption 20). -/
def State.vfAsid (s : State) (vf : Nat) : Option Nat := (s.asids.find? fun e => e.2.vf == vf).map (·.1)

/-- The lane-private pool of a partition (R65): the offset of its handle in the object, and the object's extents. -/
def State.lanePool? (s : State) (vf : Nat) : Option (Nat × List QWord) :=
  match (s.part? vf).bind Part.lanePool, s.vfAsid vf with
  | some (h, _), some a =>
    match s.desc 999 a h with
    | .error _ => none
    | .ok d => some (hOff h, s.extents d)
  | _, _ => none

/-- The location of an offset of that pool: the physical address behind the pool's handle. An offset that no granule of the partition backs
has a location of its own (DESIGN CHOICE, assumption 8). -/
def State.laneIn (s : State) (vf off : Nat) : Option (Nat × List QWord) → Nat
  | none => laneLoc vf off
  | some (o, es) =>
    match granOf es ((o + off) / 65536) with
    | some st => if s.ownsGran vf st then st * 65536 + (o + off) % 65536 else laneLoc vf off
    | none => laneLoc vf off

def State.laneAt (s : State) (vf off : Nat) : Nat := s.laneIn vf off (s.lanePool? vf)

/-- Home(n, o) (R72): the module L2 slice. -/
def State.home (s : State) (vf obj off hilv hdie : Nat) : Nat :=
  match s.part? vf with
  | none => 0
  | some p =>
    let sel := p.l2s.filter fun l => hdie / 2 ^ (l2Die l) % 2 == 1
    let list := if sel.isEmpty then p.l2s else sel
    list.getD ((off / 2 ^ (7 + hilv) + obj) % max list.length 1) 0

/-! ## Aligned pieces (R81) -/

/-- Split [off, off + size) at multiples of 8: (offset within the access, length), fuel pieces at most. -/
def splitAt8 : Nat → Nat → Nat → Nat → List (Nat × Nat)
  | 0, _, _, _ => []
  | fuel + 1, off, done, size =>
    if size ≤ done then []
    else
      let n := min (8 - (off + done) % 8) (size - done)
      (done, n) :: splitAt8 fuel off (done + n) size

/-! ## Checks (R63, R64, R73, R340) -/

/-- What an access asks of its object. -/
inductive Need where
  | load | store | atomic | counter | copyRead | copyWrite
  deriving DecidableEq, Repr

/-- KIND, PERM of an access of this need (Tables 5.5, 23.1). An atomic or a copy on a code object is KIND 1, with AUX its kind (DESIGN CHOICE,
assumption 60). -/
def Desc.admits (d : Desc) (need : Need) (h : QWord) : Option FInfo :=
  let kind : Option FInfo :=
    match need with
    | .counter => if d.kind = 2 then none else some ⟨0x41, 2, h, qn d.kind⟩
    | .atomic | .copyRead | .copyWrite => if d.kind = 2 ∨ d.kind = 3 then some ⟨0x41, 1, h, qn d.kind⟩ else none
    | .load | .store => if d.kind = 2 ∨ d.kind = 4 then some ⟨0x41, 1, h, qn d.kind⟩ else none
  match kind with
  | some f => some f
  | none =>
    if (need != .store) && (need != .copyWrite) && !d.pr then some ⟨0x42, 1, h, qn (fld (d.q 0) 59 57)⟩
    else if (need != .load) && (need != .copyRead) && !d.pw then some ⟨0x42, 2, h, qn (fld (d.q 0) 59 57)⟩
    else none

/-- The checks made at issue of a global access of size bytes at base plus x (0x40 to 0x44): the descriptor, or the lowest
cause and detail met. align 0 asks no alignment; adet is the ALIGN detail (DEDUCED, assumption 9). -/
def State.checkGlobal (s : State) (cluster asid : Nat) (need : Need) (base : QWord) (x size align adet : Nat) :
    Except FInfo Desc :=
  let off := hOff base + x
  let h := mkHandle (hObj base) off
  match s.desc cluster asid h with
  | .error f => .error f
  | .ok d =>
    match s.extFault cluster asid h d with
    | some f => .error f
    | none =>
      match d.admits need h with
      | some f => .error f
      | none =>
        if 2 ^ 40 ≤ off then .error ⟨0x43, 2, h, 0⟩
        else if d.len < off + size then .error ⟨0x43, 1, h, qn d.len⟩
        else if align ≠ 0 ∧ off % align ≠ 0 then .error ⟨0x44, adet, h, qn align⟩
        else .ok d

/-- The pieces of a global access that passed its checks, each translated (NOTPRESENT, DATA 7). -/
def State.globalPieces (s : State) (cluster asid vf : Nat) (d : Desc) (obj off size : Nat) : Except FInfo (List Piece) :=
  (splitAt8 (size / 8 + 2) off 0 size).foldr
    (fun p acc =>
      match s.phys cluster asid vf d obj (off + p.1), acc with
      | .error f, _ => .error f
      | .ok _, .error f => .error f
      | .ok a, .ok r => .ok (⟨a, p.2, p.1, s.home vf obj (off + p.1) d.hilv d.hdie⟩ :: r))
    (.ok [])

def Space.modulus : Space → Nat
  | .lane => 2 ^ 16
  | .core => 2 ^ 20
  | .fleet => 2 ^ 21
  | .die => 2 ^ 25
  | _ => 2 ^ 64

/-- The location of a non-global access at the exact sum a (R63 to R65), of a lane-private one its offset in the pool, or BOUNDS 3 to 5
and ALIGN. -/
def State.localLoc (s : State) (t : Team) (sp : Space) (a size lane align adet : Nat) : Except FInfo Nat :=
  let off := a % sp.modulus
  let l := (s.launch? t.launch)
  let cspk := (l.map Launch.cspk).getD 0 * 1024
  let fw := (l.map Launch.fwink).getD 0 * 1024
  let dspk := (l.map Launch.dspkKiB).getD 0 * 1024
  let lim := match sp with | .lane => 0xF000 | .core => cspk | .fleet => fw | _ => dspk
  let c := off / 2 ^ 19
  let w := off % 2 ^ 19
  let base (cid : Nat) : Nat :=
    match Tbl.get? s.crews (Machine.crewKey t.launch t.fleetid cid) with
    | some cr => coreLoc cr.core cr.base
    | none => coreLoc t.core 0
  if sp = .fleet ∧ ((l.map Launch.ncrews).getD 0 ≤ c ∨ lim < w + size) then .error ⟨0x43, 4, qn off, qn lim⟩
  else if sp ≠ .fleet ∧ lim < off + size then .error ⟨0x43, 3, qn off, qn lim⟩
  else if sp ≠ .lane ∧ t.forked then .error ⟨0x43, 5, qn off, 0⟩
  else if align ≠ 0 ∧ off % align ≠ 0 then .error ⟨0x44, adet, qn off, qn align⟩
  else
    match sp with
    | .lane => .ok (t.region + 65536 * lane + off)
    | .core => .ok (base t.crewid + off)
    | .fleet => .ok (base c + (cspk - fw) + w)
    | _ => .ok (dieLoc t.die (((l.bind fun l => Tbl.get? l.dspk t.die)).getD 0 + off))

/-- The pieces of a non-global access; a lane-private line is homed by its offset in the pool (R72). -/
def State.localPieces (s : State) (t : Team) (sp : Space) (loc size : Nat) : List Piece :=
  (splitAt8 (size / 8 + 2) loc 0 size).map fun p =>
    if sp = .lane then ⟨s.laneAt t.vf (loc + p.1), p.2, p.1, s.home t.vf 0 (loc + p.1) 0 0⟩ else ⟨loc + p.1, p.2, p.1, 0⟩

end Sys2Proof.Machine
end

