-- ==== Sys2Proof/Machine/Order.lean ====
section
/-! DEFINITION. The ordering machine (spec 06 R84 to R104, 07 R114 to R119, R379): performing a store, the levels of Table
6.1, the sources of a load, grants, and the conditions under which entries of TQ(T), SQ(T) and CV(C) may move. Fetches,
frame accesses and the device's own accesses use the same operations. -/

namespace Sys2Proof.Machine

def State.putTeam (s : State) (t : Team) : State := { s with teams := Tbl.set s.teams t.tk t }

def State.modTeam (s : State) (tk : Nat) (f : Team → Team) : State := { s with teams := Tbl.modify s.teams tk f }

def State.cv (s : State) (core : Nat) : List CvEntry := Tbl.getD s.cvs core []

def replicaKey (die line : Nat) : Nat := die * 2 ^ 40 + line

/-- Whether byte a lies in [loc, loc + len). -/
def within (a loc len : Nat) : Bool := decide (loc ≤ a) && decide (a < loc + len)

/-- Whether two byte ranges share a byte. -/
def overlap (a n b m : Nat) : Bool := decide (a < b + m) && decide (b < a + n)

/-! ## Replicas, degrees and grants -/

/-- Hops between dies (R118). -/
def hops (d e : Nat) : Nat :=
  (Int.natAbs ((d % 4 : Nat) - (e % 4 : Nat) : Int)) + Int.natAbs ((d / 4 : Nat) - (e / 4 : Nat) : Int)

/-- The preference list of a home die (R118): the partition's other dies by hops, then by number. -/
def Part.preference (p : Part) (h : Nat) : List Nat :=
  (List.range 8).flatMap fun k => (p.dies).filter fun d => d != h && hops d h == k

def State.gran (s : State) (g : Nat) : Gran := Tbl.getD s.grans g ⟨0, 0, 0, 0, 1, 0, 0, 0⟩

def State.modGran (s : State) (g : Nat) (f : Gran → Gran) : State := { s with grans := Tbl.set s.grans g (f (s.gran g)) }

/-- Whether the degree of a line's granule admits a die. -/
def State.admits (s : State) (vf line home die : Nat) : Bool :=
  match s.part? vf with
  | none => false
  | some p => ((p.preference home).take (s.gran (line / 512)).degree).contains die

/-- The live replica of a line on a die (R87, item 3). -/
def State.replica? (s : State) (die line : Nat) : Option Replica :=
  match Tbl.get? s.replicas (replicaKey die line) with
  | some r => if s.thyme < r.exp then some r else none
  | none => none

/-- The directory entry of a line at its token home on a die (Table 7.1): the home holds all 64 tokens until cores ask. -/
def Dir.reset : Dir := ⟨0, 64, [], 0, 0, [], none, none, none, [], [], [], [], [], 0⟩

def State.dir (s : State) (die line : Nat) : Dir := Tbl.getD s.dirs (replicaKey die line) Dir.reset

def State.modDir (s : State) (die line : Nat) (f : Dir → Dir) : State :=
  { s with dirs := Tbl.set s.dirs (replicaKey die line) (f (s.dir die line)) }

/-- Requesters of a transaction that are no core: a COLLAPSE, and a line all of whose tokens its home gathers (R111, R113). -/
def collapseReq : Nat := 1000
def leaveReq : Nat := 1001

/-- A message between a token home and the cores of its die about one line (Table 7.2). -/
def Msg.within (m : Msg) (die line : Nat) : Bool :=
  match m with
  | .gets d _ l | .getx d _ l | .pers d _ l _ _ | .evict d _ l _ _ | .data d _ l _ _ | .down d _ l | .recall d _ l _
  | .tack d _ l _ _ | .nack d _ l => d == die && l == line
  | .collapse .. | .cack .. => false

/-- The line that a message names. -/
def Msg.line : Msg → Nat
  | .gets _ _ l | .getx _ _ l | .pers _ _ l _ _ | .evict _ _ l _ _ | .data _ _ l _ _ | .down _ _ l | .recall _ _ l _ | .tack _ _ l _ _
  | .nack _ _ l | .collapse _ l | .cack _ l => l

/-- The home of a line still awaits a die's CACK (R115). -/
def State.collapsing (s : State) (die line : Nat) : Bool := s.dirs.any fun e => e.1 % 2 ^ 40 == line && e.2.col.contains die

def State.post (s : State) (ms : List Msg) : State := { s with msgs := s.msgs ++ ms }

/-- Answer a COLLAPSE, where its home still awaits the answer. -/
def State.sendCack (s : State) (die line : Nat) : State := if s.collapsing die line then s.post [.cack die line] else s

/-- A die that keeps no replica of a line: its home holds the die's 64 tokens of it again (R106) (DEDUCED, assumption 6). A COLLAPSE that
the die was carrying out is answered. -/
def State.clearTokens (s : State) (die line : Nat) : State :=
  let open_ := ((s.dir die line).opened.map (·.1)) == some collapseReq
  let s1 := s.modDir die line fun d => { Dir.reset with rvec := d.rvec, col := d.col, lapse := d.lapse }
  let s2 : State := { s1 with msgs := s1.msgs.filter fun m => !m.within die line }
  if open_ then s2.sendCack die line else s2

/-- Remove a replica and the tokens given out on its die; the home's RVEC bit stays until the CACK (R115). -/
def State.removeReplica (s : State) (die line : Nat) : State :=
  ({ s with replicas := Tbl.del s.replicas (replicaKey die line) } : State).clearTokens die line

/-- A replica goes of itself or expires (R88): the home's RVEC bit is set while the die holds it (Table 7.1). -/
def State.dropReplica (s : State) (die line : Nat) : State :=
  match Tbl.get? s.replicas (replicaKey die line) with
  | none => s
  | some r => (s.removeReplica die line).modDir r.home line fun d => { d with rvec := d.rvec &&& ~~~ BitVec.ofNat 8 (2 ^ die) }

/-- Drop every replica that f accepts: die, line, replica. -/
def State.dropReplicas (s : State) (f : Nat → Nat → Replica → Bool) : State :=
  (s.replicas.filter fun e => f (e.1 / 2 ^ 40) (e.1 % 2 ^ 40) e.2).foldl (fun s e => s.dropReplica (e.1 / 2 ^ 40) (e.1 % 2 ^ 40)) s

/-! ## Tokens (R105 to R108) -/

/-- Tokens that a core holds. -/
def Dir.held (d : Dir) (core : Nat) : Nat := Tbl.getD d.toks core 0

/-- Whether a core's byte mask of a privatised line covers bytes (R112). -/
def Dir.covers (d : Dir) (core loc len : Nat) : Bool :=
  d.mode == 3 && (List.range len).all fun i => (Tbl.getD d.masks core 0).getLsbD ((loc + i) % 128)

/-- A core is granted a token: a fifth holder makes the entry coarse (R108). -/
def Dir.addHolder (d : Dir) (core : Nat) : Dir :=
  let c := core % 48
  if d.mode = 2 then { d with cvec := d.cvec ||| BitVec.ofNat 12 (2 ^ (c / 4)) }
  else
    let ps := if d.ptrs.contains c then d.ptrs else d.ptrs ++ [c]
    if ps.length ≤ 4 then { d with mode := 1, ptrs := ps }
    else { d with mode := 2, ptrs := [], cvec := ps.foldl (fun v c => v ||| BitVec.ofNat 12 (2 ^ (c / 4))) 0 }

/-- The 128 bytes of a line on a die: its replica's, else the home's. -/
def State.lineBytes (s : State) (die line : Nat) : List Byte :=
  match Tbl.get? s.replicas (replicaKey die line) with
  | some r => r.bytes
  | none => Memory.read s.mem (128 * line) 128

/-- Send DATA with n tokens: the owner token goes with all 64, and the entry names the core that it goes to. -/
def State.sendData (s : State) (die line core n : Nat) : State :=
  (s.modDir die line fun d => { d with htok := d.htok - n, nacks := Tbl.del d.nacks core }).post
    [.data die core line n (s.lineBytes die line)]

/-- Place a replica and set the die's bit in RVEC at the home (R88, R114). -/
def State.grantReplica (s : State) (vf die line home : Nat) : State :=
  let live := s.partials.flatMap fun p => if p.line = line then p.live.map (fun a => (a % 128, p.id, p.tk)) else []
  let r : Replica := ⟨Memory.read s.mem (128 * line) 128, live, s.thyme + s.leaseOf vf, s.coh, vf, home⟩
  let s1 : State := { s with replicas := Tbl.set s.replicas (replicaKey die line) r }
  s1.modDir home line fun d => { d with rvec := d.rvec ||| BitVec.ofNat 8 (2 ^ die) }

/-! ## Performing a store (R88, R90) -/

/-- A replica with bytes written by store id of team tk. -/
def Replica.write (r : Replica) (id tk off : Nat) (bytes : List Byte) : Replica :=
  { r with
    bytes := (r.bytes.take off ++ bytes ++ r.bytes.drop (off + bytes.length)).take 128
    by_ := (r.by_.filter fun e => !within e.1 off bytes.length) ++ (List.range bytes.length).map fun i => (off + i, id, tk) }

/-- Whether some die other than the writer's and the home holds a live replica of a line granted before a point of the
coherence order (R88). -/
def State.foreignReplica (s : State) (line own home coh : Nat) : Bool :=
  s.replicas.any fun e => e.1 % 2 ^ 40 == line && e.1 / 2 ^ 40 != own && e.1 / 2 ^ 40 != home
    && decide (e.2.coh ≤ coh) && decide (s.thyme < e.2.exp)

/-- Send COLLAPSE to a die (R115), unless one is on its way; the latest expiry among the replicas to collapse is kept (R283). -/
def State.sendCollapse (s : State) (line home die : Nat) : State :=
  let exp := ((Tbl.get? s.replicas (replicaKey die line)).map Replica.exp).getD 0
  if (s.dir home line).col.contains die then s
  else
    (s.modDir home line fun d => { d with col := d.col ++ [die], lapse := max (if d.col.isEmpty then 0 else d.lapse) exp }).post
      [.collapse die line]

/-- Where the lease of every replica that a line's collapses found has run out, they are over without their CACKs (R115, R283, R349): a
CACK that comes later has no effect. -/
def State.settleCol (s : State) (home line : Nat) : State :=
  let d := s.dir home line
  if d.col.isEmpty || decide (s.thyme < d.lapse) then s
  else
    let gone := d.col.filter fun x => (Tbl.get? s.replicas (replicaKey x line)).isNone
    let s1 := s.modDir home line fun d => { d with
      col := [], rvec := gone.foldl (fun v x => v &&& ~~~ BitVec.ofNat 8 (2 ^ x)) d.rvec }
    { s1 with msgs := s1.msgs.filter fun m => match m with | .collapse _ l | .cack _ l => l != line | _ => true }

/-- COLLAPSE to every other die that RVEC names (R115, R283). -/
def State.sendCollapses (s : State) (line own home : Nat) : State :=
  let s0 := s.settleCol home line
  ((List.range 8).filter fun x => (s0.dir home line).rvec.getLsbD x && x != own && x != home).foldl
    (fun s x => s.sendCollapse line home x) s0

/-- Send COLLAPSE for every replica that f accepts: die, line, replica (R115). -/
def State.collapseWhere (s : State) (f : Nat → Nat → Replica → Bool) : State :=
  (s.replicas.filter fun e => f (e.1 / 2 ^ 40) (e.1 % 2 ^ 40) e.2).foldl
    (fun s e => (s.settleCol e.2.home (e.1 % 2 ^ 40)).sendCollapse (e.1 % 2 ^ 40) e.2.home (e.1 / 2 ^ 40)) s

/-- A lost descriptor or extent entry whose first qword is written waits for its TINVAL (Table 23.3). -/
def mendLost (loc n : Nat) (us : List LostUnit) : List LostUnit :=
  us.map fun u => match u with | .desc a => if overlap loc n a 8 then .mended a else u | _ => u

/-- Perform store id of team tk at its home: H(x), the coherence order, the replicas of the writer's die and the home
die, and what GWCT waits for. bytes lie in one line. Each piece of a split store counts in WR (R119; DESIGN CHOICE, assumption 58). -/
def State.performStore (s : State) (id tk own home loc : Nat) (bytes : List Byte) : State :=
  let s1 : State := { s with mem := Memory.write s.mem loc bytes, lost := mendLost loc bytes.length s.lost }
  if !isPhys loc then s1
  else
    let line := loc / 128
    let upd (s : State) (die : Nat) : State :=
      match Tbl.get? s.replicas (replicaKey die line) with
      | some r => { s with replicas := Tbl.set s.replicas (replicaKey die line) (r.write id tk (loc % 128) bytes) }
      | none => s
    let s2 : State := upd (upd s1 own) home
    let s3 : State := { s2 with
      coh := s2.coh + 1
      partials := s2.partials.map fun (p : Partial) => { p with live := p.live.filter fun a => !within a loc bytes.length } }
    let s4 := (s3.modGran (loc / 65536) fun g => { g with wr := g.wr + 1, acc := g.acc + 1 }).sendCollapses line own home
    let d := s4.dir home line
    let p : Partial := ⟨id, tk, line, home, own, s.coh, (List.range bytes.length).map (loc + ·), d.col.filter (· != own), d.lapse⟩
    if p.await.isEmpty && !s4.foreignReplica line own home s.coh then s4 else { s4 with partials := s4.partials ++ [p] }

/-- Whether a performed store is Complete (Thyme ≥ GWCT, R85, R88): no replica older than it is live on another die, and the last
CACK has come or the latest expiry has passed (R115, R283). -/
def State.partialDone (s : State) (p : Partial) : Bool :=
  (p.await.isEmpty || decide (p.lapse ≤ s.thyme)) && !s.foreignReplica p.line p.own p.home p.coh

/-! ## Levels (Table 6.1) -/

/-- A store in some core view. -/
def State.inCv (s : State) (p : CvEntry → Bool) : Bool := s.cvs.any fun e => e.2.any p

/-- Whether the stores that have left their queue and satisfy own or obs have reached the level of a scope. -/
def State.leftOk (s : State) (sc : Scope) (mine : Nat → Nat → Bool) : Bool :=
  match sc with
  | .team => true
  | .crew => true
  | .fleet => !s.inCv (fun e => !e.lane && mine e.tk e.id)
  | .die => !s.inCv (fun e => !e.lane && mine e.tk e.id)
  | _ => !s.inCv (fun e => !e.lane && mine e.tk e.id) && s.partials.all fun p => !mine p.tk p.id || s.partialDone p

def SqOp.isAtomic : SqOp → Bool
  | .rmw .. | .swap _ | .cas .. | .scas .. | .fadd .. | .ctr .. => true
  | _ => false

def SqOp.isStore : SqOp → Bool
  | .store _ => true
  | _ => false

def SqOp.isCtr : SqOp → Bool
  | .ctr .. => true
  | _ => false

/-- An older entry of SQ(T) that holds back a release or fence at scope sc: an unperformed atomic counts as a load not
satisfied, counter operations included (R95, R96); a store or ATOMGN must have left unless the level is Issued (R92, R94). -/
def SqEntry.holds (sc : Scope) (e : SqEntry) : Bool :=
  if e.op.isAtomic && (e.returns || e.op.isCtr) then true
  else if e.op.isAtomic || e.op.isStore then sc != .team && e.space != .lane
  else false

/-- The conditions of R92 for the entry id of a team, or of R94 without the queue conditions. -/
def State.releaseOk (s : State) (t : Team) (id : Nat) (sc : Scope) : Bool :=
  t.tq.all (fun e => decide (id ≤ e.id))
  && t.sq.all (fun e => decide (id ≤ e.id) || !e.holds sc)
  && s.leftOk sc (fun tk i => (tk == t.tk && decide (i < id)) || t.observed.contains i)
  && (sc != .system || (s.remotes.all (fun r => match r.who with | .atom tk e => tk != t.tk || decide (id ≤ e.id) | .chunk .. => true)
        && s.cores.all fun c => c.2.copies.all fun x => x.tk != t.tk || decide (id ≤ x.id) || !x.away))

/-! ## Satisfying a load (R87) -/

/-- The newest store of a team's own queue older than id that covers byte a. -/
def ownByte (sq : List SqEntry) (id a : Nat) : Option Byte :=
  sq.foldl (fun acc e =>
    match e.op with
    | .store v => if e.id < id && within a e.loc e.len then some (BitVec.ofNat 8 (v.toNat / 2 ^ (8 * (a - e.loc)))) else acc
    | _ => acc) none

/-- The newest store of a core view that covers byte a, with its team and id. -/
def cvByte (cv : List CvEntry) (a : Nat) : Option (Byte × Nat × Nat) :=
  cv.foldl (fun acc e =>
    if within a e.loc e.len then some (BitVec.ofNat 8 (e.v.toNat / 2 ^ (8 * (a - e.loc))), e.tk, e.id) else acc) none

/-- One byte from the sources of R87: its value, the store of another team it shows, and whether it came from home. -/
def State.loadByte (s : State) (t : Team) (id a : Nat) : Byte × List Nat × Bool :=
  match ownByte t.sq id a with
  | some b => (b, [], false)
  | none =>
    match cvByte (s.cv t.core) a with
    | some (b, tk, i) => (b, if tk = t.tk then [] else [i], false)
    | none =>
      let fromHome : Byte × List Nat × Bool :=
        (Memory.get s.mem a, s.partials.filterMap (fun p => if p.live.contains a && p.tk != t.tk then some p.id else none), true)
      if !isPhys a || decide (s.thyme < t.horizon) then fromHome
      else
        match s.replica? t.die (a / 128) with
        | some r => (r.bytes.getD (a % 128) 0, r.by_.filterMap (fun e => if e.1 = a % 128 ∧ e.2.2 ≠ t.tk then some e.2.1 else none), false)
        | none => fromHome

/-- n bytes at loc: value, stores observed, and whether some byte came from the home. -/
def State.loadBytes (s : State) (t : Team) (id loc : Nat) : Nat → Nat × List Nat × Bool
  | 0 => (0, [], false)
  | n + 1 =>
    let (v, o, h) := s.loadBytes t id loc n
    let (b, o', h') := s.loadByte t id (loc + n)
    (v + b.toNat * 2 ^ (8 * n), o ++ o', h || h')

/-- No core of a line's home die holds a token of it, and its home serves no one else's request: what comes from outside its cores may
write there (R105, R106, R113). -/
def State.homeClear (s : State) (home line : Nat) : Bool :=
  let d := s.dir (l2Die home) line
  d.mode != 3 && d.htok == 64 && d.opened.isNone

/-- A die that is not a line's keeps no replica of it, or its token home has gathered all its tokens (R106, R115). -/
def State.dieClear (s : State) (die line : Nat) : Bool :=
  let d := s.dir die line
  (Tbl.get? s.replicas (replicaKey die line)).isNone || (d.htok == 64 && d.opened.isNone)

/-- Whether the tokens of a team's core let it read a piece (R105, R106): bytes of its own queue and view need none, nor does a
load that is served at the home of a line that is not privatised (R113) and leaves no copy, nor a byte of its own mask of a privatised
line. -/
def State.mayRead (s : State) (t : Team) (id : Nat) (p : Piece) : Bool :=
  let line := p.loc / 128
  let d := s.dir t.die line
  !isPhys p.loc
    || (t.die != l2Die p.home && ((s.replica? t.die line).isNone || decide (s.thyme < t.horizon))
        && (s.dir (l2Die p.home) line).mode != 3)
    || decide (1 ≤ d.held t.core) || d.covers t.core p.loc p.len
    || (List.range p.len).all fun i => (ownByte t.sq id (p.loc + i)).isSome || (cvByte (s.cv t.core) (p.loc + i)).isSome

/-- Whether a store of a core may be performed (R105, R106, R112, R113, R115): on the home die the core holds all 64 tokens or a mask
over the bytes; on another die that die and the home are clear. -/
def State.mayWrite (s : State) (core home loc len : Nat) : Bool :=
  let die := coreDie core
  let d := s.dir die (loc / 128)
  !isPhys loc
    || (if die = l2Die home then d.held core == 64 || d.covers core loc len
        else s.dieClear die (loc / 128) && s.homeClear home (loc / 128))

/-- Whether an atomic of a core may act at its home (R105, R113, R115): no other core of the home die holds a token of the line. -/
def State.mayAtomic (s : State) (core home loc : Nat) : Bool :=
  let die := coreDie core
  let d := s.dir die (loc / 128)
  !isPhys loc
    || (if die = l2Die home then d.mode != 3 && d.opened.isNone && d.held core + d.htok == 64
        else s.dieClear die (loc / 128) && s.homeClear home (loc / 128))

def TqEntry.overlaps (e : TqEntry) (loc len : Nat) : Bool :=
  match e.op with
  | .load ps _ => ps.any fun p => overlap p.loc p.len loc len
  | .fence _ => false

def TqEntry.isFence (e : TqEntry) : Bool :=
  match e.op with
  | .fence _ => true
  | _ => false

/-- No acquire or fence of an older instruction of the team remains (R87, R91, R94). -/
def Team.orderOpen (t : Team) (id : Nat) : Bool :=
  t.tq.all (fun e => decide (id ≤ e.id) || !(e.acq || e.isFence)) && t.sq.all (fun e => decide (id ≤ e.id) || !e.acq)

/-- R87's conditions for a load id, of the instruction whose first access is base, of n bytes at loc. -/
def Team.loadReady (t : Team) (id base loc n : Nat) : Bool :=
  t.orderOpen base
  && t.tq.all (fun e => decide (id ≤ e.id) || !e.overlaps loc n)
  && t.sq.all (fun e => decide (id ≤ e.id) || !(e.op.isAtomic && overlap e.loc e.len loc n))

/-- No grant is made in a partition one of whose dies has lost Thyme, until one LEASE after its resynchronisation (R350) (DEDUCED, assumption 26). -/
def State.thymeFrozen (s : State) (vf : Nat) : Bool :=
  match s.part? vf with
  | none => false
  | some p =>
    p.dies.any fun d =>
      match Tbl.get? s.dies d with
      | none => false
      | some x => x.thyme || (match x.resync with | some t => decide (s.thyme < t + p.lease) | none => false)

/-- What a load served at the home does to the granule and, when chosen, the grant (R88, R119, R282, R379): the replica, and a
token for the core (R106). repl is the load's effective REPL; the row of Table 7.3 follows the descriptor; again tells a load
whose instruction has reached the line at the home before. -/
def State.atHome (s : State) (t : Team) (loc home : Nat) (repl : ReplMode) (grant again : Bool) : State :=
  if !isPhys loc then s
  else if t.die == l2Die home then s.modGran (loc / 65536) fun x => { x with acc := x.acc + 1 }
  else
    let g := loc / 65536
    let s := s.settleCol (l2Die home) (loc / 128)
    let s1 := s.modGran g fun x => { x with rm := if again then x.rm else x.rm + 1, acc := x.acc + 1 }
    let hd := s.dir (l2Die home) (loc / 128)
    let frozen := s.thymeFrozen t.vf || (!hd.col.isEmpty && decide (s.thyme < hd.lapse))
      || s.partials.any (fun p => p.line == loc / 128 && !s.partialDone p)
    if decide (s.thyme < t.horizon) || frozen || !grant then s1
    else
      let x := s1.gran g
      let s2 := if x.repl = 0 ∧ repl = .eager then s1.modGran g (fun y => { y with degree := y.pdies - 1 }) else s1
      if x.repl = 0 ∧ repl = .never then s1
      else if s2.admits t.vf (loc / 128) (l2Die home) t.die then
        let s3 := (s2.removeReplica t.die (loc / 128)).grantReplica t.vf t.die (loc / 128) (l2Die home)
        if (s3.dir t.die (loc / 128)).opened.isSome || (s3.dir t.die (loc / 128)).htok == 0 then s3
        else (s3.modDir t.die (loc / 128) fun d => d.addHolder t.core).sendData t.die (loc / 128) t.core 1
      else s2

/-! ## Locations a store waits for (R83, R347, R348) -/

/-- The number of the 64-byte row of a scratchpad bank that holds a location (R80, R353). -/
def spadRow (loc : Nat) : Nat := loc / 4 / 1024 * 64 + loc / 4 % 64

/-- A granule being migrated or a row being spared holds writes back. -/
def State.writeFrozen (s : State) (loc : Nat) : Bool :=
  s.moves.any fun m =>
    match m with
    | .gran _ src _ => isPhys loc && loc / 65536 == src
    | .row (.t1 r) => decide (loc < 2 ^ 37) && loc / 1024 == r
    | .row (.t2 r) => decide (2 ^ 37 ≤ loc) && isPhys loc && loc / 1024 == r
    | .row (.spad r) => isBank loc && spadRow loc == r
    | .row (.l2 _) => false

/-- The lost unit that holds a location: a line of memory, or a word of a scratchpad bank (Table 23.3). -/
def lostUnitOf (loc : Nat) : LostUnit := if isBank loc then .word (loc / 4) else .line (loc / 128)

/-- The locations of a unit of memory. -/
def LostUnit.range : LostUnit → Nat × Nat
  | .line n => (128 * n, 128)
  | .word n => (4 * n, 4)
  | _ => (0, 0)

def State.isLost (s : State) (loc n : Nat) : Bool :=
  (List.range n).any fun i => s.lost.contains (lostUnitOf (loc + i))

/-- The lost unit of a location becomes good when all of it is written (R348). -/
def State.restoreUnit (s : State) (u : LostUnit) : State :=
  { s with
    lost := s.lost.filter (· != u)
    lostCached := s.lostCached.filter fun n => u != .line n }

/-- Lost units that a range touches. -/
def State.lostIn (s : State) (loc n : Nat) : List LostUnit :=
  if s.lost.isEmpty then [] else ((List.range n).map fun i => lostUnitOf (loc + i)).eraseDups.filter fun u => s.lost.contains u

/-- Whether the ranges of a group cover a unit whole. -/
def coversUnit (rs : List (Nat × Nat)) (u : LostUnit) : Bool :=
  (List.range (LostUnit.range u).2).all fun i => rs.any fun r => within ((LostUnit.range u).1 + i) r.1 r.2

/-- DATA 8, imprecise: a partial write to a lost unit is discarded. -/
def partialWrite (addr : QWord) (loc : Nat) : FInfo := ⟨0x48, 8, addr, qn loc⟩

/-- Where an uncorrectable error struck what a location reads (DATA 1 to 5). -/
def State.dataDetail (s : State) (loc : Nat) : Nat :=
  if isPhys loc ∧ s.lostCached.contains (loc / 128) then 3
  else if loc < 2 ^ 37 then 1 else if loc < 2 ^ 42 then 2 else if loc < 2 ^ 44 then 4 else if loc < 2 ^ 64 then 5 else 3

/-! ## New names -/

def State.fresh (s : State) : State := { s with nextId := s.nextId + 1 }

/-- A store the device makes at its home for nobody's queue (events, records, host writes, copies): performed at once. -/
def State.deviceStore (s : State) (loc : Nat) (home : Nat) (bytes : List Byte) : State :=
  (s.performStore s.nextId 0 home home loc bytes).fresh

/-- Store bytes at consecutive pieces, for the device or in the name of a team on a die. -/
def State.storePieces (s : State) (who : Option (Nat × Nat)) (bytes : List Byte) : List Piece → State
  | [] => s
  | p :: r =>
    let w := who.getD (0, l2Die p.home)
    ((s.performStore s.nextId w.1 w.2 (l2Die p.home) p.loc ((bytes.drop p.off).take p.len)).fresh).storePieces who bytes r

/-- A store through a handle, performed at once: fails as an access of its checks would, and where it covers part of a lost unit alone (R41, R327,
R348). -/
def State.storeFor (s : State) (who : Option (Nat × Nat)) (asid vf : Nat) (h : QWord) (bytes : List Byte) : Except FInfo State :=
  match s.checkGlobal 999 asid .store h 0 bytes.length 0 0 with
  | .error f => .error f
  | .ok d =>
    if d.kind = 4 then .error ⟨0x41, 1, h, qn 4⟩
    else
      match s.globalPieces 999 asid vf d (hObj h) (hOff h) bytes.length with
      | .error f => .error f
      | .ok ps =>
        let us := (ps.flatMap fun p => s.lostIn p.loc p.len).eraseDups
        if us.all (coversUnit (ps.map fun p => (p.loc, p.len))) then .ok (us.foldl State.restoreUnit (s.storePieces who bytes ps))
        else .error (partialWrite h ((ps.headD ⟨0, 0, 0, 0⟩).loc))

/-- A device store through a handle. -/
def State.storeHandle (s : State) (asid vf : Nat) (h : QWord) (bytes : List Byte) : Except FInfo State := s.storeFor none asid vf h bytes

/-- Bytes at a handle, read at their homes. -/
def State.readHandle (s : State) (asid vf : Nat) (h : QWord) (n : Nat) : Except FInfo (List Byte) :=
  match s.checkGlobal 999 asid .load h 0 n 0 0 with
  | .error f => .error f
  | .ok d =>
    match s.globalPieces 999 asid vf d (hObj h) (hOff h) n with
    | .error f => .error f
    | .ok ps =>
      match ps.find? fun p => s.isLost p.loc p.len with
      | some p => .error ⟨0x48, s.dataDetail p.loc, h, qn p.loc⟩
      | none => .ok (ps.flatMap fun p => Memory.read s.mem p.loc p.len)

end Sys2Proof.Machine
end

