-- ==== Sys2Proof/Machine/Work.lean ====
section
/-! DEFINITION. Launches, phases, jobs, events and barriers (spec 03 R28, R40, R41, R378; 13 R249, R250; 21 R309; 24 R356,
R357). -/

namespace Sys2Proof.Machine

def State.modPart (s : State) (vf : Nat) (f : Part → Part) : State := { s with parts := Tbl.modify s.parts vf f }
def State.modLaunch (s : State) (l : Nat) (f : Launch → Launch) : State := { s with launches := Tbl.modify s.launches l f }
def State.queue? (s : State) (vf q : Nat) : Option Queue := (s.part? vf).bind fun p => Tbl.get? p.queues q
def State.modQueue (s : State) (vf q : Nat) (f : Queue → Queue) : State :=
  s.modPart vf fun p => { p with queues := Tbl.modify p.queues q f }

/-- Append to what the module sends out (DESIGN CHOICE, assumption 51). -/
def State.emit (s : State) (o : Out) : State := { s with out := s.out ++ [o] }

/-- An MSI-X message; dropped while the link is down (R373). -/
def State.msix (s : State) (vf q : Nat) : State := if s.hostLink then s.emit (.msix vf q) else s

/-! ## Events (Table 24.3) -/

def Event.bytes (e : Event) : List Byte :=
  leBytes 8 (e.kind * 2 ^ 56 + e.status * 2 ^ 48 + e.job * 2 ^ 32 + e.phase * 2 ^ 16 + e.member * 2 ^ 8)
    ++ leBytes 8 e.thyme ++ leBytes 8 e.id ++ leBytes 8 0

def Queue.full (q : Queue) : Bool := (q.evtail + 65536 - q.evhead) % 65536 == q.evsize

/-- Write one event into the ring and raise the vector (R309); none while the ring is full or its slot cannot be written (DEDUCED,
assumption 46). -/
def State.writeEvent (s : State) (vf q : Nat) (e : Event) : Option State :=
  match s.queue? vf q with
  | none => none
  | some k =>
    if k.full then none
    else
      match s.storeHandle k.asid vf (mkHandle (hObj k.evb) (hOff k.evb + 32 * (k.evtail % k.evsize))) e.bytes with
      | .ok s1 => some ((s1.modQueue vf q fun k => { k with evtail := (k.evtail + 1) % 65536 }).msix vf q)
      | .error _ => none

/-- Post an event: written at once, or held in order while it cannot be (R309). -/
def State.pushEvent (s : State) (vf q : Nat) (e : Event) : State :=
  let hold := s.modQueue vf q fun k => { k with held := k.held ++ [e] }
  if ((s.queue? vf q).map fun k => k.held.isEmpty) = some true then (s.writeEvent vf q e).getD hold else hold

/-- Write held events while they can be written (DEDUCED, assumption 49). -/
def State.drainEvents (s : State) (vf q : Nat) : Nat → State
  | 0 => s
  | n + 1 =>
    match s.queue? vf q with
    | none => s
    | some k =>
      match k.held with
      | [] => s
      | e :: r =>
        match (s.modQueue vf q fun k => { k with held := r }).writeEvent vf q e with
        | some s1 => s1.drainEvents vf q n
        | none => s

/-- Write a queue's held events as far as they can be. -/
def State.drainQueue (s : State) (vf q : Nat) : State := s.drainEvents vf q (((s.queue? vf q).map fun k => k.held.length).getD 0)

/-- The held events of every queue of a partition. -/
def State.flushEvents (s : State) (vf : Nat) : State :=
  (((s.part? vf).map Part.queues).getD []).foldl (fun s e => s.drainQueue vf e.1) s

/-! ## Phases and jobs (R378) -/

def Phase.is (p : Phase) (job phase : Nat) : Bool := p.job == job && p.phase == phase

def State.phases (s : State) (vf : Nat) : List Phase := ((s.part? vf).map Part.phases).getD []

/-- Whether a phase of a job has completed. -/
def State.phaseDone (s : State) (vf job phase : Nat) : Bool := (s.phases vf).any fun p => p.is job phase && p.done

/-- Whether a launch's phase may be placed: phase k - 1 has completed (R28). -/
def State.phaseReady (s : State) (l : Launch) : Bool := l.phase == 0 || s.phaseDone l.vf l.job (l.phase - 1)

/-- A job whose last phase and every lower phase have completed ends: its event, and nothing of it is kept. -/
def State.settleJob (s : State) (vf job : Nat) : State :=
  let ps := (s.phases vf).filter fun p => p.job == job
  match ps.find? (fun p => p.last && p.done) with
  | none => s
  | some z =>
    if (List.range z.phase).all fun k => ps.any fun p => p.phase == k && p.done then
      let st := (ps.map Phase.status).foldl max 0
      let s1 := s.pushEvent vf z.q ⟨2, st, job, 0, 0, s.thyme, 0⟩
      let s2 := s1.modPart vf fun p => { p with
        phases := p.phases.filter fun x => x.job != job
        jobCancel := p.jobCancel.filter (· != job) }
      { s2 with launches := Tbl.mapVals s2.launches fun l => if l.vf = vf ∧ l.job = job ∧ l.done then { l with carry := [], past := true } else l }
    else s

/-- A closed phase all of whose launches have completed completes: its event, then its job's (DEDUCED, assumption 27). -/
def State.settlePhase (s : State) (vf job phase : Nat) : State :=
  match (s.phases vf).find? (fun p => p.is job phase && p.closed && p.live == 0 && !p.done) with
  | none => s
  | some z =>
    let s1 := s.modPart vf fun p =>
      { p with phases := p.phases.map fun x => if x.is job phase then { x with done := true } else x }
    (s1.pushEvent vf z.q ⟨1, z.status, job, phase, 0, s.thyme, 0⟩).settleJob vf job

/-- A launch of a phase has completed with a status (a refused packet counts, R378). -/
def State.phaseLess (s : State) (vf job phase status : Nat) : State :=
  (s.modPart vf fun p =>
    { p with phases := p.phases.map fun x =>
        if x.is job phase then { x with live := x.live - 1, status := max x.status status } else x }).settlePhase vf job phase

/-! ## Completion (R41) -/

/-- The 32-byte completion record (Table 3.3). -/
def recordBytes (status lid phase job endt nteams nitems : Nat) : List Byte :=
  leBytes 8 (status * 2 ^ 56 + lid * 2 ^ 32 + phase * 2 ^ 16 + job) ++ leBytes 8 endt ++ leBytes 8 nteams ++ leBytes 8 nitems

/-- Write a completion record, or count it unwritten. -/
def State.writeCompletion (s : State) (l : Launch) (status nteams nitems : Nat) : State :=
  match s.storeHandle l.asid l.vf l.compl (recordBytes status l.lid l.phase l.job s.thyme nteams nitems) with
  | .ok s' => s'
  | .error _ => s.modPart l.vf fun p => { p with noRec := p.noRec + 1 }

/-- The leader writes a gang event when all N members have completed (R315). -/
def State.settleGang (s : State) (key : Nat) : State :=
  match Tbl.get? s.gangs key with
  | none => s
  | some g =>
    if 0 < g.count ∧ g.member = 0 ∧ g.closed = false ∧ (List.range g.count).all (fun i => g.dones.contains i) then
      let job := ((s.launch? g.launch).map Launch.job).getD 0
      let s1 := { s with gangs := Tbl.set s.gangs key { g with closed := true } }
      s1.pushEvent g.vf g.q ⟨3, 0, job, 0, 0, s.thyme, g.number⟩
    else s

/-- Tell the gang's leader that a member has completed (R315). -/
def State.gangDone (s : State) (uid : Nat) : State :=
  match s.gangs.find? (fun e => e.2.launch == uid && !e.2.closed) with
  | none => s
  | some e =>
    if e.2.member = 0 then
      { s with gangs := Tbl.modify s.gangs e.1 fun g => { g with dones := g.dones ++ [0] } }.settleGang e.1
    else
      ({ s with gangs := Tbl.modify s.gangs e.1 fun g => { g with closed := true } } : State).emit
        (.memberDone e.2.number e.2.leader e.2.member)

/-- The items of a launch that stand in core queues go back to the heads of their lists (R38, R40): they left those heads. -/
def State.gatherItems (s : State) (uid : Nat) : State :=
  let back := s.cores.flatMap fun c => c.2.items.filter fun i => i.1 == uid
  let put (l : Launch) : Launch := { l with
    lists := (back.map fun i => i.2.1).eraseDups.foldl (fun t k =>
      Tbl.set t k ((back.filter fun i => i.2.1 == k).map (fun i => i.2.2) ++ Tbl.getD t k [])) l.lists }
  if back.isEmpty then s
  else ({ s with cores := Tbl.mapVals s.cores fun c => { c with items := c.items.filter fun i => i.1 != uid } } : State).modLaunch uid put

/-- A launch whose counter is zero after every fleet has been placed, or after its cancel, completes (R41, R42). -/
def State.settleLaunch (s : State) (uid : Nat) : State :=
  match s.launch? uid with
  | none => s
  | some l =>
    if l.done || l.counter != 0 || !(l.placed || l.cancel) then s
    else
      let s1 := (s.gatherItems uid).writeCompletion l l.status l.nteams l.nitems
      let s2 := s1.modLaunch uid fun l =>
        { l with done := true, trig := true, carry := if l.cancel then [] else l.lists, lists := [] }
      (s2.phaseLess l.vf l.job l.phase l.status).gangDone uid

/-- The packets that stand in a queue between HEAD and TAIL and have not been read. -/
def State.unread (s : State) (vf : Nat) (q : Queue) : List (List QWord) :=
  (List.range ((q.tail + 65536 - q.head) % 65536)).filterMap fun i =>
    if i = 0 ∧ q.waiting.isSome then none
    else
      match s.readHandle q.asid vf (mkHandle (hObj q.base) (hOff q.base + 128 * ((q.head + i) % q.size))) 128 with
      | .ok b => some ((List.range 16).map fun k => qn (leNat ((b.drop (8 * k)).take 8)))
      | .error _ => none

/-- The unread packets of each queue of a partition. -/
def State.unreads (s : State) (vf : Nat) : List (List (List QWord)) :=
  (((s.part? vf).map Part.queues).getD []).map fun e => s.unread vf e.2

def State.queued (s : State) (vf : Nat) : List (List QWord) := (s.unreads vf).flatMap id

/-- A team has ended and its end's release at partition scope holds (R102). -/
def State.endDone (s : State) (t : Team) : Bool :=
  t.ended && t.tq.isEmpty && t.sq.isEmpty && s.releaseOk t s.nextId .partition

/-- A launch is triggered once every fleet is placed and every team has executed TRIG or ended; then it stays so (R144). -/
def State.triggered (s : State) (uid : Nat) (l : Launch) : Bool :=
  l.trig || (l.placed && s.teams.all fun e => e.2.launch != uid || e.2.trig || s.endDone e.2)

/-- Whether a producer named by LAUNCHID is not yet triggered (R32): read and not triggered, or standing in a queue. -/
def State.producerWaits (s : State) (vf lid : Nat) : Bool :=
  lid != 0 &&
  (s.launches.any (fun e => e.2.vf == vf && e.2.lid == lid && !e.2.done && !s.triggered e.1 e.2)
   || (s.queued vf).any fun pkt => fld (pkt.getD 6 0) 47 24 == lid)

/-- The condition of WAITDEP and of placement with EARLY = 0 (R32, R230). -/
def State.depsMet (s : State) (l : Launch) : Bool := !s.producerWaits l.vf l.dep0 && !s.producerWaits l.vf l.dep1

/-- Keep that a launch is triggered (R144). -/
def State.settleTrig (s : State) (uid : Nat) : State :=
  match s.launch? uid with
  | none => s
  | some l => if s.triggered uid l then s.modLaunch uid fun l => { l with trig := true } else s

/-! ## Barriers (R249, R250) -/

def Barrier.fresh (exp : Nat) : Barrier := ⟨0, exp, 0, []⟩

/-- In the step in which ARR ≥ EXP > 0, the phase completes. -/
def Barrier.settle (b : Barrier) : Barrier :=
  if 0 < b.exp ∧ b.exp ≤ b.arr then
    let q := (b.ph + 1) % 65536
    { b with ph := q, arr := 0, marks := b.marks.filter (· != q) }
  else b

/-- An arrival is counted (R249). ARR that already holds 2^20 - 1 under EXP = 0 begins again at 0 (DESIGN CHOICE, assumption 67). -/
def Barrier.arrive (b : Barrier) : Barrier := { b with arr := (b.arr + 1) % 2 ^ 20 }.settle

/-- An arrival of a dropped copy marks its phase (R346); a phase number that begins again loses its old mark. -/
def Barrier.arriveFailed (b : Barrier) : Barrier := { b with marks := b.ph :: b.marks.filter (· != b.ph) }.arrive

/-- A team of the unit ends (R249). -/
def Barrier.lower (b : Barrier) : Barrier := { b with exp := b.exp - 1 }.settle

/-- Phase q is complete when D = (PH - q) mod 2^16 lies between 1 and 32,768 (R250). -/
def Barrier.complete (b : Barrier) (q : Nat) : Bool :=
  let d := (b.ph + 65536 - q % 65536) % 65536
  decide (1 ≤ d) && decide (d ≤ 32768)

def State.barrier? (s : State) : BarKey → Option Barrier
  | .cb c n => (Tbl.get? s.crews c).bind fun x => Tbl.get? x.cb n
  | .tb c n => (Tbl.get? s.crews c).bind fun x => Tbl.get? x.tb n
  | .fb f n => (Tbl.get? s.fleets f).bind fun x => Tbl.get? x.fb n
  | .lb l n => (s.launch? l).bind fun x => Tbl.get? x.lb n

def State.modBarrier (s : State) (k : BarKey) (f : Barrier → Barrier) : State :=
  match k with
  | .cb c n => { s with crews := Tbl.modify s.crews c fun x => { x with cb := Tbl.modify x.cb n f } }
  | .tb c n => { s with crews := Tbl.modify s.crews c fun x => { x with tb := Tbl.modify x.tb n f } }
  | .fb c n => { s with fleets := Tbl.modify s.fleets c fun x => { x with fb := Tbl.modify x.fb n f } }
  | .lb l n => s.modLaunch l fun x => { x with lb := Tbl.modify x.lb n f }

/-- The scope of a barrier's arrivals (R101, R251). -/
def BarKey.scope : BarKey → Scope
  | .cb .. => .crew
  | .tb .. => .crew
  | .fb .. => .fleet
  | .lb .. => .partition

end Sys2Proof.Machine
end

