-- ==== Sys2Proof/Machine/Ops.lean ====
section
/-! DEFINITION. Operations over a team's registers, its latches and PC; retiring; fetching; taking an exception (parking a
team, 22 R319 to R327, and the supervisor call of R271), returning from one (R329, ERET), and cancelling a launch (03 R42). -/

namespace Sys2Proof.Machine

/-! ## Registers (R19, R20, R168, R172) -/

/-- A uniform register; s0 reads zero. -/
def Team.sreg (t : Team) (r : Nat) : QWord := if r = 0 then 0 else Tbl.getD t.s r 0

/-- Write a uniform register; a write to s0 is discarded. -/
def Team.setS (t : Team) (r : Nat) (v : QWord) : Team := if r = 0 then t else { t with s := Tbl.set t.s r v }

def Team.rs (t : Team) (r : BitVec 6) : QWord := t.sreg r.toNat
def Team.ws (t : Team) (r : BitVec 6) (v : QWord) : Team := t.setS r.toNat v

/-- Register r of lane L. -/
def Team.vreg (t : Team) (r L : Nat) : Word := (Tbl.getD t.v r []).getD L 0

/-- The pair r, r + 1 of lane L (R168). -/
def Team.vpair (t : Team) (r L : Nat) : QWord := BitVec.ofNat 64 ((t.vreg r L).toNat + (t.vreg (r + 1) L).toNat * 2 ^ 32)

/-- Write register r in the lanes where f gives a value. -/
def Team.setV (t : Team) (r : Nat) (f : Nat → Option Word) : Team :=
  { t with v := Tbl.set t.v r ((List.range t.lanes).map fun L => (f L).getD (t.vreg r L)) }

def lowW (q : QWord) : Word := BitVec.ofNat 32 q.toNat
def highW (q : QWord) : Word := BitVec.ofNat 32 (q.toNat / 2 ^ 32)

/-- Write the pair r, r + 1 in the lanes where f gives a value. -/
def Team.setVPair (t : Team) (r : Nat) (f : Nat → Option QWord) : Team :=
  (t.setV r fun L => (f L).map lowW).setV (r + 1) fun L => (f L).map highW

/-- Predicate n in lane L; p0 is true. -/
def Team.pred (t : Team) (n L : Nat) : Bool := n == 0 || (Tbl.getD t.p n 0).getLsbD L

/-- Write predicate n; a write to p0 is discarded. -/
def Team.setPred (t : Team) (n : Nat) (m : Mask) : Team := if n = 0 then t else { t with p := Tbl.set t.p n m }

/-- The lanes of a mask, ascending. -/
def lanesOf (n : Nat) (m : Mask) : List Nat := (List.range n).filter fun L => m.getLsbD L

/-! ## Latches (R16, R184) -/

/-- Entry k of the latches in lane L; 0 where none was made (R30, R332). -/
def Team.latch (t : Team) (k L : Nat) : QWord :=
  match t.lat[k]? with
  | some e => e.vals.getD L 0
  | none => 0

/-- A new entry becomes b0; four are kept. -/
def Team.pushLatch (t : Team) (tag : Nat) (f : Nat → QWord) : Team :=
  { t with lat := (⟨tag, (List.range t.lanes).map f⟩ :: t.lat).take 4 }

/-! ## PC (R164, R173) -/

/-- A handle moved by d bytes; no carry passes into the object number. -/
def pcPlus (pc : QWord) (d : Int) : QWord := mkHandle (hObj pc) (((hOff pc : Int) + d) % 2 ^ 40).toNat

def Team.nextPc (t : Team) : QWord := pcPlus t.pc 4

/-- Target of an SB or SBX displacement. -/
def Team.target {w : Nat} (t : Team) (disp : BitVec w) : QWord := pcPlus t.pc (4 * disp.toInt)

/-! ## Deterministic launches (R160) -/

def State.isDet (s : State) (t : Team) : Bool := ((s.launch? t.launch).map Launch.det).getD false

/-- The team has taken its turn of the round. -/
def State.endTurn (s : State) (tk : Nat) : State :=
  s.modTeam tk fun t => { t with turn := ((s.launch? t.launch).map Launch.round).getD 0 }

/-! ## The current instruction -/

def State.curTeam (s : State) : Option Team := s.cur.bind fun c => s.team? c.tk

def State.curWord (s : State) : Word := (s.cur.map Cur.word).getD 0

/-- The lanes in which a lane instruction acts: the active mask, or the unfinished lanes of a replay (R329). -/
def State.activeLanes (s : State) (t : Team) : Mask := (s.cur.bind Cur.lanes).getD t.mask

/-- Retire the current instruction of t, whose next PC is pc: the count of R60 rises. -/
def State.retireAt (s : State) (t : Team) (pc : QWord) : State := s.putTeam { t with pc := pc, clock := t.clock + 1 }

def State.retire (s : State) (t : Team) : State := s.retireAt t t.nextPc

/-! ## Cores -/

def Core.reset : Core where
  pacost := 0x0C60080604040201
  guard := 256
  cap := 4096
  allow := 4096
  ceil := 0x888888
  slices := []
  copies := []
  mats := []
  copyRR := 5
  matRR := 5
  items := []
  icache := []
  served := []
  streamed := 0
  stepped := false
  refill := 160

def Slice.reset : Slice := ⟨0, ⟨none, false⟩, ⟨none, false⟩, [], none, none, false⟩

def State.core (s : State) (c : Nat) : Core := Tbl.getD s.cores c Core.reset
def State.modCore (s : State) (c : Nat) (f : Core → Core) : State := { s with cores := Tbl.set s.cores c (f (s.core c)) }
def Core.slice (c : Core) (i : Nat) : Slice := Tbl.getD c.slices i Slice.reset
def Core.modSlice (c : Core) (i : Nat) (f : Slice → Slice) : Core := { c with slices := Tbl.set c.slices i (f (c.slice i)) }

/-- A slice by its module number (R8). -/
def State.modSlice (s : State) (sl : Nat) (f : Slice → Slice) : State := s.modCore (sl / 6) fun c => c.modSlice (sl % 6) f
def State.slice (s : State) (sl : Nat) : Slice := (s.core (sl / 6)).slice (sl % 6)

/-- The core whose scratchpad holds a location. -/
def bankCore (loc : Nat) : Option Nat := if 2 ^ 43 ≤ loc ∧ loc < 2 ^ 44 then some ((loc - 2 ^ 43) / 2 ^ 20) else none

/-- The words of a core scratchpad that bytes touch. -/
def wordsOf (loc len : Nat) : List Nat := ((List.range len).map fun i => (loc + i) / 4).eraseDups

/-- The pass of its instruction that an access belongs to: 32 lanes each (R21). -/
def Dest.pass : Dest → Nat
  | .vec _ L _ _ _ => L / 32
  | .lane L _ => L / 32
  | _ => 0

/-- Whether the banks of a core scratchpad can serve an access in this cycle (R80): each serves one word, which accesses of one pass
of one instruction share. -/
def State.bankFree (s : State) (base pass loc len : Nat) : Bool :=
  match bankCore loc with
  | none => true
  | some c => (wordsOf loc len).all fun w => (s.core c).served.all fun e => e.1 % 64 != w % 64 || e == (w, base, pass)

/-- The banks serve an access. -/
def State.serveBank (s : State) (base pass loc len : Nat) : State :=
  match bankCore loc with
  | none => s
  | some c => s.modCore c fun k => { k with served := k.served ++ (wordsOf loc len).map fun w => (w, base, pass) }

/-- Let go the ports, the precedence and the operand latch that a team holds (R150, R265). -/
def Slice.release (x : Slice) (tk : Nat) (latch : Bool) : Slice :=
  { x with
    p0 := if x.p0.run = some tk then ⟨none, false⟩ else x.p0
    p1 := if x.p1.run = some tk then ⟨none, false⟩ else x.p1
    prec := x.prec.filter (· != tk)
    latch := if latch && (x.latch.map OpLatch.tk) == some tk then none else x.latch }

/-! ## Fetch (R164, R380, R97) -/

/-- The location of the word at a handle, with the checks of R380 in their order. None of them asks that the offset be a multiple of 4:
an ENTRY or TVEC that is none is fetched from the four bytes at that offset (DESIGN CHOICE, assumption 65). -/
def State.fetchLoc (s : State) (t : Team) (h : QWord) : Except FInfo (List Piece) :=
  let asid := ((s.launch? t.launch).map Launch.asid).getD 0
  match s.desc (coreCluster t.core) asid h with
  | .error f => .error (if f.cause = 0x40 ∧ (f.detail = 1 ∨ f.detail = 3) then ⟨0x03, 1, h, 0⟩ else f)
  | .ok d =>
    if d.kind ≠ 3 then .error ⟨0x03, 2, h, qn d.kind⟩
    else if !d.px then .error ⟨0x03, 3, h, 0⟩
    else if d.len < hOff h + 4 then .error ⟨0x03, 4, h, qn d.len⟩
    else
      match s.extFault (coreCluster t.core) asid h d with
      | some f => .error f
      | none =>
      match s.globalPieces (coreCluster t.core) asid t.vf d (hObj h) (hOff h) 4 with
      | .error f => .error f
      | .ok ps =>
        match ps.find? (fun p => s.isLost p.loc p.len) with
        | some p => .error ⟨0x48, s.dataDetail p.loc, h, qn p.loc⟩
        | none => .ok ps

/-- Whether the word at a handle lies in code that the team's IFENCEs named: its fetch is a load of the team (R245). -/
def Team.loadsCode (t : Team) (h : QWord) : Bool :=
  t.fenced.any fun r => r.1 == hObj h && decide (hOff h < r.2.2) && decide (r.2.1 < hOff h + 4)

/-- The word a team fetches at a handle: a copy that its core holds, or a load from the sources of R87. -/
def State.fetchWord (s : State) (t : Team) (h : QWord) : Except FInfo Word :=
  match s.fetchLoc t h with
  | .error f => .error f
  | .ok ps =>
    match (if t.loadsCode h then none else ps.head?.bind fun p => if ps.length = 1 then Tbl.get? (s.core t.core).icache p.loc else none) with
    | some w => .ok w
    | none => .ok (BitVec.ofNat 32 ((ps.map fun p => (s.loadBytes t s.nextId p.loc p.len).1 * 2 ^ (8 * p.off)).sum))

/-- Whether a fetch that is a load of the team may be satisfied (R87, R105, R245). -/
def State.fetchOpen (s : State) (t : Team) : Bool :=
  !t.loadsCode t.pc ||
    match s.fetchLoc t t.pc with
    | .error _ => true
    | .ok ps => ps.all fun p => t.loadReady s.nextId s.nextId p.loc p.len && s.mayRead t s.nextId p

/-- The stores that such a fetch shows (R84). -/
def State.fetchSeen (s : State) (t : Team) : List Nat :=
  if !t.loadsCode t.pc then []
  else
    match s.fetchLoc t t.pc with
    | .error _ => []
    | .ok ps => ps.flatMap fun p => (s.loadBytes t s.nextId p.loc p.len).2.1

/-- Add observed stores. -/
def Team.see (t : Team) (o : List Nat) : Team := if o.isEmpty then t else { t with observed := (t.observed ++ o).eraseDups }

/-- The next instruction of a team, where it decodes. -/
def State.peek (s : State) (t : Team) : Option Instr :=
  match s.fetchWord t t.pc with
  | .error _ => none
  | .ok w =>
    match decodeWord w with
    | .ok i => some i
    | .error _ => none

/-- Whether the next instruction reads a latch: the run goes on (R175). -/
def State.inRun (s : State) (t : Team) : Bool := ((s.peek t).map Instr.readsLatch).getD false

/-- The restart point RPC (R175). -/
def State.rpc (s : State) (t : Team) : QWord :=
  match s.peek t with
  | some i => if i.readsLatch then t.runStart.getD t.pc else t.pc
  | none => t.pc

/-- A team leaves its latch run: the latches go, and it restarts at RPC (R176). In a deterministic launch the count falls back with
it, so that a run raises it by the run's length (R178). -/
def State.restart (s : State) (t : Team) : Team :=
  { t with pc := s.rpc t, lat := [], runStart := none, clock := if s.isDet t && s.inRun t && t.runStart.isSome then t.runClock else t.clock }

/-- A team's instruction at pc has retired by itself: where the next one reads a latch, it begins a run (R175). -/
def State.openRun (s : State) (tk : Nat) (pc : QWord) (clock : Nat) : State :=
  s.modTeam tk fun u => if s.inRun u then { u with runStart := some pc, runClock := clock } else { u with runStart := none }

/-! ## The parked-team list (R325) -/

/-- The 256 bytes of an entry (Table 22.3). -/
def entryBytes (t : Team) (p : ParkInfo) : List Byte :=
  leBytes 8 (p.cause * 2 ^ 56 + p.detail * 2 ^ 48 + (if p.fromWait then 2 ^ 24 else 0) + t.tid)
    ++ leBytes 8 p.seq ++ leBytes 8 p.pc.toNat ++ leBytes 8 0 ++ leBytes 128 p.umask.toNat ++ leBytes 96 0

/-- Write entry i of a partition's list for a parked team. -/
def State.writeEntry (s : State) (vf i tk : Nat) : Except FInfo State :=
  match s.part? vf, s.team? tk with
  | some p, some t =>
    match t.park with
    | some k => s.storeHandle p.pkasid vf (mkHandle (hObj p.pkbase) (hOff p.pkbase + 256 * i)) (entryBytes t k)
    | none => .ok s
  | _, _ => .ok s

/-- A team leaves Parked: the last entry moves into its place. An entry that cannot be written is dealt with by flushRecords
(R327). -/
def State.leaveList (s : State) (vf tk : Nat) : State :=
  match s.part? vf with
  | none => s
  | some p =>
    if !p.parked.contains tk then s
    else
      let i := p.parked.findIdx (· == tk)
      let last := p.parked.getLast?.getD tk
      let l := if last = tk then p.parked.dropLast else (p.parked.dropLast).set i last
      let s1 := s.modPart vf fun p => { p with parked := l }
      if last = tk then s1
      else
        match s1.writeEntry vf i last with
        | .ok s' => s'
        | .error _ => s1.modPart vf fun p => { p with failed := p.failed ++ [last] }

/-! ## Ending and cancelling (R35, R42) -/

/-- A team ends: it stops at its boundary; TEAM_LEAVES_SLOT does the rest. The count of a deadlock of its launch starts anew (R376). -/
def State.endTeam (s : State) (tk : Nat) : State :=
  match s.team? tk with
  | none => s
  | some t =>
    let s1 := (s.leaveList t.vf tk).modTeam tk fun t => { t with ended := true, wait := none, park := none }
    let s2 := (s1.modSlice t.slice fun x => x.release tk true).modLaunch t.launch fun l => { l with dead := none }
    { s2 with cores := Tbl.mapVals s2.cores fun c =>
        { c with copies := c.copies.map fun x => if x.tk = tk ∧ x.held then { x with held := false, fail := true } else x } }

/-- CANCEL of a launch accepted at this instant, with the STATUS its record will carry. A launch that had completed keeps
its record. -/
def State.cancelLaunch (s : State) (uid status : Nat) : State :=
  match s.launch? uid with
  | none => s
  | some l =>
    if l.done || l.cancel then s
    else
      let s1 := s.modLaunch uid fun l => { l with cancel := true, status := status, lists := [], carry := [] }
      let s2 := (s1.teams.filter fun e => e.2.launch == uid).foldl (fun s e => s.endTeam e.1) s1
      let s3 : State := { s2 with cores := Tbl.mapVals s2.cores fun c => { c with items := c.items.filter fun i => i.1 != uid } }
      let s4 := s3.modPart l.vf fun p => { p with
        reserve := if p.reserve = some uid then none else p.reserve
        queues := Tbl.mapVals p.queues fun q =>
          if q.waiting = some uid then { q with waiting := none, head := (q.head + 1) % 65536 } else q }
      s4.settleLaunch uid

/-! ## Taking an exception: parking a team with a record (R319 to R327) -/

/-- The 64 bytes of a fault record (Table 22.1), record number n. -/
def Record.bytes (r : Record) (n : Nat) : List Byte :=
  leBytes 8 (r.cause * 2 ^ 56 + r.detail * 2 ^ 48 + (if r.prec then 2 ^ 47 else 0) + (if r.level then 2 ^ 46 else 0)
      + (if r.set then 2 ^ 45 else 0) + (if r.det then 2 ^ 44 else 0) + r.tk % 2 ^ 24)
    ++ leBytes 8 r.pc.toNat ++ leBytes 8 r.rpc.toNat ++ leBytes 8 (r.word.toNat * 2 ^ 32 + r.lid)
    ++ leBytes 8 r.addr.toNat ++ leBytes 8 r.aux.toNat ++ leBytes 8 r.thyme ++ leBytes 8 (r.usum * 2 ^ 32 + (n + 1) % 2 ^ 32)

/-- The cycle of detection is over, so that what it found has its order, and the team's stores before the record are as a release at
partition scope asks (R326) (DEDUCED, assumption 18). -/
def State.recordReady (s : State) (r : Record) : Bool :=
  decide (r.cycle < s.cycle) &&
  match s.team? r.tk with
  | some t => s.releaseOk t r.own .partition
  | none => true

/-- Whether a record comes before another found in the same core cycle: ascending slice, then slot (R326). -/
def Record.before (r x : Record) : Bool := r.cycle == x.cycle && decide (r.place < x.place)

/-- A record, or an entry, becomes due: after those found before it. -/
def Part.addDue (p : Part) (r : Record) : Part :=
  { p with due := (p.due.takeWhile fun x => !r.before x) ++ r :: p.due.dropWhile fun x => !r.before x }

/-- A record or entry that cannot be written cancels the launch (R327). -/
def State.recordLost (s : State) (vf : Nat) (r : Record) : State :=
  let s1 := s.modPart vf fun p => { p with noFault := p.noFault + 1, due := p.due.filter (· != r) }
  s1.cancelLaunch r.launch 1

/-- The launches of teams whose entries could not be moved or completed are cancelled (R327). -/
def State.settleFailed (s : State) (vf : Nat) : State :=
  let fs := ((s.part? vf).map Part.failed).getD []
  if fs.isEmpty then s
  else
    fs.foldl (fun s tk => match s.team? tk with | some t => s.cancelLaunch t.launch 1 | none => s)
      (s.modPart vf fun p => { p with noFault := p.noFault + fs.length, failed := [] })

/-- Write the parked-team entries of records due, in parking order, while their releases hold; an entry of TCTL.park has no
record. -/
def State.enterRecords (s : State) (vf : Nat) : Nat → State
  | 0 => s
  | n + 1 =>
    match s.part? vf with
    | none => s
    | some p =>
      match p.due.find? (fun r => !r.entered) with
      | none => s
      | some r =>
        if !s.recordReady r then s
        else
          let done (x : Record) : Record := if x = r then { x with entered := true } else x
          let s1 := s.modPart vf fun p => { p with due := if r.cause = 0 then p.due.filter (· != r) else p.due.map done }
          if p.pkbase = 0 ∨ (((s.team? r.tk).bind Team.park).map ParkInfo.own) ≠ some r.own ∨ ((s.team? r.tk).bind Team.saved).isSome
              ∨ p.parked.contains r.tk then s1.enterRecords vf n
          else
            match (s1.modPart vf fun p => { p with parked := p.parked ++ [r.tk] }).writeEntry vf p.parked.length r.tk with
            | .ok s2 => s2.enterRecords vf n
            | .error _ => s.recordLost vf r

/-- Write records due at FQTAIL, in parking order, while the queue has room; each fills in its entry's SEQ. -/
def State.writeRecords (s : State) (vf : Nat) : Nat → State
  | 0 => s
  | n + 1 =>
    match s.part? vf with
    | none => s
    | some p =>
      match p.due with
      | [] => s
      | r :: _ =>
        if !r.entered ∨ p.fqsize ≤ (p.fqtail + 2 ^ 32 - p.fqhead) % 2 ^ 32 then s
        else
          let seq := (p.fqtail + 1) % 2 ^ 32
          let h := mkHandle (hObj p.fqbase) (hOff p.fqbase + 64 * (p.fqtail % p.fqsize))
          match s.storeHandle p.fqasid vf h (r.bytes p.fqtail) with
          | .error _ => s.recordLost vf r
          | .ok s1 =>
            let s2 := s1.modPart vf fun p => { p with fqtail := seq, due := p.due.drop 1 }
            let s3 := s2.modTeam r.tk fun t => { t with park := t.park.map fun k => { k with seq := if k.own = r.own then seq else k.seq } }
            let s4 := if p.parked.contains r.tk then
                match s3.writeEntry vf (p.parked.findIdx (· == r.tk)) r.tk with
                | .ok s' => s'
                | .error _ => s3.modPart vf fun p => { p with failed := p.failed ++ [r.tk] }
              else s3
            s4.writeRecords vf n

/-- Entries, then records (R326, R327). -/
def State.flushRecords (s : State) (vf : Nat) : State :=
  let n := ((s.part? vf).map fun p => p.due.length).getD 0
  (((s.settleFailed vf).enterRecords vf n).writeRecords vf n).settleFailed vf

/-- A team parks at its restart point, and leaves its ports. What is due of it, a record or an entry alone, waits in the order of
parking. The time that it then spends Parked counts for no wait (R359). -/
def State.parkWith (s : State) (t : Team) (k : ParkInfo) (rpc : QWord) (r : Record) : State :=
  let w := t.wait.map fun w => { w with spent := w.spent + (s.thyme - w.since), since := s.thyme }
  let s1 := s.fresh.putTeam { s.restart t with pc := rpc, park := some k, parkReq := false, wait := w }
  (s1.modSlice t.slice fun x => x.release t.tk false).modPart t.vf fun p => p.addDue r

/-- What a record says of its team at this instant. -/
def State.recordOf (s : State) (t : Team) (f : FInfo) (prec : Bool) (pc rpc : QWord) (word : Word) (set : Bool) (umask : Mask) : Record :=
  ⟨t.tk, f.cause, f.detail, prec, t.level, set, s.isDet t, pc, rpc, word, ((s.launch? t.launch).map Launch.lid).getD 0, f.addr, f.aux,
    s.thyme, summary umask, s.nextId, s.cycle, 16 * t.slice + t.slot, false, t.launch⟩

/-- Taking an exception: team t parks with a fault. prec tells a precise fault; pc is the recorded PC; word and set are those
of the recorded instruction; umask its unfinished lanes. With no fault queue the launch is cancelled instead; after its
cancel the team just ends (R338). start is the restart point of a precise fault found late, after whose replay the team goes on
where it stands, or in its open run where the fault lies in that. A fault at the end of a replay leaves that replay's lanes unfinished. -/
def State.parkTeam (s : State) (t : Team) (f : FInfo) (prec : Bool) (pc : QWord) (word : Word) (set : Bool) (umask : Mask)
    (start : Option QWord) : State :=
  let s0 := s.putTeam t
  if ((s.launch? t.launch).map Launch.cancel).getD false then s0.endTeam t.tk
  else
    match s.part? t.vf with
    | none => s0
    | some p =>
      if p.fqsize = 0 ∨ p.fqbase = 0 then s0.cancelLaunch t.launch 1
      else
        let rpc := start.getD (s.rpc t)
        let again := if start.isSome then none else t.replay.head?.bind fun r => if r.pc = pc then some r else none
        let um := if umask = 0 then (again.bind Replay.lanes).getD 0 else umask
        let cont := if start.isSome then (if t.runStart = start then none else some (s.rpc t)) else again.bind Replay.cont
        let u := { t with replay := if again.isSome then t.replay.drop 1 else t.replay }
        s0.parkWith u ⟨f.cause, f.detail, t.wait.isSome, pc, um, 0, cont, s.nextId⟩ rpc (s.recordOf t f prec pc rpc word set um)

/-- A precise fault of the current instruction, which does not retire (R320). -/
def State.fault (s : State) (t : Team) (f : FInfo) : State :=
  s.parkTeam t f true t.pc s.curWord (decide (2 ^ 31 ≤ s.curWord.toNat)) 0 none

/-- A park by TCTL.park: an entry with CAUSE 0x00 and no record (R319, R330). -/
def State.parkQuiet (s : State) (t : Team) : State :=
  s.parkWith t ⟨0, 0, t.wait.isSome, s.rpc t, 0, 0, none, s.nextId⟩ (s.rpc t) (s.recordOf t ⟨0, 0, 0, 0⟩ true (s.rpc t) (s.rpc t) 0 false 0)

/-- Return from a park (R329): the team goes back to the state it left, at its restart point; unfinished lanes make it a
replay, after which it goes back where a fault found late had met it, to the wait there too. All its loads follow, and the resume has
waited for the handler's releases (State.orderReady): it acts as an acquire. -/
def State.unpark (s : State) (t : Team) : State :=
  match t.park with
  | none => s
  | some k =>
    let w := t.wait.map fun w => { w with since := s.thyme, spent := if k.cause = 0x80 then 0 else w.spent }
    let again := k.umask != 0 || k.cont.isSome
    (s.leaveList t.vf t.tk).putTeam { t with
      park := none
      wait := if again then none else w
      replay := if again then ⟨k.pc, if k.umask = 0 then none else some k.umask, k.cont, w⟩ :: t.replay else t.replay
      brkSkip := t.brkSkip || k.cause == 0x0C }

/-- A supervisor call: TRAP of a code from 0x800 (R271). A TVEC whose offset is no multiple of 4 is taken like any other (DESIGN CHOICE,
assumption 65). -/
def Team.callTrap (t : Team) (tvec code : QWord) : Team :=
  { t with epc := t.nextPc, ecode := code, level := true, pc := tvec, clock := t.clock + 1 }

/-- ERET: user level, at a handle (R271). -/
def Team.returnTo (t : Team) (h : QWord) : Team := { t with level := false, pc := h, clock := t.clock + 1 }

/-! ## Waiting (R34) -/

/-- The team waits at its instruction. -/
def State.startWait (s : State) (t : Team) (on : WaitOn) : State := s.putTeam { t with wait := some ⟨on, s.curWord, s.thyme, s.thyme, 0⟩ }

/-- A wait returns: the instruction retires (R60 counts it once). -/
def State.endWait (s : State) (t : Team) : State := (s.retire { t with wait := none }).openRun t.tk t.pc t.clock

/-! ## Meanings -/

/-- Run a meaning on the current team. -/
def onTeam (s : State) (f : Team → State) : Result :=
  match s.curTeam with
  | none => .fault .noTeam
  | some t => .next (f t)

/-- Run a meaning on the current team, after the check that every vector register it names exists (ILLEGAL 6). -/
def onTeamRegs (i : Instr) (s : State) (f : Team → State) : Result :=
  onTeam s fun t =>
    match i.highReg t.regs with
    | some r => s.fault t ⟨0x01, 6, 0, qn r⟩
    | none => f t

end Sys2Proof.Machine
end

