-- ==== Sys2Proof/Machine/Operands.lean ====
section
/-! DEFINITION. Source operands (10 R167, R168), and the writing of a lane instruction's results (11 R182 to R185; 02 R16). -/

namespace Sys2Proof.Machine

/-- The type in which an instruction reads a source (R167). -/
inductive ReadAs where
  | int
  | f32
  | pair (F : FFmt)
  | packF (F : FFmt)
  | packI (F : IFmt)
  deriving DecidableEq, Repr

/-- LANE or a constant converted to the type (R167): RNE, and saturated for packed elements, whatever RMODE holds. -/
def ReadAs.word : ReadAs → Int → Word
  | .int, z => wrap32 z
  | .f32, z => BitVec.ofNat 32 (fp32.round 0 (intV z))
  | .pair F, z => splat 16 (F.round 0 (intV z))
  | .packF F, z => splat F.width (F.narrow 8 (intV z))
  | .packI F, z => splat F.width (F.code (F.sat z))

/-- The value of a constant code (Table 10.2). -/
def constVal (c : BitVec 5) : Int := (c.toNat : Int) - 16

/-- Src of R182: the source's value in lane L, as the type reads it. -/
def Team.src (t : Team) (k : ReadAs) (x : Src) (L : Nat) : Word :=
  match x with
  | .v r => t.vreg r.toNat L
  | .b n => lowW (t.latch n.toNat L)
  | .lane => k.word L
  | .const c => k.word (constVal c)

/-- A 64-bit source (R168). -/
def Team.src64 (t : Team) (x : Src) (L : Nat) : QWord :=
  match x with
  | .v r => t.vpair r.toNat L
  | .b n => t.latch n.toNat L
  | .lane => qn L
  | .const c => wrap64 (constVal c)

/-! ## Writing results (R182) -/

/-- The results in the lanes that the instruction writes: active, and with the guard true. -/
def Team.results {α : Type} (t : Team) (act : Mask) (pg : Nat) (f : Nat → α) : List (Option α) :=
  (List.range t.lanes).map fun L => if act.getLsbD L && t.pred pg L then some (f L) else none

/-- Write 32-bit results to vd unless NW, and push the latch entry. -/
def Team.writeLanes (t : Team) (nw : Bool) (vd : BitVec 6) (tag : Nat) (rs : List (Option Word)) : Team :=
  let t1 := if nw then t else t.setV vd.toNat fun L => rs.getD L none
  t1.pushLatch tag fun L => ((rs.getD L none).getD (t1.vreg vd.toNat L)).setWidth 64

/-- Write 64-bit results to the pair vd, vd + 1 unless NW, and push the latch entry. -/
def Team.writeLanes64 (t : Team) (nw : Bool) (vd : BitVec 6) (tag : Nat) (rs : List (Option QWord)) : Team :=
  let t1 := if nw then t else t.setVPair vd.toNat fun L => rs.getD L none
  t1.pushLatch tag fun L => (rs.getD L none).getD (t1.vpair vd.toNat L)

/-- A lane instruction of a 32-bit result: f gives the result in lane L from the team as it stands before. -/
def laneOp (i : Instr) (s : State) (nw : Bool) (vd : BitVec 6) (pg : Nat) (f : Team → Nat → Word) : Result :=
  onTeamRegs i s fun t => s.retire (t.writeLanes nw vd 0 (t.results (s.activeLanes t) pg (f t)))

/-- The common shape of VR instructions: both sources read as one type, and the old destination (R182). -/
def vrOp (i : Instr) (o : VR) (k : ReadAs) (s : State) (f : Team → Word → Word → Word → Word) : Result :=
  laneOp i s o.nw o.vd o.pg.toNat fun t L => f t (t.src k o.sa L) (t.src k o.sb L) (t.vreg o.vd.toNat L)

/-- The unary shape (R185). -/
def vuOp (i : Instr) (o : VU) (k : ReadAs) (s : State) (f : Team → Word → Word) : Result :=
  laneOp i s o.nw o.vd o.pg.toNat fun t L => f t (t.src k o.sa L)

/-- The immediate shape: every active lane (R171). -/
def viOp (i : Instr) (o : VI) (s : State) (f : Word → Word) : Result :=
  laneOp i s o.nw o.vd 0 fun t L => f (t.src .int o.sa L)

/-- Write predicates in the active lanes where the guard holds; old values guard (R169, R191). No register, no latch. -/
def predOp (i : Instr) (s : State) (pds : List Nat) (pg : Nat) (f : Team → Nat → Nat → Bool) : Result :=
  onTeamRegs i s fun t =>
    let act := s.activeLanes t
    s.retire (pds.foldl (fun u pd => u.setPred pd
      (maskOf t.lanes fun L => if act.getLsbD L && t.pred pg L then f t pd L else t.pred pd L)) t)

end Sys2Proof.Machine
end

