-- ==== Sys2Proof/Machine/Flags.lean ====
section
/-! DEFINITION. Conditions, and the arithmetic helpers of the integer sets: compares (11 R191, 12 R213, 13 R246), shifts
(R187), division (R188), bit fields (R189), saturation. Mael keeps no condition flags (08 R129); a compare's result goes to
a predicate or a register. -/

namespace Sys2Proof.Machine

/-- VCMP and SCMP (Table 11.3), at either width. -/
def condI {w : Nat} (c : Cond) (a b : BitVec w) : Bool :=
  match c with
  | .eq => a == b
  | .ne => a != b
  | .lt => decide (a.toInt < b.toInt)
  | .le => decide (a.toInt ≤ b.toInt)
  | .gt => decide (b.toInt < a.toInt)
  | .ge => decide (b.toInt ≤ a.toInt)
  | .ltn => decide (a.toNat < b.toNat)
  | .gen => decide (b.toNat ≤ a.toNat)

/-- VCMPF (Table 11.3). -/
def condF (c : Cond) (a b : Word) : Bool :=
  let r := (fp32.dec a.toNat).cmp (fp32.dec b.toNat)
  match c with
  | .eq => r == some 0
  | .ne => r != some 0
  | .lt => r == some (-1)
  | .le => r == some (-1) || r == some 0
  | .gt => r == some 1
  | .ge => r == some 1 || r == some 0
  | .ltn => r == none
  | .gen => r != none

/-- WAITV (R246), on the bits of either width. -/
def condW {w : Nat} (c : WCond) (a b : BitVec w) : Bool :=
  match c with
  | .eq => a == b
  | .ne => a != b
  | .ltn => decide (a.toNat < b.toNat)
  | .gen => decide (b.toNat ≤ a.toNat)

/-- Shifts with a count of any size (R187; 12 R214 takes its own count). -/
def shl (a : Word) (n : Nat) : Word := if n < 32 then a <<< n else 0
def shr (a : Word) (n : Nat) : Word := if n < 32 then a >>> n else 0
def sar (a : Word) (n : Nat) : Word := a.sshiftRight (min n 31)
def rotl (a : Word) (n : Nat) : Word := a.rotateLeft (n % 32)

/-- Signed division, truncating (R188). -/
def sdiv (a b : Word) : Word :=
  if b = 0 then 0xFFFFFFFF else wrap32 (Int.tdiv a.toInt b.toInt)

def srem (a b : Word) : Word :=
  if b = 0 then a else wrap32 (Int.tmod a.toInt b.toInt)

/-- The field of VBFX and VBFI: position and cut width (R189). -/
def bitField (b : Word) : Nat × Nat :=
  let pos := b.toNat % 32
  (pos, min (b.toNat / 32 % 64) (32 - pos))

def bfx (a b : Word) : Word :=
  let (pos, w) := bitField b
  let f := a.toNat / 2 ^ pos % 2 ^ w
  if b.getLsbD 11 ∧ 0 < w ∧ 2 ^ (w - 1) ≤ f then wrap32 ((f : Int) - 2 ^ w) else BitVec.ofNat 32 f

def bfi (a b d : Word) : Word :=
  let (pos, w) := bitField b
  BitVec.ofNat 32 (d.toNat - d.toNat / 2 ^ pos % 2 ^ w * 2 ^ pos + a.toNat % 2 ^ w * 2 ^ pos)

/-- Leading zeros, ones, and bit reversal at either width. -/
def clz {w : Nat} (a : BitVec w) : Nat := if a.toNat = 0 then w else w - 1 - Nat.log2 a.toNat
def popc {w : Nat} (a : BitVec w) : Nat := ((List.range w).filter fun i => a.getLsbD i).length
def brev (a : Word) : Word := BitVec.ofNat 32 (natOfBits (fun i => a.getLsbD (31 - i)) 32)

/-- Saturation to 32 bits signed (R186). -/
def sat32 (z : Int) : Word := wrap32 (i32.sat z)

/-- The smaller or larger, signed or natural, at either width. -/
def smin {w : Nat} (a b : BitVec w) : BitVec w := if a.toInt ≤ b.toInt then a else b
def smax {w : Nat} (a b : BitVec w) : BitVec w := if b.toInt ≤ a.toInt then a else b
def umin {w : Nat} (a b : BitVec w) : BitVec w := if a.toNat ≤ b.toNat then a else b
def umax {w : Nat} (a b : BitVec w) : BitVec w := if b.toNat ≤ a.toNat then a else b

/-- The operations of Table 13.2, at either width (R239). -/
def atomOp {w : Nat} (op : AOp) (m v : BitVec w) : BitVec w :=
  match op with
  | .add => m + v
  | .and => m &&& v
  | .or => m ||| v
  | .xor => m ^^^ v
  | .min => smin m v
  | .max => smax m v
  | .minn => umin m v
  | .maxn => umax m v

end Sys2Proof.Machine
end

