-- ==== Sys2Proof/Machine/FloatOps.lean ====
section
/-! DEFINITION. Floating-point lane instructions, conversions and dot products (11 R196 to R207). -/

namespace Sys2Proof.Machine

/-- The mode RMODE selects at issue (R132); SAT is ignored. -/
def Team.mode (t : Team) : Nat := t.rmode % 8

/-- An FP32 code as its value. -/
def fv (a : Word) : FVal := fp32.dec a.toNat

/-- Round a value into FP32 in the sampled mode. -/
def Team.to32 (t : Team) (x : FVal) : Word := BitVec.ofNat 32 (fp32.round t.mode x)

/-! ## FP32 (Tables 11.6 and 11.7a) -/

def execFadd (o : VR) (s : State) : Result := vrOp (.fadd o) o .f32 s fun t a b _ => t.to32 ((fv a).add t.mode (fv b))

def execFsub (o : VR) (s : State) : Result := vrOp (.fsub o) o .f32 s fun t a b _ => t.to32 ((fv a).add t.mode (fv b).neg')

def execFmul (o : VR) (s : State) : Result := vrOp (.fmul o) o .f32 s fun t a b _ => t.to32 ((fv a).mul t.mode (fv b))

def execFfma (o : VR) (s : State) : Result := vrOp (.ffma o) o .f32 s fun t a b d => BitVec.ofNat 32 (fp32.fmaC t.mode a.toNat b.toNat d.toNat)

def execFnma (o : VR) (s : State) : Result := vrOp (.fnma o) o .f32 s fun t a b d => BitVec.ofNat 32 (fp32.fnmaC t.mode a.toNat b.toNat d.toNat)

def execFmin (o : VR) (s : State) : Result := vrOp (.fmin o) o .f32 s fun _ a b _ => fminmax false a b

def execFmax (o : VR) (s : State) : Result := vrOp (.fmax o) o .f32 s fun _ a b _ => fminmax true a b

def execFneg (o : VU) (s : State) : Result := vuOp (.fneg o) o .f32 s fun _ a => a ^^^ 0x80000000

def execFabs (o : VU) (s : State) : Result := vuOp (.fabs o) o .f32 s fun _ a => a &&& 0x7FFFFFFF

def execFrcp (o : VU) (s : State) : Result := vuOp (.frcp o) o .f32 s fun t a => t.to32 ((FVal.num false 1 0).div t.mode (fv a))

def execFrsq (o : VU) (s : State) : Result := vuOp (.frsq o) o .f32 s fun t a => t.to32 ((fv a).rsqrt t.mode)

def execFsqrt (o : VU) (s : State) : Result := vuOp (.fsqrt o) o .f32 s fun t a => t.to32 ((fv a).sqrt t.mode)

def execFexp2 (o : VU) (s : State) : Result := vuOp (.fexp2 o) o .f32 s fun t a => t.to32 ((fv a).exp2 t.mode)

def execFlog2 (o : VU) (s : State) : Result := vuOp (.flog2 o) o .f32 s fun t a => t.to32 ((fv a).log2 t.mode)

def execFrint (o : VU) (s : State) : Result := vuOp (.frint o) o .f32 s fun t a => frint t.mode a

/-- FSCALE reads b as a 32-bit integer. -/
def execFscale (o : VR) (s : State) : Result :=
  laneOp (.fscale o) s o.nw o.vd o.pg.toNat fun t L =>
    t.to32 ((fv (t.src .f32 o.sa L)).scale t.mode (t.src .int o.sb L).toInt)

/-! ## Packed pairs (R201) -/

def execHadd2 (o : VR) (s : State) : Result := vrOp (.hadd2 o) o (.pair fp16) s fun t a b _ => pairwise (fun x y _ => fp16.addC t.mode x y) a b 0

def execHmul2 (o : VR) (s : State) : Result := vrOp (.hmul2 o) o (.pair fp16) s fun t a b _ => pairwise (fun x y _ => fp16.mulC t.mode x y) a b 0

def execHfma2 (o : VR) (s : State) : Result := vrOp (.hfma2 o) o (.pair fp16) s fun t a b d => pairwise (fun x y z => fp16.fmaC t.mode x y z) a b d

def execBadd2 (o : VR) (s : State) : Result := vrOp (.badd2 o) o (.pair bf16) s fun t a b _ => pairwise (fun x y _ => bf16.addC t.mode x y) a b 0

def execBmul2 (o : VR) (s : State) : Result := vrOp (.bmul2 o) o (.pair bf16) s fun t a b _ => pairwise (fun x y _ => bf16.mulC t.mode x y) a b 0

def execBfma2 (o : VR) (s : State) : Result := vrOp (.bfma2 o) o (.pair bf16) s fun t a b d => pairwise (fun x y z => bf16.fmaC t.mode x y z) a b d

def execFdiv (o : VR) (s : State) : Result := vrOp (.fdiv o) o .f32 s fun t a b _ => t.to32 ((fv a).div t.mode (fv b))

/-! ## Conversions (Table 11.7): they act in every active lane -/

def cvtFmt : CvtFmt → FFmt
  | .fp16 => fp16 | .bf16 => bf16 | .e4m3 => e4m3 | .e5m2 => e5m2 | .e2m1 => e2m1

def qFmt : QFmt → FFmt
  | .e4m3 => e4m3 | .e5m2 => e5m2 | .e2m1 => e2m1

def dFmt : DFmt → FFmt
  | .e4m3 => e4m3 | .e5m2 => e5m2 | .e2m1 => e2m1

def packFmt : PackFmt → IFmt
  | .i8 => Machine.i8 | .n8 => Machine.n8 | .i4 => Machine.i4 | .n4 => Machine.n4

def intFmt : IntFmt → IFmt
  | .i32 => Machine.i32 | .i8 => Machine.i8 | .i4 => Machine.i4 | .n8 => Machine.n8 | .n4 => Machine.n4

/-- How a source of elements of a floating format is read (R167). -/
def readF (F : FFmt) : ReadAs := if F.width = 16 then .pair F else .packF F

def readI (F : IFmt) : ReadAs := if F.width = 32 then .int else .packI F

/-- CVT (R203). -/
def execCvt (o : VCvt) (s : State) : Result :=
  laneOp (.cvt o) s o.nw o.vd 0 fun t L =>
    let F := cvtFmt o.f
    setElem F.width (t.vreg o.vd.toNat L) ((t.src .int o.sb L).toNat % (32 / F.width))
      (F.narrow t.rmode (fv (t.src .f32 o.sa L)))

/-- CVTSC.q: quantise (R204). -/
def execCvtscQ (o : VQ) (s : State) : Result :=
  laneOp (.cvtscQ o) s o.nw o.vd 0 fun t L =>
    BitVec.ofNat 32 ((qFmt o.f).quant t.rmode ((t.src .int o.sb L).toNat % 256) (fv (t.src .f32 o.sa L)))

/-- CVTSC.d: dequantise element 0, a read as packed elements (R204). -/
def execCvtscD (o : VD) (s : State) : Result :=
  laneOp (.cvtscD o) s o.nw o.vd 0 fun t L =>
    let F := dFmt o.f
    t.to32 ((scaled (F.dec (elemAt F.width (t.src (readF F) o.sa L) 0)) ((t.src .int o.sb L).toNat % 256)).ruled t.mode)

/-- PACK (R203). -/
def execPack (o : VPack) (s : State) : Result :=
  laneOp (.pack o) s o.nw o.vd 0 fun t L =>
    let F := packFmt o.f
    setElem F.width (t.vreg o.vd.toNat L) ((t.src .int o.sb L).toNat % (32 / F.width))
      (F.narrow t.rmode (t.src .int o.sa L).toInt)

/-- UNPK of a floating or integer element (R203): exact. -/
def unpkF (F : FFmt) (x : Word) (j : Nat) : Word := BitVec.ofNat 32 (fp32.round 0 (F.dec (elemAt F.width x (j % (32 / F.width)))))
def unpkI (F : IFmt) (x : Word) (j : Nat) : Word := wrap32 (F.dec (elemAt F.width x (j % (32 / F.width))))

def execUnpk (o : VUnpk) (s : State) : Result :=
  laneOp (.unpk o) s o.nw o.vd 0 fun t L =>
    let j := (t.src .int o.sb L).toNat
    match o.f with
    | .fp16 => unpkF fp16 (t.src (readF fp16) o.sa L) j
    | .bf16 => unpkF bf16 (t.src (readF bf16) o.sa L) j
    | .e4m3 => unpkF e4m3 (t.src (readF e4m3) o.sa L) j
    | .e5m2 => unpkF e5m2 (t.src (readF e5m2) o.sa L) j
    | .e2m1 => unpkF e2m1 (t.src (readF e2m1) o.sa L) j
    | .i8 => unpkI i8 (t.src (readI i8) o.sa L) j
    | .i4 => unpkI i4 (t.src (readI i4) o.sa L) j

/-! ## Dot products (R207) -/

def execDot4i8 (o : VR) (s : State) : Result := vrOp (.dot4i8 o) o (.packI i8) s fun _ a b d => dotI i8 a b d

def execDot4n8 (o : VR) (s : State) : Result := vrOp (.dot4n8 o) o (.packI n8) s fun _ a b d => dotI n8 a b d

def execDot8i4 (o : VR) (s : State) : Result := vrOp (.dot8i4 o) o (.packI i4) s fun _ a b d => dotI i4 a b d

def execDot4e4 (o : VR) (s : State) : Result := vrOp (.dot4e4 o) o (.packF e4m3) s fun t a b d => dotF e4m3 4 t.mode a b d

def execDot4e5 (o : VR) (s : State) : Result := vrOp (.dot4e5 o) o (.packF e5m2) s fun t a b d => dotF e5m2 4 t.mode a b d

def execDot8f4 (o : VR) (s : State) : Result := vrOp (.dot8f4 o) o (.packF e2m1) s fun t a b d => dotF e2m1 8 t.mode a b d

/-- QSCALE (R205). -/
def execQscale (o : VQ) (s : State) : Result :=
  laneOp (.qscale o) s o.nw o.vd 0 fun t L =>
    let emax : Int := match o.f with | .e4m3 => 8 | .e5m2 => 15 | .e2m1 => 2
    BitVec.ofNat 32 (qscale emax (t.src .f32 o.sa L) (t.src .int o.sb L).toInt)

/-- I2F (R206): element 0 of the format. -/
def execI2f (o : VInt) (s : State) : Result :=
  laneOp (.i2f o) s o.nw o.vd 0 fun t L =>
    let F := intFmt o.f
    t.to32 ((intV (F.dec (t.src (readI F) o.sa L).toNat)).ruled t.mode)

/-- F2I (R206): saturated whatever SAT holds. -/
def execF2i (o : VInt) (s : State) : Result :=
  laneOp (.f2i o) s o.nw o.vd 0 fun t L => wrap32 ((intFmt o.f).ofF t.rmode (fv (t.src .f32 o.sa L)))

end Sys2Proof.Machine
end

