-- ==== Sys2Proof/Machine/Memory.lean ====
section
/-! DEFINITION. Loads, stores and atomics of both sets (13 R233 to R241): the policy word (05 R76, R77, R79, 22 R334), the
checks of each lane (23 R340 to R342), and the entry of the accesses into the ordering machine (06 R86). -/

namespace Sys2Proof.Machine

/-! ## The policy word (Table 5.6) -/

inductive AccKind where
  | load | store | atomic
  deriving DecidableEq, Repr

/-- The 32-bit policy word in a uniform register. -/
def Team.policy (t : Team) (r : Nat) : Nat := (t.sreg r).toNat % 2 ^ 32

def polOrd (w : Nat) : Nat := w / 2 ^ 28
def polScope (w : Nat) : Scope :=
  match w / 2 ^ 25 % 8 with
  | 0 => .team | 1 => .crew | 2 => .fleet | 3 => .die | 4 => .partition | _ => .system
def polRepl (w : Nat) : ReplMode :=
  match w / 2 ^ 23 % 4 with
  | 0 => .adaptive | 1 => .never | _ => .eager

/-- POLICY (0x04), lowest detail first (R322, R334). -/
def policyFault (k : AccKind) (w r : Nat) : Option FInfo :=
  let f (d : Nat) : Option FInfo := some ⟨0x04, d, qn w, qn r⟩
  if 5 ≤ polOrd w then f 1
  else if 6 ≤ w / 2 ^ 25 % 8 then f 2
  else if w / 2 ^ 23 % 4 = 3 then f 3
  else if w / 2 ^ 22 % 2 = 1 then f 4
  else if polOrd w = 1 ∧ k = .store then f 5
  else if polOrd w = 2 ∧ k = .load then f 6
  else none

/-- POLICY of CPY and CPYT: REPL and bit 22 alone (R334). -/
def policyFaultCopy (w r : Nat) : Option FInfo :=
  if w / 2 ^ 23 % 4 = 3 then some ⟨0x04, 3, qn w, qn r⟩
  else if w / 2 ^ 22 % 2 = 1 then some ⟨0x04, 4, qn w, qn r⟩
  else none

def scopeRank : Scope → Nat
  | .team => 0 | .crew => 1 | .fleet => 2 | .die => 3 | .partition => 4 | .system => 5

/-- The natural scope of a space (Table 5.1). -/
def Space.natural : Space → Sys2Proof.Scope
  | .lane => .team | .core => .crew | .fleet => .fleet | .die => .die | _ => .system

/-- A scope clamped to a space (R77). -/
def clamp (sp : Space) (sc : Sys2Proof.Scope) : Sys2Proof.Scope :=
  if scopeRank sc ≤ scopeRank sp.natural then sc else sp.natural

/-- ORD acts as acquire on loads and atomics, as release on stores and atomics (R77). -/
def polAcq (k : AccKind) (w : Nat) : Bool := k != .store && (polOrd w == 1 || polOrd w == 3)
def polRel (k : AccKind) (sp : Space) (w : Nat) : Option Sys2Proof.Scope :=
  if k ≠ .load ∧ (polOrd w = 2 ∨ polOrd w = 3) then some (clamp sp (polScope w)) else none

/-! ## Remote locations (DESIGN CHOICE, assumption 8): target module, ASID, object and offset in one number -/

def remoteLoc (m asid obj off : Nat) : Nat := 2 ^ 100 + ((m * 1024 + asid) * 2 ^ 24 + obj) * 2 ^ 40 + off
def remMod (loc : Nat) : Nat := (loc - 2 ^ 100) / 2 ^ 74
def remAsid (loc : Nat) : Nat := (loc - 2 ^ 100) / 2 ^ 64 % 1024
def remObj (loc : Nat) : Nat := (loc - 2 ^ 100) / 2 ^ 40 % 2 ^ 24
def remOff (loc : Nat) : Nat := (loc - 2 ^ 100) % 2 ^ 40

/-! ## One lane's access -/

/-- A lane's access: the value ADDR names, what R341 reports at issue or after some lanes have finished, or its pieces;
space tells a remote object; repl is the descriptor's REPL and obj the object where the space is global. -/
structure LaneAcc where
  lane   : Nat
  addr   : QWord
  space  : Space
  repl   : Nat
  obj    : Nat
  res    : Except FInfo (List Piece)

def State.asidOf (s : State) (t : Team) : Nat := ((s.launch? t.launch).map Launch.asid).getD 0

/-- Whether load id takes a byte of a piece from a lost unit: one that no older store of the team, its core's view or its die's replica
gives (R87, R342, R348). -/
def State.readsLost (s : State) (t : Team) (id : Nat) (p : Piece) : Bool :=
  !s.lost.isEmpty &&
  (List.range p.len).any fun i =>
    let a := p.loc + i
    s.lost.contains (lostUnitOf a) && (ownByte t.sq id a).isNone && (cvByte (s.cv t.core) a).isNone
      && (isBank a || (s.replica? t.die (a / 128)).isNone || decide (s.thyme < t.horizon))

/-- The pieces of a load or atomic of which none is lost. -/
def State.goodPieces (s : State) (t : Team) (need : Need) (ps : List Piece) (a : QWord) : Except FInfo (List Piece) :=
  match (if need = .store ∨ need = .copyWrite then none else ps.find? (s.readsLost t s.nextId)) with
  | some p => .error ⟨0x48, s.dataDetail p.loc, a, qn p.loc⟩
  | none => .ok ps

/-- Check and translate a global access at handle h: its space, which is remote for a remote window, REPL and pieces. -/
def State.globalAcc (s : State) (t : Team) (need : Need) (base h : QWord) (x size align adet : Nat) : Space × Nat × Except FInfo (List Piece) :=
  match s.checkGlobal (coreCluster t.core) (s.asidOf t) need base x size align adet with
  | .error f => (.global, 0, .error f)
  | .ok d =>
    if d.kind = 4 then
      match s.walkLost (coreCluster t.core) (s.asidOf t) h d with
      | some f => (.remote, 0, .error f)
      | none => (.remote, 0, .ok [⟨remoteLoc d.rmod d.rasid d.robj (hOff h), size, 0, 0⟩])
    else
      match s.globalPieces (coreCluster t.core) (s.asidOf t) t.vf d (hObj h) (hOff h) size with
      | .error f => (.global, d.repl, .error f)
      | .ok ps => (.global, d.repl, s.goodPieces t need ps h)

/-- Form, check and translate one access (R63, R73, R342). -/
def State.access (s : State) (t : Team) (sp : Space) (need : Need) (base : QWord) (x size align adet lane : Nat) : LaneAcc :=
  match sp with
  | .global =>
    let h := mkHandle (hObj base) (hOff base + x)
    let g := s.globalAcc t need base h x size align adet
    ⟨lane, h, g.1, g.2.1, s.asidOf t * 2 ^ 24 + hObj h, g.2.2⟩
  | _ =>
    let a := base.toNat + x
    let h := qn (a % sp.modulus)
    match s.localLoc t sp a size lane align adet with
    | .error f => ⟨lane, h, sp, 0, 0, .error f⟩
    | .ok loc => ⟨lane, h, sp, 0, 0, s.goodPieces t need (s.localPieces t sp loc size) h⟩

def LaneAcc.err (a : LaneAcc) : Option FInfo := match a.res with | .error f => some f | .ok _ => none
def LaneAcc.pieces (a : LaneAcc) : List Piece := match a.res with | .error _ => [] | .ok ps => ps

/-- The lowest cause, then detail, then lane (R322, R342). -/
def lowestFault (fs : List FInfo) : Option FInfo :=
  fs.foldl (fun acc f =>
    match acc with
    | none => some f
    | some g => if f.cause < g.cause ∨ (f.cause = g.cause ∧ f.detail < g.detail) then some f else some g) none

/-- What the walk noted of each granule (Table 7.3): the object, its descriptor's REPL, and P of the partition. -/
def State.noteGrans (s : State) (vf : Nat) (acc : List LaneAcc) : State :=
  let p := ((s.part? vf).map fun p => p.dies.length).getD 1
  let gs := (acc.flatMap fun a => if a.space = .global then a.pieces.map (fun q => (q.loc / 65536, a.repl, a.obj)) else []).eraseDups
  gs.foldl (fun s g =>
    let x := s.gran g.1
    if x.repl = g.2.1 ∧ x.pdies = p ∧ x.obj = g.2.2 then s
    else s.modGran g.1 fun x => { x with repl := g.2.1, pdies := p, obj := g.2.2 }) s

/-- The effective REPL of an access (R79). -/
def effRepl (d : Nat) (r : ReplMode) : ReplMode := if d = 1 then .never else if d = 2 then .eager else r

/-! ## Entering the ordering machine (R86) -/

/-- Number a list of entries from the next id. -/
def numbered {α : Type} (n : Nat) (l : List α) : List (Nat × α) := (List.range l.length).zip l |>.map fun e => (n + e.1, e.2)

/-- The restart point of the instruction that a team issues: the open run's first instruction (R175). -/
def Team.rpcHere (t : Team) : QWord := t.runStart.getD t.pc

/-- Loads of the given accesses with their destinations. -/
def State.enterLoads (s : State) (t : Team) (pol : Nat) (acc : List LaneAcc) (dest : LaneAcc → Dest) : State × Team :=
  let base := s.nextId
  let es := (numbered base acc).map fun e =>
    (⟨e.1, base, .load e.2.pieces 0, polAcq .load pol, effRepl e.2.repl (polRepl pol), [], dest e.2, t.pc, t.rpcHere, s.curWord,
      e.2.addr, e.2.space == .lane⟩ : TqEntry)
  ({ s with nextId := base + max 1 acc.length }, { t with tq := t.tq ++ es })

/-- Stores of the given accesses: one entry per piece. -/
def State.enterStores (s : State) (t : Team) (pol : Nat) (acc : List LaneAcc) (val : Nat → QWord) : State × Team :=
  let base := s.nextId
  let ps := acc.flatMap fun a => a.pieces.map fun p => (a, p)
  let es := (numbered base ps).map fun e =>
    let a := e.2.1
    let p := e.2.2
    (⟨e.1, base, a.space, p.loc, p.len, p.home, .store (qn ((val a.lane).toNat / 2 ^ (8 * p.off) % 2 ^ (8 * p.len))), false,
      polRel .store a.space pol, false, .lane a.lane 0, t.pc, t.rpcHere, s.curWord, a.addr⟩ : SqEntry)
  ({ s with nextId := base + max 1 ps.length }, { t with sq := t.sq ++ es })

/-- Atomics of the given accesses, in lane order. -/
def State.enterAtomics (s : State) (t : Team) (pol : Nat) (acc : List LaneAcc) (op : Nat → SqOp) (returns : Bool)
    (dest : LaneAcc → Dest) : State × Team :=
  let base := s.nextId
  let es := (numbered base acc).map fun e =>
    let a := e.2
    let p := a.pieces.headD ⟨0, 0, 0, 0⟩
    (⟨e.1, base, a.space, p.loc, p.len, p.home, op a.lane, polAcq .atomic pol, polRel .atomic a.space pol, returns, dest a,
      t.pc, t.rpcHere, s.curWord, a.addr⟩ : SqEntry)
  ({ s with nextId := base + max 1 acc.length }, { t with sq := t.sq ++ es })

/-! ## Vector accesses -/

/-- The lanes in which an instruction runs, as far as none has finished before it: 0 in a replay of some (Table 22.1) (DEDUCED, assumption 45). -/
def State.laneCount (s : State) (t : Team) : Nat :=
  match s.cur.bind Cur.lanes with
  | some _ => 0
  | none => (lanesOf t.lanes t.mask).length

def sizeBytes : Sys2Proof.Size → Nat
  | .b1 => 1 | .b2 => 2 | .b4 => 4 | .b8 => 8

/-- What every vector access does (R233 to R235, R342): the policy word, every active lane's check, then the lanes that can
go on enter the machine by enter; after that either the team parks with its unfinished lanes, or the instruction retires,
with a latch entry holding vt as it stands where it returns a value (bytes: its width). -/
def vecAccess (i : Instr) (s : State) (kind : AccKind) (sp : Space) (need : Need) (so : Src) (sbase : BitVec 6)
    (spol size align : Nat) (latch : Option (BitVec 6))
    (enter : State → Team → Nat → List LaneAcc → State × Team) : Result :=
  onTeamRegs i s fun t =>
    let pol := t.policy spol
    match policyFault kind pol spol with
    | some f => s.fault t f
    | none =>
      let acc := (lanesOf t.lanes (s.activeLanes t)).map fun L =>
        s.access t sp need (t.rs sbase) (t.src .int so L).toNat size align 1 L
      match lowestFault ((acc.filterMap LaneAcc.err).filter fun f => f.cause < 0x45) with
      | some f => s.fault t f
      | none =>
        let good := acc.filter fun a => a.err.isNone
        let bad := acc.filter fun a => a.err.isSome
        let (s1, t1) := enter (s.noteGrans t.vf good) t pol good
        match lowestFault (bad.filterMap LaneAcc.err) with
        | some f =>
          s1.parkTeam t1 f true t.pc s.curWord (decide (2 ^ 31 ≤ s.curWord.toNat))
            (if bad.length = s.laneCount t then 0 else maskOf t.lanes fun L => bad.any fun a => a.lane == L) none
        | none =>
          match latch with
          | some vt =>
            s1.retire (t1.pushLatch s.nextId fun L => if size = 8 then t1.vpair vt.toNat L else (t1.vreg vt.toNat L).setWidth 64)
          | none => s1.retire t1

def vecLoad (i : Instr) (o : VM) (sp : Space) (s : State) : Result :=
  vecAccess i s .load sp .load o.so o.sbase o.spol.toNat (sizeBytes o.size) 0 (some o.vt) fun s t pol acc =>
    s.enterLoads t pol acc fun a => .vec o.vt.toNat a.lane (sizeBytes o.size) s.nextId (s.laneCount t)

def vecStore (i : Instr) (o : VM) (sp : Space) (s : State) : Result :=
  vecAccess i s .store sp .store o.so o.sbase o.spol.toNat (sizeBytes o.size) 0 none fun s t pol acc =>
    s.enterStores t pol acc fun L => if o.size = .b8 then t.vpair o.vt.toNat L else (t.vreg o.vt.toNat L).setWidth 64

def execLdl (o : VM) (s : State) : Result := vecLoad (.ldl o) o .lane s
def execStl (o : VM) (s : State) : Result := vecStore (.stl o) o .lane s
def execLdc (o : VM) (s : State) : Result := vecLoad (.ldc o) o .core s
def execStc (o : VM) (s : State) : Result := vecStore (.stc o) o .core s
def execLdf (o : VM) (s : State) : Result := vecLoad (.ldf o) o .fleet s
def execStf (o : VM) (s : State) : Result := vecStore (.stf o) o .fleet s
def execLdd (o : VM) (s : State) : Result := vecLoad (.ldd o) o .die s
def execStd (o : VM) (s : State) : Result := vecStore (.std o) o .die s
def execLdg (o : VM) (s : State) : Result := vecLoad (.ldg o) o .global s
def execStg (o : VM) (s : State) : Result := vecStore (.stg o) o .global s

/-! ## Vector atomics (R239, R240) -/

/-- A vector atomic of w bytes at vt: op gives each lane's operation; it returns the old value unless returns is false. -/
def vecAtomic (i : Instr) (s : State) (sp : Space) (vt : BitVec 6) (so : Src) (sbase : BitVec 6) (spol : BitVec 2) (w : Nat)
    (returns : Bool) (op : Team → Nat → SqOp) : Result :=
  vecAccess i s .atomic sp .atomic so sbase spol.toNat w w (if returns then some vt else none) fun s t pol acc =>
    s.enterAtomics t pol acc (op t) returns fun a => if returns then .vec vt.toNat a.lane w s.nextId (s.laneCount t) else .lane a.lane (s.laneCount t)

def vtq (t : Team) (vt : BitVec 6) (L : Nat) : QWord := (t.vreg vt.toNat L).setWidth 64

def execAtomg (o : VA) (s : State) : Result :=
  vecAtomic (.atomg o) s .global o.vt o.so o.sbase o.spol 4 true fun t L => .rmw o.aop (vtq t o.vt L)

def execAtomgn (o : VA) (s : State) : Result :=
  vecAtomic (.atomgn o) s .global o.vt o.so o.sbase o.spol 4 false fun t L => .rmw o.aop (vtq t o.vt L)

def execAtomc (o : VA) (s : State) : Result :=
  vecAtomic (.atomc o) s .core o.vt o.so o.sbase o.spol 4 true fun t L => .rmw o.aop (vtq t o.vt L)

/-- FADDG takes its rounding mode along (R239). -/
def execFaddg (o : VF) (s : State) : Result :=
  vecAtomic (.faddg o) s .global o.vt o.so o.sbase o.spol 4 true fun t L => .fadd o.f (t.vreg o.vt.toNat L) (t.rmode % 8)

def execXchg (o : VW) (s : State) : Result :=
  match o.wide with
  | .w32 => vecAtomic (.xchg o) s .global o.vt o.so o.sbase o.spol 4 true fun t L => .swap (vtq t o.vt L)
  | .w64 => vecAtomic (.xchg o) s .global o.vt o.so o.sbase o.spol 8 true fun t L => .swap (t.vpair o.vt.toNat L)

def execCasg (o : VW) (s : State) : Result :=
  match o.wide with
  | .w32 =>
    vecAtomic (.casg o) s .global o.vt o.so o.sbase o.spol 4 true fun t L => .cas (vtq t o.vt L) ((t.vreg (o.vt.toNat + 1) L).setWidth 64)
  | .w64 =>
    vecAtomic (.casg o) s .global o.vt o.so o.sbase o.spol 8 true fun t L =>
      .cas (t.vpair o.vt.toNat L) (t.vpair (o.vt.toNat + 2) L)

/-! ## Uniform accesses (R238) and atomics (R241) -/

/-- One access of the team: policy, check, entry. -/
def uniAccess (s : State) (kind : AccKind) (sp : Space) (need : Need) (base : Team → QWord) (off : Team → Nat)
    (spol size align : Nat) (enter : State → Team → Nat → List LaneAcc → State × Team) : Result :=
  onTeam s fun t =>
    let pol := t.policy spol
    match policyFault kind pol spol with
    | some f => s.fault t f
    | none =>
      let a := s.access t sp need (base t) (off t) size align 2 0
      match a.err with
      | some f => s.fault t f
      | none =>
        let (s1, t1) := enter (s.noteGrans t.vf [a]) t pol [a]
        s1.retire t1

def uniLoad (o : SM) (sp : Space) (s : State) : Result :=
  uniAccess s .load sp .load (·.rs o.sbase) (fun t => (t.rs o.soff).toNat) o.spol.toNat 8 0 fun s t pol acc =>
    s.enterLoads t pol acc fun _ => .uni o.sd.toNat

def uniStore (o : SM) (sp : Space) (s : State) : Result :=
  uniAccess s .store sp .store (·.rs o.sbase) (fun t => (t.rs o.soff).toNat) o.spol.toNat 8 0 fun s t pol acc =>
    s.enterStores t pol acc fun _ => t.rs o.sd

def execSldg (o : SM) (s : State) : Result := uniLoad o .global s
def execSstg (o : SM) (s : State) : Result := uniStore o .global s
def execSldc (o : SM) (s : State) : Result := uniLoad o .core s
def execSstc (o : SM) (s : State) : Result := uniStore o .core s
def execSldf (o : SM) (s : State) : Result := uniLoad o .fleet s
def execSstf (o : SM) (s : State) : Result := uniStore o .fleet s
def execSldd (o : SM) (s : State) : Result := uniLoad o .die s
def execSstd (o : SM) (s : State) : Result := uniStore o .die s

def uniAtomic (sd sbase : BitVec 6) (spol : BitVec 3) (op : Team → SqOp) (s : State) : Result :=
  uniAccess s .atomic .global .atomic (·.rs sbase) (fun _ => 0) spol.toNat 8 8 fun s t pol acc =>
    s.enterAtomics t pol acc (fun _ => op t) true fun _ => .uni sd.toNat

def execSatom (o : SA) (s : State) : Result := uniAtomic o.sd o.sbase o.spol (fun t => .rmw o.aop (t.rs o.sv)) s
def execScas (o : SX3) (s : State) : Result := uniAtomic o.sd o.sbase o.spol (fun t => .scas (t.rs o.sd) (t.rs o.sv)) s
def execSxch (o : SX3) (s : State) : Result := uniAtomic o.sd o.sbase o.spol (fun t => .swap (t.rs o.sv)) s

/-- PFETCH affects timing only (R247). -/
def execPfetch (_o : SM) (s : State) : Result := onTeam s fun t => s.retire t

end Sys2Proof.Machine
end

