-- ==== Sys2Proof/Machine/Sync.lean ====
section
/-! DEFINITION. Counters, fences, code, memory waits, hints, hardware barriers, transfer barriers and completion tokens (13
R242 to R254). -/

namespace Sys2Proof.Machine

/-! ## Bounded counters (R242, R243): an operation enters the store queue and goes to Sorrel from there -/

/-- An amount or value at or above 2^63 faults COUNTER 1. acqrel tells BCREAD and BCSET (R243). -/
def ctrOp (s : State) (sbase : BitVec 6) (spol : Nat) (n : Team → Nat) (acqrel : Bool) (dest : Dest) (op : Nat → CtrOp) : Result :=
  onTeam s fun t =>
    let pol := t.policy spol
    match policyFault .atomic pol spol with
    | some f => s.fault t f
    | none =>
      let a := s.access t .global .counter (t.rs sbase) 0 8 8 2 0
      match a.err with
      | some f => s.fault t f
      | none =>
        if 2 ^ 63 ≤ n t then s.fault t ⟨0x46, 1, a.addr, qn (n t)⟩
        else
          let pol' := if acqrel then 3 * 2 ^ 28 + 4 * 2 ^ 25 else pol
          let (s1, t1) := (s.noteGrans t.vf [a]).enterAtomics t pol' [a]
            (fun _ => .ctr (a.obj * 2 ^ 37 + hOff a.addr / 8) (op (n t))) (dest != .none) fun _ => dest
          s1.retire t1

def execBcdecAll (o : SBcset) (s : State) : Result :=
  ctrOp s o.sbase o.spol.toNat (fun t => (t.rs o.sv).toNat) false (.uni o.sd.toNat) .decAll

def execBcdecPart (o : SBcset) (s : State) : Result :=
  ctrOp s o.sbase o.spol.toNat (fun t => (t.rs o.sv).toNat) false (.uni o.sd.toNat) .decPart

def execBcinc (o : SBcinc) (s : State) : Result :=
  ctrOp s o.sbase o.spol.toNat (fun t => (t.rs o.sv).toNat) false .none .inc

def execBcread (o : SBcread) (s : State) : Result :=
  ctrOp s o.sbase o.spol.toNat (fun _ => 0) true (.uni o.sd.toNat) fun _ => .read

def execBcset (o : SBcset) (s : State) : Result :=
  ctrOp s o.sbase o.spol.toNat (fun t => (t.rs o.sv).toNat) true (.uni o.sd.toNat) .set

/-! ## FENCE and IFENCE -/

/-- FENCE enters the team queue; FENCE_COMPLETE ends it (R244). -/
def execFence (o : SFence) (s : State) : Result :=
  onTeam s fun t =>
    let e : TqEntry := ⟨s.nextId, s.nextId, .fence o.scope, false, .adaptive, [], .none, t.pc, t.pc, s.curWord, 0, false⟩
    s.fresh.retire { t with tq := t.tq ++ [e] }

/-- The offsets of an object that an extent list maps to a physical address. -/
def offsetsOf (a : Nat) : List QWord → Nat → List Nat
  | [], _ => []
  | e :: r, g =>
    let st := fld e 25 0
    let n := fld e 63 40
    (if st ≤ a / 65536 ∧ a / 65536 < st + n then [(g + a / 65536 - st) * 65536 + a % 65536] else []) ++ offsetsOf a r (g + n)

/-- IFENCE discards the copies of the words of the range; the team's later fetches of them are loads (R245) (DEDUCED, assumption
43). -/
def execIfence (o : SIfence) (s : State) : Result :=
  onTeam s fun t =>
    let h := t.rs o.sa
    match s.desc (coreCluster t.core) (s.asidOf t) h with
    | .error f => s.fault t f
    | .ok d =>
      match s.extFault (coreCluster t.core) (s.asidOf t) h d, s.walkLost (coreCluster t.core) (s.asidOf t) h d with
      | some f, _ => s.fault t f
      | none, lost =>
      if d.kind ≠ 3 then s.fault t ⟨0x41, 4, h, qn d.kind⟩
      else
      match lost with
      | some f => s.fault t f
      | none =>
        let lo := hOff h
        let hi := min (lo + (t.rs o.sb).toNat) d.len
        let es := s.extents d
        let s1 := s.modCore t.core fun c =>
          { c with icache := List.filter (fun e => !(offsetsOf e.1 es 0).any fun x => decide (lo < hi) && decide (x < hi) && decide (lo < x + 4)) c.icache }
        s1.retire (if lo < hi then { t with fenced := ((hObj h, lo, hi) :: t.fenced).eraseDups } else t)

/-! ## REPL (R248) -/

/-- Granules g0 to g0 + n - 1 of an object, physical. -/
def granRange (es : List QWord) (g0 n : Nat) : List Nat := (List.range n).filterMap fun i => granOf es (g0 + i)

def execRepl (o : SRepl) (s : State) : Result :=
  onTeam s fun t =>
    let h := t.rs o.sa
    let n := (t.rs o.sb).toNat
    match s.checkGlobal (coreCluster t.core) (s.asidOf t) .load h 0 (min n 1) 0 0 with
    | .error f => s.fault t f
    | .ok d =>
      let hi := min (hOff h + n) d.len
      let g0 := hOff h / 65536
      let cnt := if hi ≤ hOff h then 0 else (hi - 1) / 65536 + 1 - g0
      let gs := granRange (s.extents d) g0 cnt
      let at_ (i : Nat) : QWord := mkHandle (hObj h) (max (hOff h) ((g0 + i) * 65536))
      match (List.range cnt).find? (fun i => !s.ownsGran t.vf ((granOf (s.extents d) (g0 + i)).getD 0)),
          (List.range (max cnt 1)).findSome? (fun i => s.walkLost (coreCluster t.core) (s.asidOf t) (at_ i) d) with
      | some i, _ => s.fault t ⟨0x45, 1, at_ i, qn ((granOf (s.extents d) (g0 + i)).getD 0)⟩
      | none, some f => s.fault t f
      | none, none =>
        if d.repl ≠ 0 then s.retire t
        else
          let p := ((s.part? t.vf).map fun p => p.dies.length).getD 1
          let one (s : State) (g : Nat) : State :=
            match o.mode with
            | .adaptive => s.modGran g fun x => { x with rm := 0, wr := 0 }
            | .never => (s.modGran g fun x => { x with degree := 0 }).collapseWhere fun _ line _ => line / 512 == g
            | .eager => s.modGran g fun x => { x with degree := p - 1 }
          (gs.foldl one s).retire t

/-! ## WAITV (R246) -/

/-- One test of a WAITV: a load of the word from the sources of R87; none while the load may not be satisfied yet. -/
def State.waitvLoad (s : State) (t : Team) (h : QWord) (w32 : Bool) (pol : QWord) (grant : Bool) :
    Option (Except FInfo (QWord × State × Team)) :=
  let n := if w32 then 4 else 8
  let a := s.access t .global .load h 0 n n 2 0
  match a.res with
  | .error f => some (.error f)
  | .ok [p] =>
    if t.loadReady s.nextId s.nextId p.loc n && s.mayRead t s.nextId p then
      let (v, obs, home) := s.loadBytes t s.nextId p.loc n
      let s1 := s.noteGrans t.vf [a]
      let s2 := if home then s1.atHome t p.loc p.home (effRepl a.repl (polRepl pol.toNat)) grant false else s1
      some (.ok (qn v, s2.fresh, { t with observed := (t.observed ++ obs).eraseDups }))
    else none
  | .ok _ => none

/-- Test and return, or keep waiting. -/
def State.waitvTest (s : State) (t : Team) (h v : QWord) (w32 : Bool) (c : WCond) (pol : QWord) (sd : BitVec 6) (grant : Bool) :
    State :=
  match s.waitvLoad t h w32 pol grant with
  | none => s.putTeam t
  | some (.error f) => s.fault t f
  | some (.ok (m, s1, t1)) =>
    let ok := if w32 then condW c (lowW m) (lowW v) else condW c m v
    if ok then s1.endWait (t1.ws sd m) else s1.putTeam t1

/-- WAITV tests its word at issue; in a deterministic launch that is the turn's one test (R246). -/
def execWaitv (o : SWaitv) (s : State) : Result :=
  onTeam s fun t =>
    let pol := t.policy o.spol.toNat
    match policyFault .load pol o.spol.toNat with
    | some f => s.fault t f
    | none =>
      let h := t.rs o.sbase
      match s.waitvLoad t h o.w32 (qn pol) true with
      | some (.error f) => s.fault t f
      | test =>
        let w : Wait := ⟨.memw h (t.rs o.sv) o.w32 o.cond (qn pol) o.sd, s.curWord, s.thyme, s.thyme, 0⟩
        let s1 := s.waitvTest { t with wait := some w } h (t.rs o.sv) o.w32 o.cond (qn pol) o.sd true
        if s.isDet t ∧ test.isSome ∧ ((s1.team? t.tk).bind Team.wait).isSome then s1.endTurn t.tk else s1

/-! ## Barriers (R249 to R252) -/

def barIndex : Bar → Nat
  | .cb n => n.toNat | .fb n => n.toNat | .lb n => n.toNat

/-- The barrier a team names, or SYNC 1 or 2. -/
def State.barKey (s : State) (t : Team) (b : Bar) : Except FInfo BarKey :=
  match s.launch? t.launch with
  | none => .error ⟨0x09, 1, 0, qn (barIndex b)⟩
  | some l =>
    match b with
    | .cb n => if t.forked ∨ !l.bound ∨ l.cbars ≤ n.toNat then .error ⟨0x09, 1, 0, qn n.toNat⟩ else .ok (.cb t.crewKey n.toNat)
    | .fb n => if t.forked ∨ !l.bound ∨ l.fbars ≤ n.toNat then .error ⟨0x09, 1, 0, qn n.toNat⟩ else .ok (.fb t.fleetKey n.toNat)
    | .lb n => if t.forked ∨ !l.cor then .error ⟨0x09, 2, 0, qn n.toNat⟩ else .ok (.lb t.launch n.toNat)

/-- The transfer barrier a team names, or SYNC 3. -/
def State.tbKey (s : State) (t : Team) (n : Nat) : Except FInfo BarKey :=
  if t.forked ∨ ((s.launch? t.launch).map Launch.tbars).getD 0 ≤ n then .error ⟨0x09, 3, 0, qn n⟩ else .ok (.tb t.crewKey n)

/-- An arrival enters the store queue as a release at the barrier's scope (R101, R251). -/
def State.enterArrival (s : State) (t : Team) (k : BarKey) (dest : Dest) : State × Team :=
  let e : SqEntry := ⟨s.nextId, s.nextId, .core, 0, 0, 0, .arrive k, false, some k.scope, false, dest, t.pc, t.pc, s.curWord, 0⟩
  (s.fresh, { t with sq := t.sq ++ [e] })

/-- The value a returning barrier wait gives: PH for BARW and TBWAIT with the mark of R346, the phase itself for BARAW. -/
def State.barTest (s : State) (k : BarKey) (q : Nat) (own : Bool) : Option QWord :=
  match s.barrier? k with
  | none => none
  | some b =>
    if b.complete q then
      let mark := match k with | .tb .. => b.marks.contains (q % 65536) | _ => false
      some (qn ((if own then q else b.ph) + if mark then 2 ^ 63 else 0))
    else none

/-- Wait for phase q: return at once when it is complete. -/
def State.waitPhase (s : State) (t : Team) (k : BarKey) (q : Nat) (on : WaitOn) (sd : BitVec 6) : State :=
  match s.barTest k q false with
  | some v => s.retire (t.ws sd v)
  | none => s.startWait t on

def execBara (o : SBar) (s : State) : Result :=
  onTeam s fun t =>
    match s.barKey t o.bar with
    | .error f => s.fault t f
    | .ok k => let (s1, t1) := s.enterArrival t k (.uni o.sd.toNat); s1.retire t1

def execBarw (o : SBarw) (s : State) : Result :=
  onTeam s fun t =>
    match s.barKey t o.bar with
    | .error f => s.fault t f
    | .ok k =>
      let q := (t.rs o.sa).toNat % 65536
      s.waitPhase t k q (.bar k (some q) o.sd false) o.sd

/-- BARAW waits from its issue; its phase is known when its own arrival is counted. -/
def execBaraw (o : SBar) (s : State) : Result :=
  onTeam s fun t =>
    match s.barKey t o.bar with
    | .error f => s.fault t f
    | .ok k => let (s1, t1) := s.enterArrival t k .none; s1.startWait t1 (.bar k none o.sd true)

/-- TBINIT sets EXP and completes a phase already reached (R252). -/
def execTbinit (o : STbinit) (s : State) : Result :=
  onTeam s fun t =>
    match s.tbKey t o.tb.toNat with
    | .error f => s.fault t f
    | .ok k => (s.modBarrier k fun b => { b with exp := min (t.rs o.sa).toNat 1048575 }.settle).retire t

def execTbarr (o : STbarr) (s : State) : Result :=
  onTeam s fun t =>
    match s.tbKey t o.tb.toNat with
    | .error f => s.fault t f
    | .ok k => let (s1, t1) := s.enterArrival t k (.uni o.sd.toNat); s1.retire t1

def execTbwait (o : STbwait) (s : State) : Result :=
  onTeam s fun t =>
    match s.tbKey t o.tb.toNat with
    | .error f => s.fault t f
    | .ok k =>
      let q := (t.rs o.sa).toNat % 65536
      s.waitPhase t k q (.tb k q o.sd) o.sd

/-! ## WAITT (R253, R346) -/

def Team.token (t : Team) (k : Nat) : CToken := Tbl.getD t.ct k ⟨0, false⟩

/-- The value WAITT returns, when it returns. -/
def Team.tokTest (t : Team) (mask : BitVec 8) (any : Bool) : Option QWord :=
  let named := (List.range 8).filter fun k => mask.getLsbD k
  let idle := named.filter fun k => (t.token k).busy == 0
  if named.isEmpty || (if any then !idle.isEmpty else idle.length == named.length) then
    some (qn (natOfBits (fun k => idle.contains k) 8 + if idle.any fun k => (t.token k).failed then 2 ^ 63 else 0))
  else none

def execWaitt (o : SWaitt) (s : State) : Result :=
  onTeam s fun t =>
    match t.tokTest o.mask o.any with
    | some v => s.retire (t.ws o.sd v)
    | none => s.startWait t (.tok o.mask o.any o.sd)

end Sys2Proof.Machine
end

