-- ==== Sys2Proof/Machine/Engines.lean ====
section
/-! DEFINITION. Engine commands at issue: CPY and CPYT (14 R256 to R260), MSCL, MLOOP, MLD, MST, MZERO (14 R261 to R266), with
their checks (22 Table 22.2 ENGINE; 23 Table 23.1 COPY, BOUNDS 6, KIND 3, ALIGN 3; R342). -/

namespace Sys2Proof.Machine

/-! ## Tokens -/

/-- A command names a token: it is busy, and its failure mark clears where it was idle (R253, R346). -/
def Team.busyTok (t : Team) (k : Nat) : Team :=
  let c := t.token k
  { t with ct := Tbl.set t.ct k ⟨c.busy + 1, if c.busy = 0 then false else c.failed⟩ }

/-- A command of a token completes; failed marks a dropped one. -/
def Team.doneTok (t : Team) (k : Nat) (failed : Bool) : Team :=
  let c := t.token k
  { t with ct := Tbl.set t.ct k ⟨c.busy - 1, failed⟩ }

/-- The producer team of a bound crew (R256). -/
def State.isProducer (s : State) (t : Team) : Bool :=
  match s.launch? t.launch with
  | none => false
  | some l => !t.forked && l.bound && l.prod && t.teamid == l.prodt

def State.mayMatrix (s : State) (t : Team) : Bool :=
  !t.forked && ((s.launch? t.launch).map Launch.bound).getD false

def State.cspkBytes (s : State) (t : Team) : Nat := ((s.launch? t.launch).map Launch.cspk).getD 0 * 1024

/-! ## Ends of copies (R258) -/

def copySpace : Nat → Option Space
  | 0 => some .global | 1 => some .core | 2 => some .fleet | 3 => some .die | 4 => some .lane | _ => none

/-- The offset of a non-global end in its space, its lane, and its limit. -/
def endOffset (sp : Space) (reg : QWord) : Nat := if sp = .lane then fld reg 15 0 else reg.toNat % sp.modulus
def endLane (reg : QWord) : Nat := fld reg 25 16

/-- The issue-time checks of one end of n bytes (R258, R342): none where it passes. -/
def State.endFault (s : State) (t : Team) (sp : Space) (reg : QWord) (n : Nat) (need : Need) : Option FInfo :=
  match sp with
  | .global =>
    if n = 0 then none
    else
      let chk (x : Nat) : Option FInfo :=
        match s.checkGlobal (coreCluster t.core) (s.asidOf t) need reg x 1 0 0 with
        | .error f => some f
        | .ok _ => none
      match lowestFault ([chk 0, chk (n - 1)].filterMap id) with
      | some f => some f
      | none => none
  | _ =>
    let l := s.launch? t.launch
    let off := endOffset sp reg
    let lim := match sp with
      | .lane => 0xF000
      | .core => (l.map Launch.cspk).getD 0 * 1024
      | .fleet => (l.map Launch.fwink).getD 0 * 1024
      | _ => (l.map Launch.dspkKiB).getD 0 * 1024
    let w := if sp = .fleet then off % 2 ^ 19 else off
    if sp = .lane ∧ t.lanes ≤ endLane reg then some ⟨0x43, 3, qn off, qn lim⟩
    else if sp = .fleet ∧ ((l.map Launch.ncrews).getD 0 ≤ off / 2 ^ 19 ∨ n ≠ 0 ∧ lim < w + n) then some ⟨0x43, 4, qn off, qn lim⟩
    else if n ≠ 0 ∧ lim < w + n then some ⟨0x43, 6, reg, qn lim⟩
    else none

/-- Whether an end is a remote object. -/
def State.endRemote (s : State) (t : Team) (e : CopyEnd) : Bool :=
  e.space == 0 && (match s.desc (coreCluster t.core) (s.asidOf t) e.reg with | .ok d => d.kind == 4 | .error _ => false)

/-- Put a copy on the core's queue; geo is the descriptor of a window's tensor. -/
def State.enterCopy (s : State) (t : Team) (ct : Nat) (src dst : CopyEnd) (len : Nat) (win : Option Window) (geo : Desc) (arr : Option Nat) :
    State :=
  let c : Copy := {
    id := s.nextId, tk := t.tk, ct := ct, src := src, dst := dst, len := len, win := win, rmode := t.rmode, geo := geo, chunk := 0
    part := 0, reads := [], puts := [], buf := [], writes := [], seen := [], remote := 0, arr := arr, held := false, fail := false
    away := s.endRemote t dst, crew := t.crewKey, prio := t.prio, last := s.cycle, starve := false, pc := t.pc, word := s.curWord }
  let s1 := s.fresh.modCore t.core fun k => { k with copies := k.copies ++ [c] }
  s1.retire (t.busyTok ct)

def execCpy (o : SE) (s : State) : Result :=
  onTeam s fun t =>
    match policyFaultCopy (t.policy o.spol.toNat) o.spol.toNat with
    | some f => s.fault t f
    | none =>
      if !s.isProducer t then s.fault t ⟨0x0A, 1, 0, 0⟩
      else
        let c := t.rs o.rc
        let n := fld c 39 0
        let tb := fld c 51 46
        let arr := fld c 52 52 == 1
        let tbars := ((s.launch? t.launch).map Launch.tbars).getD 0
        let side (code : Nat) (reg : QWord) (need : Need) : Option FInfo :=
          match copySpace code with
          | none => some ⟨0x47, 1, c, qn code⟩
          | some sp => s.endFault t sp reg n need
        let faults := [side (fld c 45 43) (t.rs o.rb) .copyRead, side (fld c 42 40) (t.rs o.ra) .copyWrite,
          (if arr && decide (tbars ≤ tb) then some ⟨0x47, 2, c, qn tb⟩ else none),
          (if fld c 63 53 ≠ 0 then some ⟨0x47, 4, c, 0⟩ else none)].filterMap id
        match lowestFault faults with
        | some f => s.fault t f
        | none =>
          s.enterCopy t o.ct.toNat ⟨fld c 45 43, t.rs o.rb⟩ ⟨fld c 42 40, t.rs o.ra⟩ n none [] (if arr then some tb else none)

/-! ## CPYT (R259, R260) -/

/-- Bits of an element of a TFMT code (Table 5.3). -/
def tfBits (f : Nat) : Nat := [32, 16, 16, 8, 8, 4, 8, 8, 4, 8, 4, 32].getD f 8

def tfFloat : Nat → Option FFmt
  | 0 => some fp32 | 1 => some fp16 | 2 => some bf16 | 3 => some e4m3 | 4 => some e5m2 | 5 => some e2m1 | _ => none

def tfInt : Nat → Option IFmt
  | 7 => some i8 | 8 => some i4 | 9 => some n8 | 10 => some n4 | 11 => some i32 | _ => none

/-- Geometry of a tensor descriptor (R69). -/
def Desc.dim (d : Desc) (k : Nat) : Nat :=
  let n := match k with | 0 => fld (d.q 2) 23 0 | 1 => fld (d.q 2) 47 24 | 2 => fld (d.q 3) 23 0 | _ => fld (d.q 3) 47 24
  if k ≤ fld (d.q 2) 59 58 then n + 1 else 1
def Desc.stride (d : Desc) (k : Nat) : Nat := fld (d.q (3 + k)) 39 0

/-- Byte offset of an element, and of its scale from SBASE. -/
def Desc.elemOff (d : Desc) (i0 i1 i2 i3 : Nat) : Nat :=
  i0 * tfBits d.tfmt / 8 + i1 * d.stride 1 + i2 * d.stride 2 + i3 * d.stride 3
def Desc.scaleOff (d : Desc) (i0 i1 i2 i3 : Nat) : Nat :=
  i0 / 32 + (d.dim 0 + 31) / 32 * (i1 + d.dim 1 * (i2 + d.dim 2 * i3))

/-- The window's registers (Table 14.3). -/
def windowOf (r0 r1 r2 r3 : QWord) : Window :=
  ⟨fld r0 23 0, fld r0 47 24, fld r1 23 0, fld r1 47 24, fld r2 15 0 + 1, fld r2 31 16 + 1, fld r2 63 32, fld r3 7 7 == 1, fld r3 3 0⟩

def Window.fmt (w : Window) (tf : Nat) : Nat := if w.dfmt = 15 then tf else w.dfmt

/-- Bytes of one row of the destination, and of the whole span. -/
def Window.rowBytes (w : Window) (tf : Nat) : Nat := (w.w0 * tfBits (w.fmt tf) + 7) / 8
def Window.span (w : Window) (tf : Nat) : Nat := (w.w1 - 1) * w.pitch + w.rowBytes tf

/-- Whether the window breaks R260 against a source format (COPY 3). -/
def Window.bad (w : Window) (tf : Nat) : Bool :=
  let df := w.fmt tf
  ((tf == 6 || df == 6) && df != tf) || (w.dq && decide (7 ≤ df)) || (tfBits df == 4 && w.w0 % 2 == 1)
    || (decide (2 ≤ w.w1) && decide (w.pitch < w.rowBytes tf))

/-- CPYT at issue: every check of R342 that its operands allow. DFMT 12 to 14 names no width, so of its destination the first byte alone
is checked (DESIGN CHOICE, assumption 68); whether the window lies in the tensor or not, its objects are checked (R342). -/
def execCpyt (o : SE) (s : State) : Result :=
  onTeam s fun t =>
    match policyFaultCopy (t.policy o.spol.toNat) o.spol.toNat with
    | some f => s.fault t f
    | none =>
      if !s.isProducer t then s.fault t ⟨0x0A, 1, 0, 0⟩
      else
        let r (k : Nat) : QWord := t.sreg (o.rc.toNat + k)
        let ra := t.rs o.ra
        let rb := t.rs o.rb
        let w := windowOf (r 0) (r 1) (r 2) (r 3)
        let dsp := fld (r 3) 6 4
        let tb := fld (r 3) 13 8
        let arr := fld (r 3) 14 14 == 1
        let tbars := ((s.launch? t.launch).map Launch.tbars).getD 0
        let cl := coreCluster t.core
        let asid := s.asidOf t
        let fmtBad : Option FInfo := if 12 ≤ w.dfmt ∧ w.dfmt ≤ 14 then some ⟨0x47, 3, ra, r 3⟩ else none
        let plain := [(if dsp < 5 then none else some ⟨0x47, 1, r 0, qn dsp⟩),
          (if arr && decide (tbars ≤ tb) then some ⟨0x47, 2, r 0, qn tb⟩ else none),
          (if fld (r 0) 63 48 ≠ 0 ∨ fld (r 1) 63 48 ≠ 0 ∨ fld (r 3) 63 15 ≠ 0 then some ⟨0x47, 4, r 0, 0⟩ else none), fmtBad]
        let byte (base : QWord) (x : Nat) : Option FInfo :=
          match s.checkGlobal cl asid .copyRead base x 1 0 0 with | .error f => some f | .ok _ => none
        let deep : List (Option FInfo) :=
          match s.desc cl asid rb with
          | .error f => [some { f with addr := rb }]
          | .ok d =>
            if d.kind = 2 then [s.extFault cl asid rb d, some ⟨0x41, 1, rb, qn d.kind⟩]
            else if d.kind ≠ 1 then [s.extFault cl asid rb d, some ⟨0x41, 3, rb, qn d.kind⟩]
            else
              let hi0 := min (w.i0 + w.w0 - 1) (d.dim 0 - 1)
              let hi1 := min (w.i1 + w.w1 - 1) (d.dim 1 - 1)
              let inside := decide (w.i0 ≤ hi0) && decide (w.i1 ≤ hi1) && decide (w.i2 < d.dim 2) && decide (w.i3 < d.dim 3)
              let scaledOk := d.smode == 1 && decide (3 ≤ d.tfmt) && decide (d.tfmt ≤ 5)
              let src := mkHandle (hObj rb) 0
              [ s.extFault cl asid rb d, d.admits .copyRead rb,
                (if w.dq && !scaledOk then some ⟨0x41, 3, rb, qn d.kind⟩ else none),
                (if fmtBad.isNone && w.bad d.tfmt then some ⟨0x47, 3, ra, r 3⟩ else none),
                (match copySpace dsp with
                 | some sp => s.endFault t sp ra (if fmtBad.isSome then 1 else w.span d.tfmt) .copyWrite
                 | none => none) ]
              ++ (if inside then
                    [byte src (d.elemOff w.i0 w.i1 w.i2 w.i3),
                     byte src (d.elemOff hi0 hi1 w.i2 w.i3 + (tfBits d.tfmt - 1) / 8)] else [])
              ++ (if w.dq && scaledOk then
                    (match s.desc cl asid d.sbase with
                     | .error f => [some f]
                     | .ok sd =>
                       s.extFault cl asid d.sbase sd ::
                         (if sd.kind ≠ 1 then [some ⟨0x41, 3, d.sbase, qn sd.kind⟩]
                          else
                            sd.admits .copyRead d.sbase ::
                              (if inside then
                                [byte d.sbase (d.scaleOff w.i0 w.i1 w.i2 w.i3), byte d.sbase (d.scaleOff hi0 hi1 w.i2 w.i3)] else [])))
                  else [])
        match lowestFault ((plain ++ deep).filterMap id) with
        | some f => s.fault t f
        | none =>
          let geo := match s.desc cl asid rb with | .ok d => d | .error _ => []
          s.enterCopy t o.ct.toNat ⟨0, rb⟩ ⟨dsp, ra⟩ 0 (some w) geo (if arr then some tb else none)

/-! ## MSCL (R262) -/

/-- K per step of a format pair (Table 14.5). -/
def kPerStep (a b : Nat) : Option Nat :=
  let fp8 (x : Nat) : Bool := x == 3 || x == 4
  let b8 (x : Nat) : Bool := x == 7 || x == 9
  let b4 (x : Nat) : Bool := x == 8 || x == 10
  if fp8 a && fp8 b then some 16
  else if a == 5 && b == 5 then some 32
  else if (a == 2 && b == 2) || (a == 1 && b == 1) then some 8
  else if b8 a && b8 b then some 16
  else if b4 a && b4 b then some 32
  else none

def scaleRec (q : QWord) : ScaleRec := ⟨fld q 35 20, fld q 19 0⟩
def scaleBad (q : QWord) : Bool := fld q 63 36 != 0 || fld q 35 20 % 64 != 0 || fld q 19 0 % 64 != 0

def execMscl (o : SMscl) (s : State) : Result :=
  onTeam s fun t =>
    let a := t.rs o.ra
    let b := t.rs o.rb
    let c := t.rs o.rc
    if (kPerStep (fld a 3 0) (fld a 7 4)).isNone ∨ fld a 63 10 ≠ 0 ∨ scaleBad b ∨ scaleBad c then s.fault t ⟨0x0A, 3, a, 0⟩
    else
      s.retire { t with mst := ⟨fld a 3 0, fld a 7 4, fld a 8 8 == 1, fld a 9 9 == 1, scaleRec b, scaleRec c⟩ }

/-- The scale record in use for an operand; ASC and BSC are read only for the scaled formats. -/
def MState.aScale (m : MState) : Option ScaleRec := if m.asc && (tfFloat m.afmt).isSome && tfBits m.afmt != 16 then some m.a else none
def MState.bScale (m : MState) : Option ScaleRec := if m.bsc && (tfFloat m.bfmt).isSome && tfBits m.bfmt != 16 then some m.b else none
def MState.k (m : MState) : Nat := (kPerStep m.afmt m.bfmt).getD 16

/-! ## MLOOP (R263 to R265) -/

/-- The lowest failing step of ENGINE 6, or none: reserved bits, NSTEP and BOFF first. -/
def mloopBad (m : MState) (d : QWord) (lim : Nat) : Option Nat :=
  let ks := fld d 57 50
  let binc := fld d 49 30
  let n := fld d 28 20
  let boff := fld d 19 0
  let k := m.k
  if fld d 63 58 ≠ 0 ∨ fld d 29 29 ≠ 0 ∨ 256 < n ∨ boff % 16 ≠ 0 then some 0
  else if n = 0 then none
  else
    let bs := (List.range n).filter fun i => decide (lim < (boff + i * binc) % 2 ^ 20 + 512)
    let blocks := (List.range ((16 * ks + k * n - 1) / 32 + 1)).filter fun b => decide (16 * ks / 32 ≤ b)
    let sc (r : Option ScaleRec) (span : Nat) : List Nat :=
      match r with
      | none => []
      | some r => (blocks.filter fun b => decide (lim < r.off + b * r.stride + span)).map fun b => (32 * b - 16 * ks) / k
    (bs ++ sc m.aScale 64 ++ sc m.bScale 32).foldl (fun acc x => match acc with | none => some x | some y => some (min x y)) none

/-- Register r of every lane. -/
def Team.row (t : Team) (r : Nat) : List Word := (List.range t.lanes).map fun L => t.vreg r L

/-- Put a command on the matrix engine's queue. -/
def State.enterMat (s : State) (t : Team) (ct : Nat) (op : MatOp) : State :=
  let c : MatCmd := {
    id := s.nextId, tk := t.tk, ct := ct, op := op, step := 0, fail := false, prio := t.prio, last := s.cycle, starve := false
    cols := [], pc := t.pc, word := s.curWord }
  (s.fresh.modCore t.core fun k => { k with mats := k.mats ++ [c] }).retire (t.busyTok ct)

def execMloop (o : SX) (s : State) : Result :=
  onTeamRegs (.mloop o) s fun t =>
    let d := t.rs o.sb
    let n := fld d 28 20
    let m := min 4 (t.lanes / 256)
    let held := (s.slice t.slice).latch
    let mine : List (List Word) := match held with | some l => if l.tk = t.tk then l.steps else [] | none => []
    let isMine := (held.map OpLatch.tk) == some t.tk
    if !s.mayMatrix t then s.fault t ⟨0x0A, 2, 0, 0⟩
    else if t.lanes < 256 then s.fault t ⟨0x0A, 4, 0, qn t.lanes⟩
    else if mine.length < n ∧ t.regs ≤ o.va.toNat + (n - 1) / m then s.fault t ⟨0x0A, 5, 0, qn o.va.toNat⟩
    else
      match mloopBad t.mst d (s.cspkBytes t) with
      | some st => s.fault t ⟨0x0A, 6, d, qn st⟩
      | none =>
        let rows := (List.range n).map fun i => if i < mine.length then mine.getD i [] else t.row (o.va.toNat + i / m)
        let s1 := s.modSlice t.slice fun x =>
          if isMine && !o.reuse then { x with latch := none }
          else if held.isNone && o.reuse && decide (n ≤ 64) then { x with latch := some ⟨t.tk, rows⟩ }
          else x
        if n = 0 then s1.retire ((t.busyTok o.ct.toNat).doneTok o.ct.toNat false)
        else s1.enterMat t o.ct.toNat (.mloop o.mt.toNat (fld d 57 50) (fld d 49 30) n (fld d 19 0) rows t.mst)

/-! ## Tile commands (R266) -/

def stWidth : StFmt → Nat
  | .fp32 => 4 | .bf16 => 2 | .fp16 => 2 | .e4m3 => 1 | .e5m2 => 1

def tileCheck (s : State) (t : Team) (ra rb : QWord) (w : Nat) : Option FInfo :=
  if !s.mayMatrix t then some ⟨0x0A, 2, 0, 0⟩
  else if s.cspkBytes t < ra.toNat + 63 * rb.toNat + 32 * w then some ⟨0x43, 6, ra, qn (s.cspkBytes t)⟩
  else if ra.toNat % w ≠ 0 then some ⟨0x44, 3, ra, qn w⟩
  else none

def execMld (o : SMld) (s : State) : Result :=
  onTeam s fun t =>
    match tileCheck s t (t.rs o.ra) (t.rs o.rb) 4 with
    | some f => s.fault t f
    | none => s.enterMat t o.ct.toNat (.mld o.mt.toNat (t.rs o.ra) (t.rs o.rb))

def execMst (o : SMst) (s : State) : Result :=
  onTeam s fun t =>
    match tileCheck s t (t.rs o.ra) (t.rs o.rb) (stWidth o.f) with
    | some f => s.fault t f
    | none => s.enterMat t o.ct.toNat (.mst o.mt.toNat (t.rs o.ra) (t.rs o.rb) o.f t.rmode)

def execMzero (o : SMzero) (s : State) : Result :=
  onTeam s fun t =>
    if !s.mayMatrix t then s.fault t ⟨0x0A, 2, 0, 0⟩ else s.enterMat t o.ct.toNat (.mzero o.mt.toNat)

end Sys2Proof.Machine
end

