-- ==== Sys2Proof/Machine/Place.lean ====
section
/-! DEFINITION. Room and new teams: slices and slots (03 R22, 09 R147), team identifiers (03 R36), lane-private regions and
frame stacks (03 R31, 05 R65, 04 R45), the state of a new team (03 R30, 04 R52). -/

namespace Sys2Proof.Machine

/-- The lowest offset at which n units fit below limit, given the used intervals (base, size) (DESIGN CHOICE, assumption 11). -/
def firstFit (used : List (Nat × Nat)) (limit n : Nat) : Option Nat :=
  let cands := (0 :: used.map fun u => u.1 + u.2).filter fun c =>
    decide (c + n ≤ limit) && used.all fun u => n == 0 || u.2 == 0 || !overlap c n u.1 u.2
  cands.foldl (fun acc c => match acc with | none => some c | some a => some (min a c)) none

/-! ## Slices -/

/-- Teams resident on a slice: those that have not left it and are not saved. -/
def State.residents (s : State) (sl : Nat) : List Team :=
  (s.teams.map (·.2)).filter fun t => t.slice == sl && t.saved.isNone

def Team.bytes (t : Team) : Nat := t.lanes * t.regs * 4

/-- A slice that the partition has: not retired (R366), its core not fused off (R163), its die not lost. -/
def State.sliceThere (s : State) (sl : Nat) : Bool :=
  !s.retired.contains sl && !s.fused.contains (sl / 6) && !(((Tbl.get? s.dies (coreDie (sl / 6))).map Die.lost).getD false)

/-- A slice that may take teams now: its die's rail is on (R363). -/
def State.sliceUsable (s : State) (sl : Nat) : Bool :=
  s.sliceThere sl && !(((Tbl.get? s.dies (coreDie (sl / 6))).map Die.off).getD false)

/-- Room for one more team of this shape beside those already chosen for the slice (R22). -/
def State.sliceFits (s : State) (sl lanes regs extra : Nat) : Bool :=
  let rs := s.residents sl
  s.sliceUsable sl
    && decide (rs.length + extra < 16)
    && decide ((rs.map Team.bytes).sum + (extra + 1) * (lanes * regs * 4) ≤ 524288)

/-- The lowest free slot of a slice (R147). -/
def State.freeSlot (s : State) (sl : Nat) : Nat :=
  ((List.range 16).find? fun k => (s.residents sl).all fun t => t.slot != k).getD 15

/-! ## Identifiers and regions -/

/-- The first identifier from n on that no team bears; 2^24 - 1 is followed by 1 (R36). -/
def nextIdFrom (used : List Nat) : Nat → Nat → Nat
  | 0, n => n
  | k + 1, n => if used.contains n then nextIdFrom used k (if n + 1 = 2 ^ 24 then 1 else n + 1) else n

/-- The counter's value is the next team's (R36). -/
def State.nextTid (s : State) (vf : Nat) : Nat := (s.part? vf).map Part.teamCtr |>.getD 1

/-- The counter after identifier tid is given: values that a team still bears are passed over (R36). -/
def State.tidAfter (s : State) (vf tid : Nat) : Nat :=
  let used := tid :: (s.teams.filter fun e => e.2.vf == vf).map fun e => e.2.tid
  nextIdFrom used (used.length + 1) (if tid + 1 = 2 ^ 24 then 1 else tid + 1)

/-- A free lane-private region of n lanes (R31, R65). -/
def State.freeRegion (s : State) (vf lanes : Nat) : Option Nat :=
  match (s.part? vf).bind Part.lanePool with
  | none => none
  | some (_, size) =>
    firstFit ((s.teams.filter fun e => e.2.vf == vf).map fun e => (e.2.region, e.2.lanes * 65536)) (size / 65536 * 65536) (lanes * 65536)

/-- A free frame stack of n frames: its offset in the pool (R45) (DEDUCED, assumption 10). -/
def State.freeStack (s : State) (vf frames : Nat) : Option QWord :=
  match (s.part? vf).bind Part.framePool with
  | none => none
  | some (h, size) =>
    (firstFit ((s.teams.filter fun e => e.2.vf == vf && e.2.forked).map fun e =>
        (hOff e.2.fsb - hOff h, hOff e.2.fsl - hOff e.2.fsb)) size (frames * 256)).map fun o => mkHandle (hObj h) (hOff h + o)

/-! ## A new team -/

def MState.fresh : MState := ⟨3, 3, false, false, ⟨0, 0⟩, ⟨0, 0⟩⟩

/-- A team just placed or forked: everything that R30 and R52 fix alike. -/
def newTeam (l : Launch) (uid tid slice slot region : Nat) (fsb : QWord) : Team where
  tid := tid
  vf := l.vf
  launch := uid
  forked := false
  origin := none
  parent := 0
  key := []
  children := 0
  teamid := 0
  crewid := 0
  fleetid := 0
  lgx := 0
  lgy := 0
  lgz := 0
  lanes := l.lanes
  regs := l.regs
  v := []
  p := []
  s := [(62, fsb)]
  mask := fullMask l.lanes
  lat := []
  toks := []
  ct := []
  rmode := 0
  prio := l.prio
  level := l.level
  pc := l.entry
  runStart := none
  runClock := 0
  clock := 0
  epc := 0
  ecode := 0
  dbg := false
  trig := false
  mst := MState.fresh
  fsb := fsb
  fsl := mkHandle (hObj fsb) (hOff fsb + 256 * l.fsfr)
  pending := false
  tq := []
  sq := []
  observed := []
  horizon := 0
  owed := []
  ended := false
  saved := none
  park := none
  wait := none
  late := []
  parkReq := false
  replay := []
  fenced := []
  brkSkip := false
  named := none
  slice := slice
  slot := slot
  floor := 0
  forced := false
  region := region
  first := none
  turn := 0
  rlFired := false
  hbAt := 0

/-- Zero a range of memory; lost units in it hold data again. -/
def State.zeroRange (s : State) (lo n : Nat) : State :=
  { s with
    mem := Memory.zero s.mem lo (lo + n)
    lost := s.lost.filter fun u => !(decide (0 < (LostUnit.range u).2) && decide (lo ≤ (LostUnit.range u).1) && decide ((LostUnit.range u).1 < lo + n))
    lostCached := s.lostCached.filter fun l => !(decide (lo ≤ 128 * l) && decide (128 * l < lo + n)) }

/-- The stretches of memory behind a team's region of the lane-private pool: in each lane one, or two where a granule ends within (R65). -/
def State.regionSpans (s : State) (vf region lanes : Nat) : List (Nat × Nat) :=
  let pool := s.lanePool? vf
  let at_ (off : Nat) : Nat := s.laneIn vf off pool
  let n := 65536 - ((pool.map (·.1)).getD 0 + region) % 65536
  (List.range lanes).flatMap fun L =>
    let o := region + 65536 * L
    (at_ o, n) :: if n = 65536 then [] else [(at_ (o + n), 65536 - n)]

/-- A lane-private region reads zero when it is taken (R65). -/
def State.zeroRegion (s : State) (vf region lanes : Nat) : State :=
  let sp := s.regionSpans vf region lanes
  (sp.foldl (fun s r => s.zeroRange r.1 r.2) s).dropReplicas fun _ line _ => sp.any fun r => decide (r.1 ≤ 128 * line) && decide (128 * line < r.1 + r.2)

/-- A cluster takes a dispatch, or a team leaves it: its idle time starts anew, and it is not gated (R145) (DEDUCED, assumption 34). -/
def State.useCluster (s : State) (core : Nat) : State :=
  { s with clusters := Tbl.set s.clusters (coreCluster core) ⟨false, s.thyme, false, 0⟩ }

/-- Count a new team in its partition and its launch (R36, R41). -/
def State.addTeam (s0 : State) (t : Team) : State :=
  let s := s0.useCluster t.core
  let s1 := s.modPart t.vf fun p => { p with teamCtr := s.tidAfter t.vf t.tid }
  ((s1.modLaunch t.launch fun l => { l with counter := l.counter + 1 }).zeroRegion t.vf t.region t.lanes).putTeam t

end Sys2Proof.Machine
end

