-- ==== Sys2Proof/Machine/Plan.lean ====
section
/-! DEFINITION. Room for a fleet and its placement (03 R25, R26, R30, R31; 09 R145, R160), and the room that a gang reserves (21
R315). -/

namespace Sys2Proof.Machine

/-! ## Room for a fleet (R31) -/

structure CrewPlan where
  core   : Nat
  base   : Nat
  slices : List Nat
  deriving Repr

/-- A fleet whose teams have not all left. -/
def State.fleetLive (s : State) (launch fid : Nat) : Bool := ((Tbl.get? s.fleets (fleetKey launch fid)).map fun f => f.left != 0).getD false

/-- Crews that stand on a core, with their launches. A crew's scratchpad and barriers last as long as its fleet, whose other crews
reach them (R24) (DESIGN CHOICE, assumption 53). -/
def State.crewsOn (s : State) (core : Nat) : List (Crew × Launch) :=
  s.crews.filterMap fun e => if e.2.core = core ∧ s.fleetLive e.2.launch e.2.fleet then (s.launch? e.2.launch).map fun l => (e.2, l) else none

/-- Slices for n teams of one shape on a core: the first with room for each. -/
def State.chooseSlices (s : State) (l : Launch) (core : Nat) : Nat → List Nat → Option (List Nat)
  | 0, acc => some acc
  | n + 1, acc =>
    match ((List.range 6).map fun i => 6 * core + i).find? fun sl => s.sliceFits sl l.lanes l.regs (acc.filter (· == sl)).length with
    | some sl => s.chooseSlices l core n (acc ++ [sl])
    | none => none

def State.planCrew (s : State) (l : Launch) (core : Nat) : Option CrewPlan :=
  let on := s.crewsOn core
  if 64 < (on.map fun c => c.2.tbars).sum + l.tbars ∨ 16 < (on.map fun c => c.2.cbars).sum + l.cbars then none
  else
    match firstFit (on.map fun c => (c.1.base, c.2.cspk * 1024)) 1048576 (l.cspk * 1024), s.chooseSlices l core l.nteamsCrew [] with
    | some b, some sls => some ⟨core, b, sls⟩
    | _, _ => none

/-- Quarters of a die that a partition owns, in bytes of die scratchpad (R9). -/
def Part.dieBytes (p : Part) (d : Nat) : Nat := ((List.range 4).filter fun q => p.owns (4 * d + q)).length * 8388608

/-- The die-scratchpad base for a launch on a die: the one it has, or a new one (R31, R65). -/
def State.planDie (s : State) (p : Part) (vf : Nat) (l : Launch) (d : Nat) : Option Nat :=
  if l.dspkKiB = 0 then some 0
  else
    match Tbl.get? l.dspk d with
    | some b => some b
    | none =>
      let used := s.launches.filterMap fun e => if e.2.vf = vf then (Tbl.get? e.2.dspk d).map fun b => (b - vf * 2 ^ 25, e.2.dspkKiB * 1024) else none
      (firstFit used (p.dieBytes d) (l.dspkKiB * 1024)).map fun o => vf * 2 ^ 25 + o

def State.cluster (s : State) (c : Nat) : Cluster := Tbl.getD s.clusters c ⟨false, 0, false, 0⟩

/-- Room in one cluster for the launch's next fleet. -/
def State.planCluster (s : State) (p : Part) (vf : Nat) (l : Launch) (cl : Nat) : Option (List CrewPlan × Nat) :=
  let fb := (s.fleets.filterMap fun e => if e.2.cluster = cl ∧ e.2.left ≠ 0 then (s.launch? e.2.launch).map Launch.fbars else none).sum
  if !p.owns (clusterGran cl) || p.noPlace.getLsbD (clusterGran cl) || decide (8 < fb + l.fbars) then none
  else
    let plans := ((List.range 4).map fun i => 4 * cl + i).filterMap fun c => s.planCrew l c
    match s.planDie p vf l (cl / 12) with
    | some b => if l.ncrews ≤ plans.length then some (plans.take l.ncrews, b) else none
    | none => none

/-- A cluster is gated: one whose gating began in this very cycle loses to a dispatch (R145). -/
def State.isGated (s : State) (c : Nat) : Bool := (s.cluster c).gated && (s.cluster c).gatedAt != s.cycle

/-- The cluster for the next fleet: ungated ones first (R145). -/
def State.planFleet (s : State) (p : Part) (vf : Nat) (l : Launch) : Option (Nat × List CrewPlan × Nat) :=
  let cls := (List.range 96).filter fun c => p.owns (clusterGran c)
  ((cls.filter fun c => !s.isGated c) ++ cls.filter s.isGated).findSome? fun cl =>
    (s.planCluster p vf l cl).map fun x => (cl, x.1, x.2)

/-! ## Placing (R25, R26, R30) -/

/-- The first deterministic round of a placed team of a fleet, where it is known (R160). -/
def Launch.firstRound (l : Launch) (fid : Nat) : Option Nat :=
  if !l.det then none
  else if l.cor || decide (fid < l.wave) then some 1
  else
    match Tbl.get? l.fleets (fid - l.wave) with
    | some (0, r) => some (r + 1)
    | _ => none

/-- Place one team; none when the lane-private pool lacks room. -/
def State.placeTeam (s : State) (uid : Nat) (l : Launch) (fid cid tid slice : Nat) : Option State :=
  match s.freeRegion l.vf l.lanes with
  | none => none
  | some region =>
    let lin := (fid * l.ncrews + cid) * l.nteamsCrew + tid
    let fsb := pcPlus l.fstack (256 * l.fsfr * lin)
    let t0 := newTeam l uid (s.nextTid l.vf) slice (s.freeSlot slice) region fsb
    some (s.addTeam { t0 with
      key := [lin]
      teamid := tid
      crewid := cid
      fleetid := fid
      lgx := fid % l.gx
      lgy := fid / l.gx % l.gy
      lgz := fid / l.gx / l.gy
      s := ((List.range 8).map fun i => (i + 1, l.q' (8 + i))) ++ [(62, fsb)]
      first := l.firstRound fid })

/-- Place the teams of one crew on their slices. -/
def State.placeTeams (s : State) (uid : Nat) (l : Launch) (fid cid : Nat) : Nat → List Nat → Option State
  | _, [] => some s
  | i, sl :: r =>
    match s.placeTeam uid l fid cid i sl with
    | none => none
    | some s1 => s1.placeTeams uid l fid cid (i + 1) r

def freshBarriers (n exp : Nat) : Tbl Barrier := (List.range n).map fun i => (i, Barrier.fresh exp)

def State.placeCrews (s : State) (uid : Nat) (l : Launch) (fid : Nat) : Nat → List CrewPlan → Option State
  | _, [] => some s
  | cid, c :: r =>
    let cr : Crew := ⟨uid, fid, cid, c.core, c.base, freshBarriers l.cbars l.nteamsCrew, freshBarriers l.tbars 0, l.nteamsCrew⟩
    let s1 : State := { (s.zeroRange (coreLoc c.core c.base) (l.cspk * 1024)) with crews := Tbl.set s.crews (crewKey uid fid cid) cr }
    match s1.placeTeams uid l fid cid 0 c.slices with
    | none => none
    | some s2 => s2.placeCrews uid l fid (cid + 1) r

/-- Place the launch's next fleet; none when it has no room. A gated cluster stays gated in wait of its wake. -/
def State.placeFleet (s : State) (uid : Nat) : Option State :=
  match s.launch? uid with
  | none => none
  | some l =>
    match s.part? l.vf with
    | none => none
    | some p =>
      match s.planFleet p l.vf l with
      | none => none
      | some (cl, plans, dbase) =>
        let fid := l.next
        let d := cl / 12
        let n := l.ncrews * l.nteamsCrew
        let newDie := l.dspkKiB != 0 && (Tbl.get? l.dspk d).isNone
        let s0 := if newDie then s.zeroRange (dieLoc d dbase) (l.dspkKiB * 1024) else s
        let s1 := s0.modLaunch uid fun l => { l with
          next := fid + 1
          placedAt := if l.placedAt.isNone then some s.thyme else l.placedAt
          dspk := if newDie then Tbl.set l.dspk d dbase else l.dspk
          fleets := Tbl.set l.fleets fid (n, 0)
          lb := if l.cor && fid == 0 then freshBarriers 4 (l.nfleets * n) else l.lb }
        let s2 : State := { s1 with
          fleets := Tbl.set s1.fleets (fleetKey uid fid) ⟨uid, fid, cl, freshBarriers l.fbars n, n⟩ }
        match s2.placeCrews uid l fid 0 plans with
        | none => none
        | some s3 => some s3

/-- Place every fleet of a launch or none of them. -/
def State.placeAll (s : State) (uid : Nat) : Nat → Option State
  | 0 => some s
  | n + 1 =>
    match s.placeFleet uid with
    | none => none
    | some s1 => s1.placeAll uid n

/-! ## Reserved room (R315) -/

/-- A gang member that has armed and whose launch has not been placed. -/
def State.gangPending (s : State) (g : Gang) : Bool :=
  g.armed && !g.closed && ((s.launch? g.launch).map fun l => !l.placed && !l.cancel && !l.done).getD false

/-- Every armed member's whole launch could be placed, one after another. -/
def State.gangsFit (s : State) : Bool :=
  ((s.gangs.filter fun e => s.gangPending e.2).foldl (fun (acc : Option State) e =>
    acc.bind fun s1 => s1.placeAll e.2.launch (((s1.launch? e.2.launch).map Launch.nfleets).getD 0)) (some s)).isSome

/-- A team or fleet comes to a place, giving s1: the room that armed gang members have reserved stays. -/
def State.keepsGangs (s s1 : State) : Bool := s.gangs.all (fun e => !s.gangPending e.2) || s1.gangsFit || !s.gangsFit

end Sys2Proof.Machine
end

