-- ==== Sys2Proof/Machine/Uniform.lean ====
section
/-! DEFINITION. Uniform arithmetic, handles, reductions, ballots, moves, branches and the token stack (12 R212 to R224). -/

namespace Sys2Proof.Machine

/-- A uniform instruction that writes sd and goes on. -/
def uniOp (s : State) (sd : BitVec 6) (f : Team → QWord) : Result := onTeam s fun t => s.retire (t.ws sd (f t))

def srOp (o : SR) (s : State) (f : QWord → QWord → QWord) : Result := uniOp s o.sd fun t => f (t.rs o.sa) (t.rs o.sb)

def siOp (o : SI) (s : State) (f : QWord → QWord) : Result := uniOp s o.sd fun t => f (t.rs o.sa)

/-- Shifts of 64 bits with any count (R214). -/
def shl64 (a : QWord) (n : Nat) : QWord := if n < 64 then a <<< n else 0
def shr64 (a : QWord) (n : Nat) : QWord := if n < 64 then a >>> n else 0
def sar64 (a : QWord) (n : Nat) : QWord := a.sshiftRight (min n 63)

/-! ## Arithmetic (Table 12.1, R174) -/

def execSadd (o : SR) (s : State) : Result := srOp o s fun a b => a + b
def execSsub (o : SR) (s : State) : Result := srOp o s fun a b => a - b
def execSmul (o : SR) (s : State) : Result := srOp o s fun a b => a * b
def execSmulh (o : SN) (s : State) : Result :=
  uniOp s o.sd fun t =>
    let a := t.rs o.sa
    let b := t.rs o.sb
    if o.n then qn (a.toNat * b.toNat / 2 ^ 64) else wrap64 (a.toInt * b.toInt / 2 ^ 64)
def execSand (o : SR) (s : State) : Result := srOp o s fun a b => a &&& b
def execSor (o : SR) (s : State) : Result := srOp o s fun a b => a ||| b
def execSxor (o : SR) (s : State) : Result := srOp o s fun a b => a ^^^ b
def execSshl (o : SR) (s : State) : Result := srOp o s fun a b => shl64 a b.toNat
def execSshr (o : SR) (s : State) : Result := srOp o s fun a b => shr64 a b.toNat
def execSsar (o : SR) (s : State) : Result := srOp o s fun a b => sar64 a b.toNat
def execSmin (o : SN) (s : State) : Result :=
  uniOp s o.sd fun t => if o.n then umin (t.rs o.sa) (t.rs o.sb) else smin (t.rs o.sa) (t.rs o.sb)
def execSmax (o : SN) (s : State) : Result :=
  uniOp s o.sd fun t => if o.n then umax (t.rs o.sa) (t.rs o.sb) else smax (t.rs o.sa) (t.rs o.sb)
def execScmp (o : SC) (s : State) : Result :=
  uniOp s o.sd fun t => if condI o.cond (t.rs o.sa) (t.rs o.sb) then 1 else 0
def execSpopc (o : SU) (s : State) : Result := uniOp s o.sd fun t => qn (popc (t.rs o.sa))
def execSclz (o : SU) (s : State) : Result := uniOp s o.sd fun t => qn (clz (t.rs o.sa))
def execSmov (o : SU) (s : State) : Result := uniOp s o.sd fun t => t.rs o.sa
def execSaddi (o : SI) (s : State) : Result := siOp o s fun a => a + o.imm.signExtend 64
def execSandi (o : SI) (s : State) : Result := siOp o s fun a => a &&& o.imm.setWidth 64
def execSori (o : SI) (s : State) : Result := siOp o s fun a => a ||| o.imm.setWidth 64
def execSxori (o : SI) (s : State) : Result := siOp o s fun a => a ^^^ o.imm.setWidth 64
def execSshli (o : SI) (s : State) : Result := siOp o s fun a => shl64 a o.imm.toNat
def execSshri (o : SI) (s : State) : Result := siOp o s fun a => shr64 a o.imm.toNat
def execSldi (o : SL) (s : State) : Result := uniOp s o.sd fun _ => o.imm.signExtend 64
def execSldu (o : SL) (s : State) : Result := uniOp s o.sd fun t => t.rs o.sd * 2 ^ 18 + o.imm.setWidth 64

/-- HMAKE, HADDO (R215). -/
def execHmake (o : SR) (s : State) : Result := srOp o s fun a b => mkHandle a.toNat b.toNat
def execHaddo (o : SR) (s : State) : Result := srOp o s fun a b => mkHandle (hObj a) (hOff a + b.toNat)

/-! ## Reductions (R216, R217) and ballots (R218) -/

/-- Active lanes in which a predicate is true, ascending. -/
def Team.chosen (t : Team) (pn : BitVec 3) : List Nat := (lanesOf t.lanes t.mask).filter fun L => t.pred pn.toNat L

/-- A reduction over the contributing lanes' values, read signed or natural. -/
def redOp (i : Instr) (o : SRed) (s : State) (f : List Int → QWord) : Result :=
  onTeamRegs i s fun t =>
    s.retire (t.ws o.sd (f ((t.chosen o.pg).map fun L =>
      let v := t.vreg o.va.toNat L
      if o.n then (v.toNat : Int) else v.toInt)))

def execRedadd (o : SRed) (s : State) : Result := redOp (.redadd o) o s fun vs => wrap64 vs.sum
def execRedmin (o : SRed) (s : State) : Result :=
  redOp (.redmin o) o s fun vs => wrap64 (vs.foldl min (if o.n then 2 ^ 32 - 1 else 2 ^ 31 - 1))
def execRedmax (o : SRed) (s : State) : Result :=
  redOp (.redmax o) o s fun vs => wrap64 (vs.foldl max (if o.n then 0 else -(2 ^ 31)))

/-- REDFADD over the fixed tree. -/
def execRedfadd (o : SRedF) (s : State) : Result :=
  onTeamRegs (.redfadd o) s fun t =>
    s.retire (t.ws o.sd (qn (redfadd (t.rmode % 8) ((List.range t.lanes).map fun L =>
      if t.mask.getLsbD L && t.pred o.pn.toNat L then some (t.vreg o.sa.toNat L).toNat else none))))

def execBallot (o : SRedF) (s : State) : Result :=
  uniOp s o.sd fun t =>
    let w := (t.rs o.sa).toNat % 16
    qn (natOfBits (fun i => decide (64 * w + i < t.lanes) && t.mask.getLsbD (64 * w + i) && t.pred o.pn.toNat (64 * w + i)) 64)

def execAnyl (o : SAny) (s : State) : Result :=
  uniOp s o.sd fun t =>
    let act := lanesOf t.lanes t.mask
    if (if o.all then act.all (t.pred o.pn.toNat) else act.any (t.pred o.pn.toNat)) then 1 else 0

/-! ## Moves between lane and uniform registers (R219) -/

def execVbcs (o : SBcs) (s : State) : Result :=
  onTeamRegs (.vbcs o) s fun t =>
    let v := t.rs o.sa
    s.retire (if o.w then t.setVPair o.vd.toNat fun L => if t.mask.getLsbD L then some v else none
      else t.setV o.vd.toNat fun L => if t.mask.getLsbD L then some (lowW v) else none)

def execVgetl (o : SLane) (s : State) : Result :=
  onTeamRegs (.vgetl o) s fun t =>
    let k := (t.rs o.sb).toNat % t.lanes
    s.retire (t.ws o.d (if o.w then t.vpair o.a.toNat k else (t.vreg o.a.toNat k).setWidth 64))

def execVsetl (o : SLane) (s : State) : Result :=
  onTeamRegs (.vsetl o) s fun t =>
    let k := (t.rs o.sb).toNat % t.lanes
    let v := t.rs o.a
    s.retire (if o.w then t.setVPair o.d.toNat fun L => if L = k ∧ t.mask.getLsbD k then some v else none
      else t.setV o.d.toNat fun L => if L = k ∧ t.mask.getLsbD k then some (lowW v) else none)

/-! ## Branches (R220) -/

/-- A register target must be a multiple of 4 (OPERAND 4); the fetch checks the rest. -/
def regTarget (s : State) (t : Team) (h : QWord) (f : Team → Team) : State :=
  if hOff h % 4 ≠ 0 then s.fault t ⟨0x05, 4, h, 0⟩ else s.retireAt (f t) h

def execBra (o : SJ) (s : State) : Result := onTeam s fun t => s.retireAt t (t.target o.disp)
def execBz (o : SB) (s : State) : Result :=
  onTeam s fun t => s.retireAt t (if t.rs o.sa = 0 then t.target o.disp else t.nextPc)
def execBnz (o : SB) (s : State) : Result :=
  onTeam s fun t => s.retireAt t (if t.rs o.sa ≠ 0 then t.target o.disp else t.nextPc)
def execCall (o : SJ) (s : State) : Result := onTeam s fun t => s.retireAt (t.setS 63 t.nextPc) (t.target o.disp)
def execRet (o : S1) (s : State) : Result := onTeam s fun t => regTarget s t (t.rs o.sa) id
def execJmpi (o : SU) (s : State) : Result := onTeam s fun t => regTarget s t (t.rs o.sa) fun t => t.ws o.sd t.nextPc

/-! ## The token stack (R221 to R223) -/

/-- Where the record of the token at depth d stands in lane L, given the lane-private pool. -/
def State.spillLoc (s : State) (t : Team) (pool : Option (Nat × List QWord)) (d L : Nat) : Nat :=
  s.laneIn t.vf (t.region + 65536 * L + 0xF000 + 32 * (d - 33)) pool

def TokKind.code : TokKind → Nat
  | .reconv => 0 | .diverg => 1 | .loop => 2

/-- Table 12.2. -/
def spillBytes (x : Token) (L : Nat) : List Byte :=
  leBytes 8 x.a.toNat ++ leBytes 8 0
    ++ leBytes 8 (x.kind.code * 2 ^ 62 + (if x.kind = .loop ∧ x.mb.getLsbD L then 2 else 0) + (if x.ma.getLsbD L then 1 else 0))
    ++ leBytes 8 0

/-- Write the records of the spilled tokens of a team. -/
def State.spill (s : State) (t : Team) : State :=
  if t.toks.length ≤ 32 then s
  else
    let pool := s.lanePool? t.vf
    let deep := ((List.range t.toks.length).zip t.toks.reverse).filter fun e => decide (32 ≤ e.1)
    { s with mem := deep.foldl (fun m e =>
        (List.range t.lanes).foldl (fun m L => Memory.write m (s.spillLoc t pool (e.1 + 1) L) (spillBytes e.2 L)) m) s.mem }

/-- A lost line under the record of depth d: the lane's handle-less offset and its location. -/
def State.spillLost (s : State) (t : Team) (d : Nat) (write : Bool) : Option FInfo :=
  if d ≤ 32 ∨ s.lost.isEmpty then none
  else
    let pool := s.lanePool? t.vf
    (((List.range t.lanes).map fun L => s.spillLoc t pool d L).find? fun a => s.isLost a 32).map fun a =>
      ⟨0x48, if write then 8 else s.dataDetail a, qn (0xF000 + 32 * (d - 33)), qn a⟩

def Team.depth (t : Team) : Nat := t.toks.length

/-- Push a token and go on; TOKENS 1 at depth 160. -/
def pushTok (s : State) (t : Team) (x : Token) (f : Team → Team) (pc : QWord) : State :=
  if 160 ≤ t.depth then s.fault t ⟨0x07, 1, 0, qn t.depth⟩
  else
    match s.spillLost t (t.depth + 1) true with
    | some e => s.fault t e
    | none =>
      let t1 := f { t with toks := x :: t.toks }
      (s.spill t1).retireAt t1 pc

def execRpush (o : SJ) (s : State) : Result :=
  onTeam s fun t => pushTok s t ⟨.reconv, t.target o.disp, t.mask, 0⟩ id t.nextPc

def execLpush (o : SJ) (s : State) : Result :=
  onTeam s fun t => pushTok s t ⟨.loop, t.target o.disp, 0, 0⟩ id t.nextPc

/-- The active lanes in which pn is true, as a mask. -/
def Team.taken (t : Team) (pn : BitVec 3) : Mask := maskOf t.lanes fun L => t.mask.getLsbD L && t.pred pn.toNat L

def execBrv (o : SPB) (s : State) : Result :=
  onTeam s fun t =>
    let T := t.taken o.pn
    let F := t.mask &&& ~~~T
    if T = 0 then s.retire t
    else if F = 0 then s.retireAt t (t.target o.disp)
    else pushTok s t ⟨.diverg, t.target o.disp, T, 0⟩ (fun u => { u with mask := F }) t.nextPc

def execRjoin (s : State) : Result :=
  onTeam s fun t =>
    match t.toks with
    | [] => s.fault t ⟨0x07, 2, 0, 0⟩
    | x :: r =>
      if x.kind = .loop then s.fault t ⟨0x07, 3, 0, qn t.depth⟩
      else
        match s.spillLost t t.depth false with
        | some e => s.fault t e
        | none => s.retireAt { t with toks := r, mask := x.ma } x.a

/-- Strike lanes from the tokens above the newest loop token, and change that token. -/
def strike (k : Mask) (f : Token → Token) : List Token → Option (List Token)
  | [] => none
  | x :: r => if x.kind = .loop then some (f x :: r) else (strike k f r).map ({ x with ma := x.ma &&& ~~~k } :: ·)

/-- BRK and CONT: the lanes leave the mask. -/
def breakOp (s : State) (pn : BitVec 3) (f : Mask → Token → Token) : Result :=
  onTeam s fun t =>
    let K := t.taken pn
    match strike K (f K) t.toks with
    | none => s.fault t ⟨0x07, 4, 0, qn t.depth⟩
    | some ts =>
      match s.spillLost t t.depth false with
      | some e => s.fault t e
      | none =>
        let t1 := { t with toks := ts, mask := t.mask &&& ~~~K }
        (s.spill t1).retire t1

def execBrk (o : SP) (s : State) : Result := breakOp s o.pn fun K x => { x with ma := x.ma ||| K }
def execCont (o : SP) (s : State) : Result := breakOp s o.pn fun K x => { x with mb := x.mb ||| K }

def execBloop (o : SPB) (s : State) : Result :=
  onTeam s fun t =>
    match t.toks with
    | [] => s.fault t ⟨0x07, 5, 0, 0⟩
    | x :: r =>
      if x.kind ≠ .loop then s.fault t ⟨0x07, 5, 0, qn t.depth⟩
      else
        match s.spillLost t t.depth false with
        | some e => s.fault t e
        | none =>
          let P := t.taken o.pn
          let Lp := P ||| x.mb
          let x1 : Token := { x with ma := x.ma ||| (t.mask &&& ~~~P), mb := 0 }
          if Lp ≠ 0 then
            let t1 := { t with toks := x1 :: r, mask := Lp }
            (s.spill t1).retireAt t1 (t.target o.disp)
          else s.retireAt { t with toks := r, mask := x1.ma } x.a

/-- YIELD moves the slice's pointer past the team (R224); NOP does nothing. -/
def execYield (s : State) : Result :=
  onTeam s fun t =>
    (s.modSlice t.slice fun x => { x with ptr := (t.slot + 1) % 16, yield := some t.tk }).retire t

def execNop (s : State) : Result := onTeam s fun t => s.retire t

end Sys2Proof.Machine
end

