-- ==== Sys2Proof/Machine/Frames.lean ====
section
/-! DEFINITION. Latent frames: frame accesses (12 R226), pushing (04 R48), Dill's promotion (04 R51 to R53), TAKE (R54),
JOIN (R55), TEND (R56), FRES and FRGET (R57). -/

namespace Sys2Proof.Machine

/-! ## Frame accesses (R226): plain accesses of the team at team scope -/

/-- n bytes at an offset from a handle, from the sources of R87, and the stores they show (DEDUCED, assumption 25). -/
def State.frameRead (s : State) (t : Team) (h : QWord) (off n : Nat) : Except FInfo (Nat × List Nat) :=
  let a := s.access t .global .load h off n 0 0 0
  match a.res with
  | .error f => .error f
  | .ok ps =>
    .ok (ps.foldl (fun acc p =>
      let (v, o, _) := s.loadBytes t s.nextId p.loc p.len
      (acc.1 + v * 2 ^ (8 * p.off), acc.2 ++ o)) (0, []))

/-- Write bytes at an offset from a handle: stores of the team. -/
def State.frameWrite (s : State) (t : Team) (h : QWord) (off : Nat) (bytes : List Byte) : Except FInfo (State × Team) :=
  let a := s.access t .global .store h off bytes.length 0 0 0
  match a.res with
  | .error f => .error f
  | .ok ps =>
    let base := s.nextId
    let es := (numbered base ps).map fun e =>
      let p := e.2
      (⟨e.1, base, .global, p.loc, p.len, p.home, .store (qn (leNat ((bytes.drop p.off).take p.len))), false, none, false, .none,
        t.pc, t.pc, s.curWord, a.addr⟩ : SqEntry)
    .ok ({ (s.noteGrans t.vf [a]) with nextId := base + max 1 ps.length }, { t with sq := t.sq ++ es })

/-- The top frame. -/
def topFrame (t : Team) : QWord := pcPlus (t.sreg 62) (-256)

/-- The frames of a team's stack, oldest first. -/
def Team.frameList (t : Team) : List QWord :=
  (List.range ((hOff (t.sreg 62) - hOff t.fsb) / 256)).map fun (i : Nat) => pcPlus t.fsb (256 * i)

/-- What an instruction reads of frames, and Dill before it where the flag is set (R51, R226): handles and lengths. -/
def Team.frameNeeds (t : Team) (i : Instr) : List (QWord × Nat) :=
  let dill := if t.pending then t.frameList.map fun h => (h, 256) else []
  match i with
  | .join | .take _ => if t.sreg 62 = t.fsb then [] else (topFrame t, 256) :: dill
  | .tend => if t.sreg 62 = t.fsb then [] else [(topFrame t, 256)]
  | .fres _ => (t.frameList ++ t.origin.toList).map fun h => (h, 32)
  | .frget _ => if t.sreg 62 = t.fsl then [] else [(t.sreg 62, 256)]
  | .fork _ | .forkv _ | .forkl _ | .ppt => dill
  | _ => []

def State.needPieces (s : State) (t : Team) (ns : List (QWord × Nat)) : List Piece :=
  ns.flatMap fun n => (s.access t .global .load n.1 0 n.2 0 0 0).pieces

/-- Whether such reads may be satisfied (R87, R105). -/
def State.frameOpen (s : State) (t : Team) (ns : List (QWord × Nat)) : Bool :=
  t.orderOpen s.nextId
    && (s.needPieces t ns).all fun p => t.loadReady s.nextId s.nextId p.loc p.len && s.mayRead t s.nextId p

/-- What a read of frames does beside its value: it counts where it reaches the homes of its lines, and is granted a replica there, as any
load (R88, R226, R282). -/
def State.noteFrame (s : State) (t : Team) (h : QWord) (off n : Nat) : State :=
  let a := s.access t .global .load h off n 0 0 0
  let far := a.pieces.filter fun p => (s.loadBytes t s.nextId p.loc p.len).2.2
  (far.map fun p => (p.loc / 128, p.home)).eraseDups.foldl (fun s l => s.atHome t (128 * l.1) l.2 (effRepl a.repl .adaptive) true false)
    (s.noteGrans t.vf [a])

/-- The first qwords of a frame: RESUME, Q1, LO, HI. -/
structure FrameHead where
  resume : QWord
  q1     : QWord
  lo     : QWord
  hi     : QWord
  deriving DecidableEq, Repr

def FrameHead.state (f : FrameHead) : Nat := fld f.q1 63 62
def FrameHead.kind (f : FrameHead) : Nat := fld f.q1 61 60
def FrameHead.root (f : FrameHead) : Bool := fld f.q1 59 59 == 1
def FrameHead.jcell (f : FrameHead) : Nat := fld f.q1 31 0

/-- Promotable (R47). -/
def FrameHead.promotable (f : FrameHead) : Bool :=
  (decide (f.kind < 2) && f.state == 0)
    || (f.kind == 2 && decide (f.state < 2) && decide (f.lo.toNat + 2 ≤ f.hi.toNat))

def headOf (n : Nat) : FrameHead :=
  ⟨qn n, qn (n / 2 ^ 64), qn (n / 2 ^ 128), qn (n / 2 ^ 192)⟩

def State.frameHead (s : State) (t : Team) (h : QWord) : Except FInfo (FrameHead × List Nat) :=
  match s.frameRead t h 0 32 with
  | .error f => .error f
  | .ok (n, o) => .ok (headOf n, o)

/-- The frames of a team's stack, oldest first, with their heads. -/
def State.frames (s : State) (t : Team) : List (QWord × FrameHead) :=
  t.frameList.filterMap fun h =>
    match s.frameHead t h with
    | .ok (f, _) => some (h, f)
    | .error _ => none

/-- Promotable frames on the stack: what LATENT reads (R47). -/
def State.latent (s : State) (t : Team) : Nat := ((s.frames t).filter fun e => e.2.promotable).length

def State.oldest (s : State) (t : Team) : Option (QWord × FrameHead) := (s.frames t).find? fun e => e.2.promotable

/-! ## Promotion (R51 to R53) -/

/-- Slices for a forked team, in Dill's preference (R52): other cores of the parent's die, other dies, the parent's core. A PRESIZE
stops fleets alone (R310). -/
def State.forkSlice (s : State) (t : Team) (ok : Nat → Bool) : Option Nat :=
  match s.part? t.vf with
  | none => none
  | some p =>
    let here := p.coresOf.filter fun c => coreDie c == t.die && c != t.core
    let away := p.coresOf.filter fun c => coreDie c != t.die
    ((here ++ away ++ [t.core]).flatMap fun c => (List.range 6).map fun i => 6 * c + i).find? fun sl =>
      s.sliceFits sl t.lanes t.regs 0 && ok sl

/-- Drop every replica of the lines of a handle range: collapses, which may come at any time (R88). -/
def State.dropRange (s : State) (t : Team) (h : QWord) (n : Nat) : State :=
  let lines := ((s.access t .global .store h 0 n 0 0 0).pieces.map fun p => p.loc / 128).eraseDups
  s.dropReplicas fun _ line _ => lines.contains line

/-- Dill's write of a frame, an access of the team (R226), performed at its home and Complete at once, every replica collapsed before
(DEDUCED, assumption 23). -/
def State.dillWrite (s : State) (t : Team) (h : QWord) (bytes : List Byte) : Except FInfo State :=
  (s.dropRange t h bytes.length).storeFor (some (t.tk, t.die)) (s.asidOf t) t.vf h bytes

/-- Whether Dill may act on a frame at its home: no other core holds its lines (R105). -/
def State.dillOpen (s : State) (t : Team) (h : QWord) : Bool :=
  (s.access t .global .store h 0 256 0 0 0).pieces.all fun p => s.mayAtomic t.core p.home p.loc

/-- Dill's reads: the heads of the frames from the oldest to the one it finds, and the whole of that one (R226). -/
def State.noteDill (s : State) (t : Team) (h : Option QWord) : State :=
  let s1 := ((t.frameList.takeWhile fun x => some x != h) ++ h.toList).foldl (fun s x => s.noteFrame t x 0 32) s
  match h with
  | some h => s1.noteFrame t h 0 256
  | none => s1

/-- What RoomFor finds: a slice, a stack and a region (R52), beside the room that gangs have reserved (R315). -/
structure Room where
  slice  : Nat
  fsb    : QWord
  region : Nat
  deriving DecidableEq, Repr

def State.roomFor (s : State) (t : Team) : Option Room :=
  match s.launch? t.launch with
  | none => none
  | some l =>
    match s.freeStack t.vf l.fsfr, s.freeRegion t.vf t.lanes with
    | some fsb, some r =>
      let child (sl : Nat) : Team := newTeam l t.launch (s.nextTid t.vf) sl (s.freeSlot sl) r fsb
      (s.forkSlice t fun sl => s.keepsGangs (s.addTeam (child sl))).map fun sl => ⟨sl, fsb, r⟩
    | _, _ => none

/-- The forked team from frame f at handle h (R52). A TRIG that its parent has executed counts for it (R144); breakpoints are enabled
where they are for its parent (DESIGN CHOICE, assumption 4). -/
def State.forkTeam (s : State) (t : Team) (l : Launch) (h : QWord) (f : FrameHead) (mask : Mask) (slots : Tbl QWord) (r : Room) : Team :=
  { newTeam l t.launch (s.nextTid t.vf) r.slice (s.freeSlot r.slice) r.region r.fsb with
    forked := true
    origin := some h
    parent := t.tid
    key := t.key ++ [t.children]
    teamid := t.teamid
    crewid := t.crewid
    fleetid := t.fleetid
    lgx := t.lgx
    lgy := t.lgy
    lgz := t.lgz
    lanes := t.lanes
    regs := t.regs
    s := Tbl.set slots 62 (if f.kind = 2 then pcPlus r.fsb 256 else r.fsb)
    mask := mask
    rmode := t.rmode
    prio := t.prio
    level := t.level
    pc := f.resume
    trig := t.trig || t.sq.any fun e => e.op == .trig
    dbg := t.dbg
    first := if l.det then some (l.round + 1) else none }

/-- The result of Dill's turn at a promotion point: not yet (the release of R53 does not hold, so the instruction does not
issue), or the state and team with which the instruction goes on. -/
inductive Dill where
  | later
  | go (s : State) (t : Team)

/-- The room that a deterministic launch asks of the pools: its own teams alone decide, those whose first round has come and those it has
forked, so that neither other launches nor fused cores move a promotion (R61 to R163) (DEDUCED, assumption 56). -/
def State.ownRoom (s : State) (t : Team) (l : Launch) : Bool :=
  let mine := (s.teams.map (·.2)).filter fun u =>
    u.launch == t.launch && !u.ended && (u.forked || (match u.first with | some f => decide (f ≤ l.round) | none => false))
  match (s.part? t.vf).bind Part.framePool, (s.part? t.vf).bind Part.lanePool with
  | some (_, fsz), some (_, lsz) =>
    decide (((mine.filter Team.forked).length + 1) * (l.fsfr * 256) ≤ fsz) && decide ((mine.length + 1) * (t.lanes * 65536) ≤ lsz / 65536 * 65536)
  | _, _ => false

/-- Dill finds no room: the flag stays set, and the promotion counts as deferred (R51, R360). -/
def State.noRoom (s : State) (t : Team) : Dill :=
  .go (if t.wait.isSome then s else s.modPart t.vf fun p => { p with deferred := p.deferred + 1 }) t

/-- Dill at a promotion point (R51). The parent's release holds before it acts (R53). Where the pools would do for a deterministic launch
but have no room, or no slice has, the team holds its turn (assumption 56). A frame whose head cannot be read is no candidate, and where a
read or a write of Dill meets a memory cause, nothing is promoted and the flag stays set (DESIGN CHOICE, assumption 59). -/
def State.dill (s : State) (t : Team) : Dill :=
  if !t.pending then .go s t
  else
    match s.launch? t.launch with
    | none => .go s t
    | some l =>
      if l.cancel then .go s { t with pending := false }
      else
        match s.oldest t with
        | none => .go (s.noteDill t none) { t with pending := false }
        | some (h, _) =>
          if l.det && !s.ownRoom t l then s.noRoom t
          else
          match s.roomFor t with
          | none => if l.det then .later else s.noRoom t
          | some r =>
            if !(s.releaseOk t s.nextId .partition) || !s.dillOpen t h || !s.dillOpen t r.fsb then .later
            else
              let s0 := (s.noteDill t (some h)).dropRange t h 256
              match s0.readHandle (s.asidOf t) t.vf h 256 with
              | .error _ => .go s t
              | .ok bs =>
                let f := headOf (leNat (bs.take 32))
                let mask : Mask := BitVec.ofNat 1024 (leNat ((bs.drop 32).take 128))
                let slots : Tbl QWord := (List.range 12).map fun k => (k + 1, qn (leNat ((bs.drop (160 + 8 * k)).take 8)))
                let c := s0.forkTeam t l h f mask slots r
                let mid := f.lo.toNat + (f.hi.toNat - f.lo.toNat + 1) / 2
                let q1 := 2 ^ 62 + f.kind * 2 ^ 60 + (if f.root then 2 ^ 59 else 0) + c.tid * 2 ^ 32 + (f.jcell + 1) % 2 ^ 32
                let child : List Byte :=
                  leBytes 8 f.resume.toNat ++ leBytes 8 (2 * 2 ^ 60 + 2 ^ 59) ++ leBytes 8 mid ++ leBytes 8 f.hi.toNat ++ bs.drop 32
                let s1 := if f.kind = 2 then s0.dillWrite t r.fsb child else .ok s0
                match s1 with
                | .error _ => .go s t
                | .ok s1 =>
                  match s1.dillWrite t h (leBytes 8 f.resume.toNat ++ leBytes 8 q1 ++
                      (if f.kind = 2 then leBytes 8 f.lo.toNat ++ leBytes 8 mid else [])) with
                  | .error _ => .go s t
                  | .ok s2 => .go (s2.addTeam c) { t with pending := false, children := t.children + 1 }

/-- Run the effect of a promotion point, the instruction i, once Dill has acted; while its reads or Dill wait, the instruction does not
issue. -/
def atPoint (i : Instr) (s : State) (t : Team) (f : State → Team → State) : State :=
  if !s.frameOpen t (t.frameNeeds i) then s
  else
    match s.dill t with
    | .later => s
    | .go s1 t1 => f (s1.putTeam t1) t1

def execPpt (s : State) : Result := onTeam s fun t => atPoint .ppt s t fun s t => s.retire t

/-! ## Pushing (R48) -/

/-- The 256 bytes of a new frame. -/
def newFrame (t : Team) (resume : QWord) (kind : Nat) (mask : Mask) (lo hi : QWord) : List Byte :=
  leBytes 8 resume.toNat ++ leBytes 8 (kind * 2 ^ 60) ++ leBytes 8 lo.toNat ++ leBytes 8 hi.toNat ++ leBytes 128 mask.toNat
    ++ (List.range 12).flatMap fun k => leBytes 8 (t.sreg (k + 1)).toNat

/-- Push a frame: FRAME 1 and the access's own faults come before Dill (R322). -/
def pushFrame (i : Instr) (s : State) (resume : Team → QWord) (kind : Nat) (mask : Team → Mask) (lo hi : Team → QWord) : Result :=
  onTeam s fun t =>
    let top := t.sreg 62
    if t.fsl.toNat < top.toNat + 256 then s.fault t ⟨0x08, 1, top, t.fsl⟩
    else
      match (s.access t .global .store top 0 256 0 0 0).err with
      | some f => s.fault t f
      | none =>
        atPoint i s t fun s t =>
          match s.frameWrite t top 0 (newFrame t (resume t) kind (mask t) (lo t) (hi t)) with
          | .error f => s.fault t f
          | .ok (s1, t1) => s1.retire (t1.setS 62 (pcPlus top 256))

def execFork (o : SJ) (s : State) : Result :=
  pushFrame (.fork o) s (·.target o.disp) 0 (fun t => fullMask t.lanes) (fun _ => 0) fun _ => 0

def execForkv (o : SJ) (s : State) : Result :=
  pushFrame (.forkv o) s (·.target o.disp) 1 (fun t => t.mask) (fun _ => 0) fun _ => 0

def execForkl (o : SBX) (s : State) : Result :=
  pushFrame (.forkl o) s (·.target o.disp) 2 (fun t => fullMask t.lanes) (fun t => t.rs o.sa) fun t =>
    if (t.rs o.sa).toNat < (t.rs o.sb).toNat then t.rs o.sb else t.rs o.sa

/-! ## Ends of teams (R56, R60) -/

/-- The current team retires its last instruction and ends. -/
def State.endAt (s : State) (t : Team) : State := ((s.retire { t with wait := none }).endTeam t.tk)

/-! ## TAKE (R54) -/

def execTake (o : SU) (s : State) : Result :=
  onTeam s fun t =>
    if t.sreg 62 = t.fsb then s.fault t ⟨0x08, 4, t.sreg 62, 0⟩
    else if !s.frameOpen t (t.frameNeeds (.take o)) then s
    else
      match s.frameHead t (topFrame t) with
      | .error f => s.fault t f
      | .ok (f, _) =>
        if f.kind ≠ 2 then s.fault t ⟨0x08, 4, t.sreg 62, qn (fld f.q1 63 60)⟩
        else
          match (s.access t .global .store (topFrame t) 16 8 0 0 0).err with
          | some e => s.fault t e
          | none =>
          atPoint (.take o) s t fun s t =>
            match s.frameHead t (topFrame t) with
            | .error f => s.fault t f
            | .ok (f, obs) =>
              let s := s.noteFrame t (topFrame t) 0 32
              let hi := min (f.lo.toNat + max 1 (t.rs o.sa).toNat) f.hi.toNat
              match s.frameWrite (t.see obs) (topFrame t) 16 (leBytes 8 hi) with
              | .error e => s.fault t e
              | .ok (s1, t1) => s1.retire ((t1.ws o.sd f.lo).setS (o.sd.toNat + 1) (qn hi))

/-! ## JOIN (R55) -/

/-- Take the top frame inline. -/
def joinInline (s : State) (t : Team) (f : FrameHead) : State :=
  let h := topFrame t
  match s.frameRead t h 32 224 with
  | .error e => s.fault t e
  | .ok (n, obs) =>
    let t0 := t.see obs
    let s := s.noteFrame t h 0 256
    let w1 := s.frameWrite t0 h 12 (leBytes 4 (2 * 2 ^ 30 + f.kind * 2 ^ 28 + fld f.q1 55 32))
    match w1 with
    | .error e => s.fault t e
    | .ok (s1, t1) =>
      match s1.frameWrite t1 h 16 (leBytes 8 t.nextPc.toNat ++ leBytes 8 t.depth ++ leBytes 128 t.mask.toNat) with
      | .error e => s.fault t e
      | .ok (s2, t2) =>
        let t3 := (List.range 12).foldl (fun u k => u.setS (k + 1) (qn (n / 2 ^ (1024 + 64 * k)))) t2
        s2.retireAt { t3 with mask := BitVec.ofNat 1024 n, wait := none } f.resume

/-- Pop the top frame once its cell is zero; a root loop frame ends the team. -/
def joinPop (s : State) (t : Team) (f : FrameHead) : State :=
  let t1 := (t.setS 62 (topFrame t))
  if f.kind = 2 ∧ f.root then s.endAt t1 else s.retire { t1 with wait := none }

/-- What a JOIN's accesses to its frame meet: its reads, and its writes where it would take the frame inline. -/
def State.joinFault (s : State) (t : Team) : Option FInfo :=
  let h := topFrame t
  match s.frameHead t h with
  | .error e => some e
  | .ok (f, _) =>
    if f.kind < 2 ∧ f.state = 0 then
      lowestFault ([s.access t .global .load h 32 224 0 0 0, s.access t .global .store h 12 4 0 0 0,
        s.access t .global .store h 16 144 0 0 0].filterMap LaneAcc.err)
    else none

/-- One test of a JOIN, promotion first; a JOIN that faults is no promotion point (R322). -/
def State.joinTest (s : State) (t : Team) : State :=
  match s.joinFault t with
  | some e => s.fault t e
  | none =>
  atPoint .join s t fun s t =>
    match s.frameHead t (topFrame t) with
    | .error e => s.fault t e
    | .ok (f, obs) =>
      let t1 := t.see obs
      if f.kind < 2 ∧ f.state = 0 then joinInline s t1 f
      else
        let s1 := s.noteFrame t (topFrame t) 0 32
        if f.jcell = 0 then joinPop s1 t1 f
        else if t1.wait.isSome then s1.putTeam t1
        else s1.startWait t1 .join

def execJoin (s : State) : Result :=
  onTeam s fun t =>
    if t.sreg 62 = t.fsb then s.fault t ⟨0x08, 2, t.sreg 62, 0⟩
    else if !s.frameOpen t (t.frameNeeds .join) then s
    else
      match s.frameHead t (topFrame t) with
      | .error f => s.fault t f
      | .ok (f, _) => if f.state = 2 then s.fault t ⟨0x08, 3, t.sreg 62, qn (fld f.q1 63 60)⟩ else s.joinTest t

/-! ## TEND (R56) -/

/-- The end of an inline branch. -/
def tendInline (s : State) (t : Team) (f : FrameHead) : State :=
  let h := topFrame t
  match s.frameRead t h 32 128 with
  | .error e => s.fault t e
  | .ok (n, obs) =>
    let s := s.noteFrame t h 0 160
    match s.frameWrite (t.see obs) h 12 (leBytes 4 (3 * 2 ^ 30 + fld f.q1 61 32)) with
    | .error e => s.fault t e
    | .ok (s1, t1) =>
      match s1.frameWrite t1 h 32 (leBytes 128 t.mask.toNat) with
      | .error e => s.fault t e
      | .ok (s2, t2) =>
        let d := f.hi.toNat % 65536
        s2.retireAt { (t2.setS 62 h) with mask := BitVec.ofNat 1024 n, toks := t2.toks.drop (t2.depth - d) } f.lo

def execTend (s : State) : Result :=
  onTeam s fun t =>
    if t.sreg 62 = t.fsb then s.endAt t
    else if !s.frameOpen t (t.frameNeeds .tend) then s
    else
      match s.frameHead t (topFrame t) with
      | .error f => s.fault t f
      | .ok (f, obs) =>
        if f.state = 2 then tendInline s (t.see obs) f else s.fault t ⟨0x08, 7, t.sreg 62, qn (hOff t.fsb)⟩

/-! ## Result slots (R57) -/

/-- The result frame: the newest taken frame, else the plain or vector origin frame. -/
def State.resultFrame (s : State) (t : Team) : Except FInfo (Option QWord) :=
  match ((s.frames t).reverse.find? fun e => e.2.state == 2) with
  | some e => .ok (some e.1)
  | none =>
    match t.origin with
    | none => .ok none
    | some h =>
      match s.frameHead t h with
      | .error f => .error f
      | .ok (f, _) => .ok (if f.kind < 2 then some h else none)

/-- The frames that a FRES reads, down to its result frame. -/
def Team.fresReads (t : Team) (h : QWord) : List QWord := t.frameList.reverse.takeWhile (· != h) ++ [h]

/-- The stores that the reads of a FRES show (R84). -/
def State.fresSeen (s : State) (t : Team) (h : QWord) : List Nat :=
  (t.fresReads h).flatMap fun x => match s.frameHead t x with | .ok (_, o) => o | .error _ => []

def execFres (o : SFres) (s : State) : Result :=
  onTeam s fun t =>
    if !s.frameOpen t (t.frameNeeds (.fres o)) then s
    else
      match s.resultFrame t with
      | .error f => s.fault t f
      | .ok none => s.fault t ⟨0x08, 5, t.sreg 62, qn o.k.toNat⟩
      | .ok (some h) =>
        let s0 := (t.fresReads h).foldl (fun s x => s.noteFrame t x 0 32) s
        match s0.frameWrite (t.see (s.fresSeen t h)) h (160 + 8 * o.k.toNat) (leBytes 8 (t.rs o.sa).toNat) with
        | .error f => s.fault t f
        | .ok (s1, t1) => s1.retire t1

def execFrget (o : SFrget) (s : State) : Result :=
  onTeam s fun t =>
    if t.sreg 62 = t.fsl then s.fault t ⟨0x08, 6, t.sreg 62, qn o.k.toNat⟩
    else if !s.frameOpen t (t.frameNeeds (.frget o)) then s
    else
      match s.frameRead t (t.sreg 62) (160 + 8 * o.k.toNat) 8 with
      | .error f => s.fault t f
      | .ok (n, obs) => (s.noteFrame t (t.sreg 62) (160 + 8 * o.k.toNat) 8).retire ((t.see obs).ws o.sd (qn n))

end Sys2Proof.Machine
end

