-- ==== Sys2Proof/Machine/Items.lean ====
section
/-! DEFINITION. Items (12 R227 to R229; 03 R37 to R39), TRIG and WAITDEP (12 R230), and the return of every wait (12 R231, 13
R254). -/

namespace Sys2Proof.Machine

/-- A list number at or above LISTS faults OPERAND 3. -/
def State.listNo (s : State) (t : Team) (h : QWord) : Except FInfo Nat :=
  let n := ((s.launch? t.launch).map Launch.nlists).getD 0
  if n ≤ h.toNat then .error ⟨0x05, 3, h, qn n⟩ else .ok h.toNat

/-- ENQ: the items enter the list once its release holds (R102). An ENQ of none makes the release all the same (R227), and is never in
flight. -/
def execEnq (o : SItem) (s : State) : Result :=
  onTeamRegs (.enq o) s fun t =>
    match s.listNo t (t.rs o.sa) with
    | .error f => s.fault t f
    | .ok l =>
      let items := (t.chosen o.pn).map fun L => t.vpair o.vb.toNat L
      let t1 := t.ws o.sd (qn items.length)
      let e : SqEntry := ⟨s.nextId, s.nextId, .core, 0, 0, 0, .enq l items, false, some .partition, false, .none, t.pc, t.pc, s.curWord, 0⟩
      s.fresh.retire { t1 with sq := t1.sq ++ [e] }

/-- Items of a list available to a core: those of its queue; in a deterministic launch those of the list itself (R161). -/
def State.available (s : State) (t : Team) (l : Nat) : List QWord :=
  match s.launch? t.launch with
  | none => []
  | some la =>
    if la.det then Tbl.getD la.lists l []
    else (s.core t.core).items.filterMap fun i => if i.1 = t.launch ∧ i.2.1 = l then some i.2.2 else none

/-- Remove the first n available items: the oldest of a core's queue go first (DESIGN CHOICE, assumption 66). -/
def takeFirst (launch l : Nat) : Nat → List (Nat × Nat × QWord) → List (Nat × Nat × QWord)
  | 0, xs => xs
  | _, [] => []
  | n + 1, x :: xs => if x.1 = launch ∧ x.2.1 = l then takeFirst launch l n xs else x :: takeFirst launch l (n + 1) xs

def State.takeItems (s : State) (t : Team) (l n : Nat) : State :=
  match s.launch? t.launch with
  | none => s
  | some la =>
    if la.det then s.modLaunch t.launch fun x => { x with lists := Tbl.set x.lists l ((Tbl.getD x.lists l []).drop n) }
    else s.modCore t.core fun c => { c with items := takeFirst t.launch l n c.items }

/-- REFILL (R228): idle lanes ascending, one item each while items are available. -/
def execRefill (o : SItem) (s : State) : Result :=
  onTeamRegs (.refill o) s fun t =>
    match s.listNo t (t.rs o.sa) with
    | .error f => s.fault t f
    | .ok l =>
      let got := (t.chosen o.pn).zip (s.available t l)
      let t1 := t.setVPair o.vb.toNat fun L => (got.find? fun g => g.1 == L).map (·.2)
      let t2 := t1.setPred o.pn.toNat (maskOf t.lanes fun L => t.pred o.pn.toNat L && !got.any fun g => g.1 == L)
      (s.takeItems t l got.length).retire ({ t2 with named := some l }.ws o.sd (qn got.length))

/-- A team that runs: placed, not saved, not parked, not ended. -/
def Team.running (t : Team) : Bool := t.saved.isNone && t.park.isNone && !t.ended

/-- Quiescence at this instant (R39); a team has ended once its end's release holds (R102). -/
def State.quiescent (s : State) (uid : Nat) (l : Launch) : Bool :=
  l.placed && l.lists.all (fun e => e.2.isEmpty)
    && s.cores.all (fun c => c.2.items.all fun i => i.1 != uid)
    && s.teams.all fun e => e.2.launch != uid
        || (e.2.sq.all (fun x => match x.op with | .enq _ items => items.isEmpty | _ => true)
            && (s.endDone e.2 || (e.2.running && (match e.2.wait.map Wait.on with | some (.waitq _ _) => true | _ => false))))

/-- The release of every ENQ of a launch, of one that appended nothing too, has been made (R102, R227). -/
def State.enqsDone (s : State) (uid : Nat) : Bool :=
  s.teams.all fun e => e.2.launch != uid || e.2.sq.all fun x => match x.op with | .enq _ _ => false | _ => true

/-- WAITQ's test: 1 when Sage has reported the launch quiescent, in a deterministic launch when it is (R231), and the releases that it
acquires have been made (R102); 0 when an item is available. -/
def State.waitqTest (s : State) (t : Team) (l : Nat) : Option QWord :=
  if ((s.launch? t.launch).map fun x => (x.quiet || (x.det && s.quiescent t.launch x)) && s.enqsDone t.launch).getD false then some 1
  else if !(s.available t l).isEmpty then some 0
  else none

def execWaitq (o : SU) (s : State) : Result :=
  onTeam s fun t =>
    match s.listNo t (t.rs o.sa) with
    | .error f => s.fault t f
    | .ok l =>
      let t1 := { t with named := some l }
      if !(s.available t l).isEmpty then s.retire (t1.ws o.sd 0) else s.startWait t1 (.waitq l o.sd)

/-- TRIG marks the team once its release holds (R230). -/
def execTrig (s : State) : Result :=
  onTeam s fun t =>
    let e : SqEntry := ⟨s.nextId, s.nextId, .core, 0, 0, 0, .trig, false, some .partition, false, .none, t.pc, t.pc, s.curWord, 0⟩
    s.fresh.retire { t with sq := t.sq ++ [e] }

def State.depsTest (s : State) (t : Team) : Bool := ((s.launch? t.launch).map s.depsMet).getD true

def execWaitdep (s : State) : Result :=
  onTeam s fun t => if s.depsTest t then s.retire t else s.startWait t .waitdep

/-! ## Waits that return (R34, R231, R254) -/

/-- A test that may fault runs as the instruction waited in, and the next instruction may open a run (R175, R324). -/
def State.asWaiting (s : State) (t : Team) (w : Wait) (f : State → State) : State :=
  let s1 : State := { f { s with cur := some ⟨t.tk, w.word, none⟩ } with cur := s.cur }
  match s1.team? t.tk with
  | some u => if u.wait.isNone && u.park.isNone && !u.ended then s1.openRun t.tk t.pc t.clock else s1
  | none => s1

/-- Test a waiting team's condition once; it returns where the condition holds. -/
def State.testWait (s : State) (t : Team) (w : Wait) (grant : Bool) : State :=
  match w.on with
  | .join => if s.frameOpen t (t.frameNeeds .join) then s.asWaiting t w fun s => s.joinTest t else s
  | .waitq l sd => match s.waitqTest t l with | some v => s.endWait (t.ws sd v) | none => s
  | .waitdep => if s.depsTest t then s.endWait t else s
  | .bar k ph sd own =>
    match ph with
    | none => s
    | some q => match s.barTest k q own with | some v => s.endWait (t.ws sd v) | none => s
  | .tb k q sd => match s.barTest k q false with | some v => s.endWait (t.ws sd v) | none => s
  | .tok m any sd => match t.tokTest m any with | some v => s.endWait (t.ws sd v) | none => s
  | .memw h v w32 c pol sd => s.asWaiting t w fun s => s.waitvTest t h v w32 c pol sd grant

end Sys2Proof.Machine
end

