-- ==== Sys2Proof/Machine/System.lean ====
section
/-! DEFINITION. System registers (14 R268, R269, Table 14.8; 09 Table 9.1; 22 R323, R335, R336), RMSET and PRIO (R270), TRAP,
BRKPT and ERET (R271), TCTL (R272, 22 R329, R330), HALT (R273) and CANCEL (R274). -/

namespace Sys2Proof.Machine

/-! ## Reading -/

/-- The thermal limit over a core (R155). -/
def State.limitOf (s : State) (core : Nat) : Nat := ((Tbl.get? s.srams (coreGran core)).map Stack.limit).getD 8

/-- EFF of slice i of a core: min(CEIL, thermal limit), or 1 while its die is throttled (R155, R362). -/
def State.eff (s : State) (core i : Nat) : Nat :=
  if ((Tbl.get? s.dies (coreDie core)).map Die.throttle).getD false then 1
  else min ((s.core core).ceil.toNat / 16 ^ i % 16) (s.limitOf core)

/-- Units the core gains per cycle (R153, R362): its REFILL, none while its die is throttled, a share while the module's current is
limited. -/
def State.refillOf (s : State) (core : Nat) : Nat :=
  let r := (s.core core).refill
  if ((Tbl.get? s.dies (coreDie core)).map Die.throttle).getD false then 0
  else if s.total = 0 then r
  else r * 20000 / s.total

/-- The register of an id, where one is listed. -/
def State.sysRead (s : State) (t : Team) (id : Nat) : Option QWord :=
  match s.launch? t.launch, s.part? t.vf with
  | some l, some p =>
    let c := s.core t.core
    match id with
    | 0x000 => some (qn t.teamid)
    | 0x001 => some (qn t.lanes)
    | 0x002 => some (qn t.crewid)
    | 0x003 => some (qn l.nteamsCrew)
    | 0x004 => some (qn t.fleetid)
    | 0x005 => some (qn l.lid)
    | 0x006 => some (qn t.lgx)
    | 0x007 => some (qn t.lgy)
    | 0x008 => some (qn t.lgz)
    | 0x009 => some (qn l.phase)
    | 0x00A => some (qn (if l.det then t.clock else s.cycle - p.clockBase))
    | 0x00B => some (qn s.thyme)
    | 0x00C => some (qn t.rmode)
    | 0x00D => some (qn (if l.det then l.hbi else s.hbi))
    | 0x00E => some t.fsb
    | 0x00F => some t.fsl
    | 0x010 => some (qn t.prio)
    | 0x011 => some (qn (s.latent t))
    | 0x012 => some (qn p.lease)
    | 0x013 => some (if l.det then 1 else 0)
    | 0x100 => some p.fqbase
    | 0x101 => some (qn p.fqsize)
    | 0x102 => some (qn p.fqhead)
    | 0x103 => some (qn p.fqtail)
    | 0x104 => some p.pkbase
    | 0x105 => some (qn p.parked.length)
    | 0x108 => some (qn p.mask.toNat)
    | 0x10A => some (qn t.tid)
    | 0x10B => some (if t.level then 1 else 0)
    | 0x110 => some p.tvec
    | 0x111 => some t.epc
    | 0x112 => some t.ecode
    | 0x120 => some c.pacost
    | 0x121 => some (qn (c.guard * 2 ^ 32 + c.cap * 2 ^ 16 + s.refillOf t.core))
    | 0x122 => some (qn (c.allow % 2 ^ 24).toNat)
    | 0x123 => some (qn (((List.range 6).map fun i => s.eff t.core i * 2 ^ (24 + 4 * i)).sum + c.ceil.toNat))
    | _ => none
  | _, _ => none

def execSysr (o : SSysr) (s : State) : Result :=
  onTeam s fun t =>
    let id := o.id.toNat
    if !t.level ∧ 0x100 ≤ id then s.fault t ⟨0x02, 5, 0, qn id⟩
    else
      match s.sysRead t id with
      | some v => s.retire (t.ws o.sd v)
      | none => s.fault t ⟨0x06, 1, 0, qn id⟩

/-! ## Writing -/

def sysRo (id : Nat) : Bool := decide (id ≤ 0x13) || [0x103, 0x105, 0x108, 0x10A, 0x10B, 0x122].contains id
def sysRw (id : Nat) : Bool := [0x100, 0x101, 0x102, 0x104, 0x110, 0x111, 0x112, 0x120, 0x121, 0x123].contains id

def fqSizeOk (n : Nat) : Bool := n == 0 || (decide (16 ≤ n) && decide (n ≤ 65536) && n == 2 ^ Nat.log2 n)

/-- The SYSREG detail of a write, or none (R323, R336). -/
def sysWriteBad (p : Part) (id : Nat) (v : QWord) : Option Nat :=
  if !sysRo id && !sysRw id then some 1
  else if !sysRw id then some 2
  else if id = 0x101 ∧ !fqSizeOk v.toNat then some 3
  else if id = 0x121 ∧ ¬ (256 ≤ fld v 31 16 ∧ fld v 31 16 ≤ 32767) then some 3
  else if id = 0x123 ∧ (List.range 6).any (fun i => let n := v.toNat / 16 ^ i % 16; n == 0 || decide (9 ≤ n)) then some 3
  else if (id = 0x100 ∨ id = 0x101) ∧ p.fqhead ≠ p.fqtail then some 4
  else if id = 0x102 ∧ (2 ^ 32 ≤ v.toNat ∨
      (p.fqtail + 2 ^ 32 - p.fqhead) % 2 ^ 32 < (v.toNat + 2 ^ 32 - p.fqhead) % 2 ^ 32) then some 4
  else if id = 0x104 ∧ !p.parked.isEmpty then some 4
  else none

/-- A write that passed. -/
def State.sysWrite (s : State) (t : Team) (id : Nat) (v : QWord) : State :=
  let asid := s.asidOf t
  match id with
  | 0x100 => s.modPart t.vf fun p => { p with fqbase := v, fqasid := asid }
  | 0x101 => s.modPart t.vf fun p => { p with fqsize := v.toNat }
  | 0x102 => (s.modPart t.vf fun p => { p with fqhead := v.toNat }).flushRecords t.vf
  | 0x104 => s.modPart t.vf fun p => { p with pkbase := v, pkasid := asid }
  | 0x110 => s.modPart t.vf fun p => { p with tvec := v }
  | 0x120 => s.modCore t.core fun c => { c with pacost := v }
  | 0x121 => s.modCore t.core fun c => { c with guard := fld v 47 32, cap := fld v 31 16 }
  | 0x123 => s.modCore t.core fun c => { c with ceil := BitVec.ofNat 24 v.toNat }
  | _ => s

def execSysw (o : SSysw) (s : State) : Result :=
  onTeam s fun t =>
    let id := o.id.toNat
    let v := t.rs o.sa
    if !t.level ∧ 0x100 ≤ id then s.fault t ⟨0x02, 6, 0, qn id⟩
    else
      match s.part? t.vf with
      | none => s.fault t ⟨0x06, 1, v, qn id⟩
      | some p =>
        match sysWriteBad p id v with
        | some d => s.fault t ⟨0x06, d, v, qn id⟩
        | none =>
          let t1 := if id = 0x111 then { t with epc := v } else if id = 0x112 then { t with ecode := v } else t
          (s.retire t1).sysWrite t id v

/-! ## RMSET and PRIO -/

def execRmset (o : SRm) (s : State) : Result :=
  onTeam s fun t =>
    let v := if o.reg then (t.rs o.sa).toNat % 16 else o.value.toNat
    if 5 ≤ v % 8 then s.fault t ⟨0x05, 1, 0, qn v⟩ else s.retire { t.ws o.sd (qn t.rmode) with rmode := v }

def execPrio (o : SPr) (s : State) : Result :=
  onTeam s fun t =>
    let v := if o.reg then (t.rs o.sa).toNat % 8 else o.value.toNat
    if !t.level ∧ ((s.launch? t.launch).map Launch.prio).getD 0 < v then s.fault t ⟨0x05, 2, 0, qn v⟩
    else s.retire { t.ws o.sd (qn t.prio) with prio := v }

/-! ## Traps and returns -/

def execTrap (o : SCode) (s : State) : Result :=
  onTeam s fun t =>
    if 0x800 ≤ o.code.toNat then
      s.putTeam (t.callTrap (((s.part? t.vf).map Part.tvec).getD 0) (qn o.code.toNat))
    else
      let t1 := { t with pc := t.nextPc, clock := t.clock + 1 }
      s.parkTeam t1 ⟨0x0B, 0, 0, qn o.code.toNat⟩ true t.nextPc s.curWord true 0 none

def execBrkpt (o : SCode) (s : State) : Result :=
  onTeam s fun t =>
    if t.dbg ∧ !t.brkSkip then s.fault t ⟨0x0C, 0, 0, qn o.code.toNat⟩ else s.retire { t with brkSkip := false }

def execEret (o : S1) (s : State) : Result :=
  onTeam s fun t =>
    if !t.level then s.fault t ⟨0x02, 1, 0, 0⟩
    else if hOff (t.rs o.sa) % 4 ≠ 0 then s.fault t ⟨0x05, 4, t.rs o.sa, 0⟩
    else s.putTeam (t.returnTo (t.rs o.sa))

/-! ## TCTL (R272) -/

/-- 0 Ready, 1 Waiting, 2 Parked, 3 Saved, 4 ended or none. -/
def Team.stateCode (t : Team) : Nat :=
  if t.ended then 4 else if t.saved.isSome then 3 else if t.park.isSome then 2 else if t.wait.isSome then 1 else 0

def State.stateCode (s : State) (tk : Nat) : Nat := ((s.team? tk).map Team.stateCode).getD 4


/-- A park asked by TCTL takes effect at a boundary, in a deterministic launch outside every latch run (R332). -/
def State.settlePark (s : State) (tk : Nat) : State :=
  match s.team? tk with
  | none => s
  | some t =>
    if t.parkReq && t.running && !(((s.launch? t.launch).map Launch.det).getD false && s.inRun t) then s.parkQuiet t else s

/-- What every TCTL does: privilege, sd, then the operation on the named team where its state allows. -/
def tctl (o : SR) (s : State) (f : State → Team → State) (ok : Nat → Bool) : Result :=
  onTeam s fun t =>
    if !t.level then s.fault t ⟨0x02, 2, 0, 0⟩
    else
      let key := teamKey t.vf (fld (t.rs o.sa) 23 0)
      let code := s.stateCode key
      let s1 := s.retire (t.ws o.sd (qn code))
      if ok code then (match s1.team? key with | some u => f s1 u | none => s1) else s1

def execTctlState (o : SR) (s : State) : Result := tctl o s (fun s _ => s) fun _ => true

/-- A team that parks itself does so at its next boundary, which is where the instruction has left it. -/
def execTctlPark (o : SR) (s : State) : Result :=
  tctl o s (fun s u => (s.putTeam { u with parkReq := true }).settlePark u.tk) fun c => decide (c < 2)

/-- A resume also restarts the team's held copies (R345); a team parked by REGFILE ends as by a kill (R366). -/
def execTctlResume (o : SR) (s : State) : Result :=
  tctl o s (fun s u =>
    if (u.park.map ParkInfo.cause) == some 0x82 then s.endTeam u.tk
    else (s.unpark u).modCore u.core fun c =>
      { c with copies := c.copies.map fun x => if x.tk = u.tk then { x with held := false } else x }) fun c => c == 2

def execTctlKill (o : SR) (s : State) : Result := tctl o s (fun s u => s.endTeam u.tk) fun c => decide (c < 4)

def execTctlAbort (o : SR) (s : State) : Result := tctl o s (fun s u => s.cancelLaunch u.launch 1) fun c => decide (c < 4)

def execTctlDbg (o : SR) (s : State) : Result :=
  onTeam s fun t =>
    let on := (t.rs o.sb).getLsbD 0
    match tctl o s (fun s u => s.putTeam { u with dbg := on }) (fun c => decide (c < 4)) with
    | .next s1 => s1
    | _ => s

/-! ## HALT and CANCEL -/

def halt (o : SU) (stop : Bool) (s : State) : Result :=
  onTeam s fun t =>
    if !t.level then s.fault t ⟨0x02, 3, 0, 0⟩
    else
      let q := (t.rs o.sa).toNat
      match s.queue? t.vf q with
      | none => s.retire (t.ws o.sd (qn (2 ^ 64 - 1)))
      | some k => (s.retire (t.ws o.sd (if k.stopped then 0 else 1))).modQueue t.vf q fun k => { k with stopped := stop }

def execHaltStop (o : SU) (s : State) : Result := halt o true s
def execHaltGo (o : SU) (s : State) : Result := halt o false s

/-- Accept a cancel of the launches of a partition that p selects. -/
def State.cancelWhere (s : State) (vf status : Nat) (p : Launch → Bool) : State :=
  (s.launches.filter fun e => e.2.vf == vf && !e.2.done && !e.2.cancel && p e.2).foldl (fun s e => s.cancelLaunch e.1 status) s

/-- CANCEL: sd tells whether the unit exists and has not completed; mark keeps the cancel for packets not yet read (DEDUCED, assumption 31). -/
def cancelOp (o : SU) (s : State) (p : QWord → Launch → Bool) (known : QWord → Part → Bool) (mark : QWord → Part → Part) : Result :=
  onTeam s fun t =>
    if !t.level then s.fault t ⟨0x02, 4, 0, 0⟩
    else
      let a := t.rs o.sa
      let live := s.launches.any (fun e => e.2.vf == t.vf && !e.2.done && p a e.2) || ((s.part? t.vf).map (known a)).getD false
      if live then ((s.retire (t.ws o.sd 1)).modPart t.vf (mark a)).cancelWhere t.vf 1 (p a) else s.retire (t.ws o.sd 0)

/-- The LAUNCHIDs of the packets that stand unread in the queues of the current team's partition (R32). -/
def State.unreadLids (s : State) : List Nat :=
  match s.curTeam with
  | none => []
  | some t => (s.queued t.vf).map fun pkt => fld (pkt.getD 6 0) 47 24

def execCancelLaunch (o : SU) (s : State) : Result :=
  let lids := s.unreadLids
  cancelOp o s (fun a l => l.lid == fld a 23 0) (fun a _ => lids.contains (fld a 23 0)) fun a p =>
    if lids.contains (fld a 23 0) then { p with cancelled := (fld a 23 0 :: p.cancelled).eraseDups } else p

def execCancelPhase (o : SU) (s : State) : Result :=
  cancelOp o s (fun a l => l.job == fld a 31 16 && l.phase == fld a 15 0)
    (fun a p => p.phases.any fun x => x.is (fld a 31 16) (fld a 15 0) && !x.done)
    fun a p => { p with phases := p.phases.map fun x => if x.is (fld a 31 16) (fld a 15 0) && !x.done then { x with cancel := true } else x }

def execCancelJob (o : SU) (s : State) : Result :=
  cancelOp o s (fun a l => l.job == fld a 15 0) (fun a p => p.phases.any fun x => x.job == fld a 15 0)
    fun a p => { p with jobCancel := if p.phases.any fun x => x.job == fld a 15 0 then fld a 15 0 :: p.jobCancel else p.jobCancel }

end Sys2Proof.Machine
end

