-- ==== Sys2Proof/Machine/Deliver.lean ====
section
/-! DEFINITION. What comes back to a team after its instruction has retired: values (06 R87, R95), and faults found late (22
R321; 23 R341, R342; assumption 7). -/

namespace Sys2Proof.Machine

/-- Put a value where an access named it; a latch entry made at issue takes it too (R16, R184). -/
def Team.deliver (t : Team) (d : Dest) (v : Nat) : Team :=
  match d with
  | .none | .lane .. => t
  | .uni r => t.setS r (qn v)
  | .vec r L n tag _ =>
    let t1 := if n = 8 then t.setVPair r fun l => if l = L then some (qn v) else none
      else t.setV r fun l => if l = L then some (BitVec.ofNat 32 v) else none
    { t1 with lat := updWhere t1.lat (fun e => e.tag == tag) fun e => { e with vals := e.vals.set L (qn v) } }

/-- The lane a destination names. -/
def Dest.laneMask : Dest → Mask
  | .vec _ L _ _ _ | .lane L _ => BitVec.ofNat 1024 (2 ^ L)
  | _ => 0

/-- The lanes in which its instruction runs, when all of them may fail with it. -/
def Dest.lanes : Dest → Nat
  | .vec _ _ _ _ n | .lane _ n => n
  | _ => 0

def Team.dropTq (t : Team) (id : Nat) : Team := { t with tq := t.tq.filter fun e => e.id != id }
def Team.dropSq (t : Team) (id : Nat) : Team := { t with sq := t.sq.filter fun e => e.id != id }

/-- Note a fault found after its instruction retired. -/
def Team.addLate (t : Team) (f : FInfo) (prec : Bool) (pc rpc : QWord) (word : Word) (d : Dest) : Team :=
  { t with late := t.late ++ [⟨f.cause, f.detail, f.addr, f.aux, word, prec, pc, rpc, d.laneMask, d.lanes⟩] }

/-- An engine, or another unit that acts for a team, meets an imprecise fault. -/
def State.lateFault (s : State) (tk : Nat) (f : FInfo) (pc : QWord) (word : Word) : State :=
  s.modTeam tk fun t => t.addLate f false pc pc word .none

/-- The fault of a load or an atomic that met it at its home: the entry is gone, its lane is unfinished. -/
def State.latePrecise (s : State) (tk : Nat) (f : FInfo) (d : Dest) (pc rpc : QWord) (word : Word) : State :=
  s.modTeam tk fun t => t.addLate f true pc rpc word d

def LateFault.info (l : LateFault) : FInfo := ⟨l.cause, l.detail, l.addr, l.aux⟩

/-- Whether accesses of the instruction at a PC are still to return. -/
def Team.pendingAt (t : Team) (pc : QWord) : Bool := t.tq.any (fun e => e.pc == pc) || t.sq.any (fun e => e.pc == pc && e.op.isAtomic)

/-- The fault of those noted with which the team parks at its next boundary: the first that need not wait for the other accesses of its
instruction. -/
def Team.lateFirst (t : Team) : Option LateFault := t.late.find? fun e => !e.prec || !t.pendingAt e.pc

/-- The retired count of a team whose instruction at pc, of a run that began at rpc, has not retired after all (R60, R320). A deterministic
team takes a latch run back whole, as it will retire it whole again (R178). -/
def State.clockBack (s : State) (t : Team) (pc rpc : QWord) : Nat :=
  t.clock - (if s.isDet t then ((hOff pc - hOff rpc) / 4 + 1) else 1)

/-- The first late fault that can be taken parks its team, as IMPRECISE_FAULT says. A deterministic team whose instruction has not retired
holds its turn again (R160). -/
def State.parkLate (s : State) (tk : Nat) : State :=
  match s.team? tk with
  | none => s
  | some t =>
    match t.lateFirst with
    | none => s
    | some e =>
      if !t.running then s
      else if e.prec then
        let group := t.late.filter fun x => x.prec && x.pc == e.pc
        let f := (lowestFault (group.map LateFault.info)).getD e.info
        let um := if group.length = e.lanes then 0 else group.foldl (fun m x => m ||| x.umask) 0
        let round := ((s.launch? t.launch).map Launch.round).getD 0
        let t1 := { t with
          late := t.late.filter (fun x => !(x.prec && x.pc == e.pc))
          clock := s.clockBack t e.pc e.rpc
          turn := if s.isDet t then min t.turn (round - 1) else t.turn }
        s.parkTeam t1 f true e.pc e.word (decide (2 ^ 31 ≤ e.word.toNat)) um (some e.rpc)
      else
        s.parkTeam { t with late := t.late.erase e } e.info false t.pc e.word (decide (2 ^ 31 ≤ e.word.toNat)) 0 none

/-- IMPRECISE_FAULT (R321): the team parks at its boundary, in a wait too. The lanes of one instruction make one precise fault, the
lowest cause and detail, once its other accesses have returned; with no lane finished USUM is 0. The team then replays from that
instruction's restart point and goes on where it stands (DEDUCED, assumption 7), or in the run where the fault lies. -/
def execImpreciseFault (tk : Nat) (s : State) : Result := .next (s.parkLate tk)

end Sys2Proof.Machine
end

