-- ==== Sys2Proof/Machine/Counters.lean ====
section
/-! DEFINITION. Sorrel's bounded counters (07 R121 to R125; 23 R351, R352). An element is named by its object and number; an
operation stays in its team's store queue until it is served. -/

namespace Sys2Proof.Machine

/-- The largest value of an element. -/
def ctrMax : Nat := 2 ^ 63 - 1

/-- The name of element idx of an object of an ASID (R121). -/
def elemKey (asid obj idx : Nat) : Nat := (asid * 2 ^ 24 + obj) * 2 ^ 37 + idx

/-- An object is unmapped, or its ASID's table is replaced: its elements hold 0 again when they are next used (R121). -/
def State.dropElems (s : State) (f : Nat → Nat → Bool) : State :=
  { s with elems := s.elems.filter fun e => !f (e.1 / 2 ^ 61) (e.1 / 2 ^ 37 % 2 ^ 24) }

/-- DEDUCED, assumption 30. -/
def State.elem (s : State) (k : Nat) : Elem := Tbl.getD s.elems k ⟨0, 0, 0, 0, [], [], [], [], none, false⟩
def State.modElem (s : State) (k : Nat) (f : Elem → Elem) : State := { s with elems := Tbl.set s.elems k (f (s.elem k)) }

def Elem.allow (e : Elem) (d : Nat) : Nat := Tbl.getD e.alw d 0
def Elem.queue (e : Elem) (d : Nat) : List CtrReq := Tbl.getD e.q d []

/-- The element's value: reserve, allowances, and what a recall has gathered. -/
def Elem.value (e : Elem) : Nat := e.reserve + (e.alw.map (·.2)).sum + (e.recallOf.map Recall.pool).getD 0

/-- Dies of an element's partition. -/
def State.elemDies (s : State) (e : Elem) : List Nat := ((s.part? e.vf).map Part.dies).getD []

/-- C of R351: the most a die may hold. -/
def ctrCap (D : Nat) : Nat := ctrMax / (2 * max D 1)

def Elem.held (e : Elem) (d : Nat) : Bool := (e.recallOf.map fun r => r.answered.contains d).getD false

/-- Whether operations of a die wait behind a request or a forwarded BCINC at the home. -/
def Elem.behind (e : Elem) (d : Nat) : Bool :=
  e.asked.any (fun a => a.1 == d)
    || e.hq.any fun r => r.die == d && (match r.op with | .read => false | .set _ => false | _ => true)

/-- The slice that holds a die's allowance of an element: entry (i + n) mod |Sd| of the die's slices in the partition (R121). -/
def State.designated (s : State) (vf die obj idx : Nat) : Nat :=
  let sd := ((s.part? vf).map fun p => p.l2s.filter fun l => l2Die l == die).getD []
  sd.getD ((idx + obj) % max sd.length 1) 0

/-- The slice that holds the reserve of element k: Home(n, 8i) (R121). -/
def State.reserveHome (s : State) (k : Nat) : Nat :=
  let asid := k / 2 ^ 61
  let obj := k / 2 ^ 37 % 2 ^ 24
  let d : Desc := (List.range 8).map fun i => s.rdQ (s.descLoc asid obj + 8 * i)
  s.home ((s.elem k).vf) obj (8 * (k % 2 ^ 37)) d.hilv d.hdie

/-- The slices that hold an element's parts: the reserve's home, and the designated slice of each die (R121). -/
def State.elemSlices (s : State) (k : Nat) : List Nat :=
  let e := s.elem k
  s.reserveHome k :: (s.elemDies e).map fun d => s.designated e.vf d (k / 2 ^ 37 % 2 ^ 24) (k % 2 ^ 37)

/-- The operation is served with a result. -/
def State.ctrDone (s : State) (r : CtrReq) (v : Nat) : State := s.modTeam r.tk fun t => (t.dropSq r.id).deliver r.dest v

/-- The operation faults; the value is unchanged. -/
def State.ctrFault (s : State) (r : CtrReq) (detail aux : Nat) : State :=
  (s.modTeam r.tk fun t => t.dropSq r.id).latePrecise r.tk ⟨0x46, detail, r.addr, qn aux⟩ r.dest r.pc r.rpc r.word

def CtrOp.amount : CtrOp → Nat
  | .decAll n => n
  | .decPart n => n
  | .inc n => n
  | .read => 0
  | .set v => v

/-! ## The designated slice of a die (R122, R351) -/

/-- Serve the operations that wait at a die's slice, in arrival order, as far as its allowance goes. -/
def State.serveSlice (s : State) (k d : Nat) : Nat → State
  | 0 => s
  | n + 1 =>
    let e := s.elem k
    if e.held d || e.behind d then s
    else
      match e.queue d with
      | [] => s
      | r :: rest =>
        let a := e.allow d
        let pop (a' : Nat) (v : Nat) : State :=
          ((s.modElem k fun e => { e with alw := Tbl.set e.alw d a', q := Tbl.set e.q d rest }).ctrDone r v).serveSlice k d n
        if e.lost then ((s.modElem k fun e => { e with q := Tbl.set e.q d rest }).ctrFault r 3 0).serveSlice k d n
        else
          match r.op with
          | .decAll m => if m ≤ a then pop (a - m) 1 else s
          | .decPart m => if m ≤ a then pop (a - m) m else s
          | .inc m => if a + m ≤ ctrCap (s.elemDies e).length then pop (a + m) 0 else s
          | _ => s

/-- Serve every die's slice. -/
def State.serveAll (s : State) (k : Nat) : State :=
  (s.elemDies (s.elem k)).foldl (fun s d => s.serveSlice k d ((s.elem k).queue d).length) s

/-! ## The home (R123, R124) -/

/-- The home opens a recall: the reserve goes into the pool, and requests that have reached it join the queue. -/
def State.openRecall (s : State) (k : Nat) : State :=
  s.modElem k fun e =>
    match e.recallOf with
    | some _ => e
    | none =>
      let joined := e.asked.filterMap fun a => (e.queue a.1).head?
      { e with
        recallOf := some ⟨[], e.reserve, s.thyme⟩
        reserve := 0
        hq := e.hq ++ joined
        q := e.asked.foldl (fun q a => Tbl.set q a.1 ((Tbl.getD q a.1 []).drop 1)) e.q
        asked := [] }

/-- R124, step 4, for one operation: the pool after it. -/
def State.serveHome (s : State) (k : Nat) (pool : Nat) (r : CtrReq) : State × Nat :=
  let lost := (s.elem k).lost
  match r.op with
  | .set v =>
    ((s.modElem k fun e => { e with lost := false }).ctrDone r (if lost then 2 ^ 64 - 1 else pool), v)
  | .read => if lost then (s.ctrFault r 3 0, pool) else (s.ctrDone r pool, pool)
  | .decAll n =>
    if lost then (s.ctrFault r 3 0, pool) else if n ≤ pool then (s.ctrDone r 1, pool - n) else (s.ctrDone r 0, pool)
  | .decPart n => if lost then (s.ctrFault r 3 0, pool) else (s.ctrDone r (min n pool), pool - min n pool)
  | .inc n =>
    if lost then (s.ctrFault r 3 0, pool)
    else if pool + n ≤ ctrMax then (s.ctrDone r 0, pool + n)
    else (s.ctrFault r 2 n, pool)

def State.serveHomeQueue (s : State) (k : Nat) (pool : Nat) : List CtrReq → State × Nat
  | [] => (s, pool)
  | r :: rest =>
    let (s1, p1) := s.serveHome k pool r
    s1.serveHomeQueue k p1 rest

/-- R124, steps 4 and 5. -/
def State.closeRecall (s : State) (k : Nat) (pool : Nat) : State :=
  let e := s.elem k
  let ds := s.elemDies e
  let D := max ds.length 1
  let (s1, p) := (s.modElem k fun e => { e with hq := [] }).serveHomeQueue k pool e.hq
  let share := p / (2 * D)
  let s2 := s1.modElem k fun e => { e with
    recallOf := none
    reserve := p - share * ds.length
    alw := ds.foldl (fun a d => Tbl.set a d share) [] }
  s2.serveAll k

/-! ## Arrival of an operation -/

/-- An operation of a team reaches Sorrel (R96): BCREAD and BCSET go to the home; the others to the slice of the team's die. -/
def State.ctrArrive (s : State) (t : Team) (e : SqEntry) (k : Nat) (op : CtrOp) : State :=
  let r : CtrReq := ⟨t.tk, e.id, t.die, op, e.acq, e.dest, e.pc, e.rpc, e.word, e.addr⟩
  let s1 := s.modElem k fun x => { x with vf := t.vf, obj := hObj e.addr, idx := hOff e.addr / 8 }
  let x := s1.elem k
  if x.lost && (match op with | .set _ => false | _ => true) then s1.ctrFault r 3 0
  else
    match op with
    | .read | .set _ => s1.modElem k fun x => { x with hq := x.hq ++ [r] }
    | .inc n =>
      if x.held t.die ∧ n ≤ ctrCap (s1.elemDies x).length ∧ x.value + n ≤ ctrMax then
        -- step 2 of R124: the amount joins the pool at once (DEDUCED, assumption 16)
        (s1.modElem k fun x => { x with recallOf := x.recallOf.map fun c => { c with pool := c.pool + n } }).ctrDone r 0
      else
        let s2 := s1.modElem k fun x => { x with q := Tbl.set x.q t.die (x.queue t.die ++ [r]) }
        s2.serveSlice k t.die ((s2.elem k).queue t.die).length
    | _ =>
      let s2 := s1.modElem k fun x => { x with q := Tbl.set x.q t.die (x.queue t.die ++ [r]) }
      s2.serveSlice k t.die ((s2.elem k).queue t.die).length

/-- Whether an operation already waits at Sorrel. -/
def State.ctrWaits (s : State) (k tk id : Nat) : Bool :=
  let e := s.elem k
  let me (r : CtrReq) : Bool := r.tk == tk && r.id == id
  e.hq.any me || e.q.any fun q => q.2.any me

/-! ## The events -/

/-- SHORTFALL_REQUEST (R122): the slice asks the home; while a recall is open the request joins its queue (R124). -/
def execShortfallRequest (elem die : Nat) (s : State) : Result :=
  .next <|
    let e := s.elem elem
    if e.held die || e.behind die || e.lost then s
    else
      match e.queue die with
      | [] => s
      | r :: rest =>
        match r.op with
        | .decAll n | .decPart n =>
          if n ≤ e.allow die then s
          else if e.recallOf.isSome then
            s.modElem elem fun e => { e with hq := e.hq ++ [r], q := Tbl.set e.q die rest }
          else s.modElem elem fun e => { e with asked := e.asked ++ [(die, n - e.allow die)] }
        | _ => s

/-- COUNTER_GRANT (R123): a shortfall within the reserve is granted, and the slice serves what waits. -/
def execCounterGrant (elem : Nat) (s : State) : Result :=
  .next <|
    let e := s.elem elem
    match e.asked with
    | [] => s
    | (d, f) :: rest =>
      if e.recallOf.isSome || !e.hq.isEmpty || e.lost || decide (e.reserve < f) then s
      else
        let g := min e.reserve (max f (e.reserve / 2))
        let s1 := s.modElem elem fun e => { e with
          asked := rest
          reserve := e.reserve - g
          alw := Tbl.set e.alw d (e.allow d + g) }
        s1.serveSlice elem d ((s1.elem elem).queue d).length

/-- COUNTER_RECALL (R123, R124): a shortfall above the reserve, a BCREAD or a BCSET starts a recall. -/
def execCounterRecall (elem : Nat) (s : State) : Result :=
  .next <|
    let e := s.elem elem
    if e.recallOf.isNone ∧ (!e.hq.isEmpty ∨ e.asked.any fun a => decide (e.reserve < a.2)) then s.openRecall elem else s

/-- RECALL_ANSWER (R124): a slice returns its allowance; the last answer serves the queue and shares the pool out. -/
def execRecallAnswer (elem die : Nat) (s : State) : Result :=
  .next <|
    let e := s.elem elem
    match e.recallOf with
    | none => s
    | some r =>
      if !(s.elemDies e).contains die || r.answered.contains die then s
      else
        let pool := r.pool + e.allow die
        let r1 : Recall := { r with answered := die :: r.answered, pool := pool }
        let s1 := s.modElem elem fun e => { e with recallOf := some r1, alw := Tbl.set e.alw die 0 }
        if (s.elemDies e).all fun d => r1.answered.contains d then s1.closeRecall elem pool else s1

/-- FORWARDED_BCINC (R351): it joins the home's queue, and starts a recall when none is open. -/
def execForwardedBcinc (elem die : Nat) (s : State) : Result :=
  .next <|
    let e := s.elem elem
    if e.behind die || e.lost then s
    else
      match e.queue die with
      | [] => s
      | r :: rest =>
        match r.op with
        | .inc n =>
          if e.held die || decide (ctrCap (s.elemDies e).length < e.allow die + n) then
            (s.modElem elem fun e => { e with hq := e.hq ++ [r], q := Tbl.set e.q die rest }).openRecall elem
          else s
        | _ => s

/-- COUNTER_RECALL_TIMEOUT (R352): a slice has not answered within 10 µs. -/
def execCounterRecallTimeout (elem die : Nat) (s : State) : Result :=
  .next <|
    let e := s.elem elem
    match e.recallOf with
    | none => s
    | some r =>
      if !(s.elemDies e).contains die || r.answered.contains die || decide (s.thyme < r.since + 10000) then s
      else
        let s1 := s.modElem elem fun e => { e with
          recallOf := none
          lost := true
          hq := []
          asked := []
          reserve := 0
          alw := [] }
        (e.hq.foldl (fun s r => s.ctrFault r 4 die) s1).serveAll elem

end Sys2Proof.Machine
end

