-- ==== Sys2Proof/Machine/Moves.lean ====
section
/-! DEFINITION. The steps of the ordering machine (06 R87 to R96; 07 R88, R114) and the TLB's walk (05 R74, 23 R343). Each is
one event of the opcode table; one whose conditions do not hold leaves the state as it is (DESIGN CHOICE, assumption 19). -/

namespace Sys2Proof.Machine

/-! ## Conditions on an entry of SQ(T) -/

/-- R90 to R92 for entry e: no older overlapping store or load of the team remains, no older acquire or fence holds it, and its
own release holds. Entries that skip accepts do not count. -/
def State.mayLeave (s : State) (t : Team) (e : SqEntry) (skip : SqEntry → Bool) : Bool :=
  t.sq.all (fun x => decide (e.id ≤ x.id) || skip x || !(x.op.isStore || x.op.isAtomic) || !overlap x.loc x.len e.loc e.len)
    && t.tq.all (fun x => decide (e.base ≤ x.id) || !x.overlaps e.loc e.len)
    && t.orderOpen e.base
    && (match e.rel with | none => true | some sc => s.releaseOk t e.base sc)

/-- The partial writers of a range, other than a team's own. -/
def State.writersOf (s : State) (tk loc n : Nat) : List Nat :=
  s.partials.filterMap fun p => if p.tk != tk && p.live.any (fun a => within a loc n) then some p.id else none

/-! ## Satisfying a load -/

def execSatisfyLoad (tk id piece : Nat) (grant : Bool) (s : State) : Result :=
  .next <| match s.team? tk with
  | none => s
  | some t =>
    match t.tq.find? (fun e => e.id == id) with
    | none => s
    | some e =>
      match e.op with
      | .fence _ => s
      | .load ps acc =>
        match ps[piece]? with
        | none => s
        | some p =>
          if !t.loadReady e.id e.base p.loc p.len || !(e.lane || s.mayRead t id p) || !s.bankFree e.base e.dest.pass p.loc p.len then s
          else if s.readsLost t id p then
            (s.putTeam (t.dropTq id)).latePrecise tk ⟨0x48, s.dataDetail p.loc, e.addr, qn p.loc⟩ e.dest e.pc e.rpc e.word
          else
            let (v, obs, home) := s.loadBytes t id p.loc p.len
            let line := p.loc / 128
            let acc1 := qn (acc.toNat + v * 2 ^ (8 * p.off))
            let rest := ps.eraseIdx piece
            let t0 := t.see obs
            let t1 := if home && !e.lines.contains line then
                { t0 with tq := updWhere t0.tq (fun x => x.base == e.base) fun x => { x with lines := x.lines ++ [line] } }
              else t0
            let t2 := if rest.isEmpty then (t1.dropTq id).deliver e.dest acc1.toNat
              else { t1 with tq := updWhere t1.tq (fun x => x.id == id) fun x => { x with op := .load rest acc1 } }
            let s1 := (s.putTeam t2).serveBank e.base e.dest.pass p.loc p.len
            if home && !e.lane then s1.atHome t2 p.loc p.home e.repl grant (e.lines.contains line) else s1

/-! ## Moving stores -/

def SqOp.value : SqOp → QWord
  | .store v => v
  | _ => 0

/-- Entry e leaves SQ(T): a scratchpad store writes its bank, any other enters CV(C). -/
def State.leaveOne (s : State) (t : Team) (e : SqEntry) : State :=
  let s1 := s.modTeam t.tk fun t => t.dropSq e.id
  if isBank e.loc then (s1.performStore e.id t.tk t.die t.die e.loc (leBytes e.len e.op.value.toNat)).serveBank e.base e.dest.pass e.loc e.len
  else
    let c : CvEntry := ⟨e.id, e.base, t.tk, e.loc, e.len, e.home, e.op.value, e.pc, e.word, e.addr, e.space == .lane⟩
    { s1 with cvs := Tbl.set s1.cvs t.core (s1.cv t.core ++ [c]) }

def execLeaveStoreQueue (tk id : Nat) (s : State) : Result :=
  .next <| match s.team? tk with
  | none => s
  | some t =>
    match t.sq.find? (fun e => e.id == id) with
    | none => s
    | some e =>
      if !e.op.isStore then s
      else if isBank e.loc then
        let us := s.lostIn e.loc e.len
        if !s.mayLeave t e (fun _ => false) || s.writeFrozen e.loc || !s.bankFree e.base e.dest.pass e.loc e.len then s
        else if us.isEmpty then s.leaveOne t e
        else
          let group := t.sq.filter fun x => x.base == e.base && x.op.isStore && us.any fun u => overlap x.loc x.len (LostUnit.range u).1 4
          if us.all (coversUnit (group.map fun x => (x.loc, x.len))) then
            if group.all fun x => s.mayLeave t x fun y => y.base == e.base then
              us.foldl State.restoreUnit (group.foldl (fun s x => s.leaveOne t x) s)
            else s
          else (s.modTeam tk fun t => t.dropSq id).lateFault tk (partialWrite e.addr e.loc) e.pc e.word
      else if s.mayLeave t e fun _ => false then s.leaveOne t e
      else s

/-- A store of CV(C) is performed at its home. -/
def State.performOne (s : State) (core : Nat) (e : CvEntry) : State :=
  let s1 : State := { s with cvs := Tbl.set s.cvs core ((s.cv core).filter fun x => x.id != e.id) }
  s1.performStore e.id e.tk (coreDie core) (l2Die e.home) e.loc (leBytes e.len e.v.toNat)

/-- No older store of CV(C) to an overlapping byte remains. -/
def cvFirst (cv : List CvEntry) (e : CvEntry) (skip : CvEntry → Bool) : Bool :=
  (cv.takeWhile fun x => x.id != e.id).all fun x => skip x || !overlap x.loc x.len e.loc e.len

def execPerform (core id : Nat) (s : State) : Result :=
  .next <|
    let cv := s.cv core
    match cv.find? (fun e => e.id == id) with
    | none => s
    | some e =>
      if s.writeFrozen e.loc || !cvFirst cv e (fun _ => false) || !(e.lane || s.mayWrite core e.home e.loc e.len) then s
      else
        match s.lostIn e.loc e.len with
        | [] => s.performOne core e
        | u :: _ =>
          let r := LostUnit.range u
          let mine (x : CvEntry) : Bool := x.base == e.base && x.tk == e.tk
          let here := cv.filter fun x => mine x && overlap x.loc x.len r.1 r.2
          let later := ((s.team? e.tk).map Team.sq).getD [] |>.filter fun x => x.base == e.base && x.op.isStore && overlap x.loc x.len r.1 r.2
          if coversUnit ((here.map fun x => (x.loc, x.len)) ++ later.map fun x => (x.loc, x.len)) u then
            if later.isEmpty && here.all (fun x => cvFirst cv x mine) then
              (here.foldl (fun s x => s.performOne core x) s).restoreUnit u
            else s
          else
            ({ s with cvs := Tbl.set s.cvs core (cv.filter fun x => x.id != id) } : State).lateFault e.tk (partialWrite e.addr e.loc) e.pc e.word

/-! ## Atomics (R95, R239 to R241), counters, arrivals and TRIG -/

/-- The value an atomic writes over old; none when it writes nothing: a compare that fails (R240, R241), or a CASG whose new value is the
old one (R240). -/
def SqOp.apply (op : SqOp) (len : Nat) (old : Nat) : Option Nat :=
  match op with
  | .rmw o v => some (if len = 8 then (atomOp o (qn old) v).toNat else (atomOp o (BitVec.ofNat 32 old) (lowW v)).toNat)
  | .swap v => some (v.toNat % 2 ^ (8 * len))
  | .cas e v =>
    let n := v.toNat % 2 ^ (8 * len)
    if old = e.toNat % 2 ^ (8 * len) ∧ n ≠ old then some n else none
  | .scas e v => if old = e.toNat % 2 ^ (8 * len) then some (v.toNat % 2 ^ (8 * len)) else none
  | .fadd f v mode =>
    some (match f with
      | .f32 => fp32.addC mode old v.toNat
      | .h2 => (faddPair fp16 mode (BitVec.ofNat 32 old) v).toNat
      | .b2 => (faddPair bf16 mode (BitVec.ofNat 32 old) v).toNat)
  | _ => none

/-- What an atomic asks of a remote module (R314). -/
def SqOp.remoteOp (op : SqOp) (len : Nat) : RemoteOp :=
  match op with
  | .rmw o v => .rmw o len v
  | .swap v => .swap len v
  | .cas e v => .cas len e v
  | .scas e v => .scas e v
  | .fadd f v mode => .fadd f v mode
  | _ => .read len

/-- Send a request to another module; sequence numbers name requests (R371). -/
def State.sendRemote (s : State) (m asid obj off : Nat) (op : RemoteOp) (who : RemoteFor) : State :=
  let r : RemoteReq := ⟨s.modNum, s.nextId, asid, obj, off, op⟩
  let s1 : State := { s with remotes := s.remotes ++ [⟨s.nextId, m, r, who, s.thyme⟩] }
  (s1.emit (.remote m r)).fresh

/-- Whether an atomic waits for a reply from another module. -/
def State.remoteWaits (s : State) (tk id : Nat) : Bool :=
  s.remotes.any fun r => match r.who with | .atom k e => k == tk && e.id == id | _ => false

/-- A memory atomic at its home or bank. -/
def State.performAtomic (s : State) (t : Team) (e : SqEntry) : State :=
  match s.lostIn e.loc e.len with
  | _ :: _ =>
    (s.modTeam t.tk fun t => t.dropSq e.id).latePrecise t.tk ⟨0x48, s.dataDetail e.loc, e.addr, qn e.loc⟩ e.dest e.pc e.rpc e.word
  | [] =>
    let old := s.rdNat e.loc e.len
    let t1 := if e.returns then ((t.dropSq e.id).see (s.writersOf t.tk e.loc e.len)).deliver e.dest old else t.dropSq e.id
    let s1 := s.putTeam t1
    match e.op.apply e.len old with
    | some v => (s1.performStore e.id t.tk t.die (if isBank e.loc then t.die else l2Die e.home) e.loc (leBytes e.len v)).serveBank e.base e.dest.pass e.loc e.len
    | none =>
      if isPhys e.loc then s1.modGran (e.loc / 65536) fun g => { g with wr := g.wr + 1, acc := g.acc + 1 }
      else s1.serveBank e.base e.dest.pass e.loc e.len

/-- An arrival counts (R251, R252): BARA and TBARR return the phase, BARAW waits for it. -/
def State.performArrival (s : State) (t : Team) (e : SqEntry) (k : BarKey) : State :=
  match s.barrier? k with
  | none => s.putTeam (t.dropSq e.id)
  | some b =>
    let t1 := (t.dropSq e.id).deliver e.dest b.ph
    let w := t1.wait.map fun w =>
      match w.on with
      | .bar k' none sd own => if k' = k then { w with on := .bar k' (some b.ph) sd own } else w
      | _ => w
    (s.putTeam { t1 with wait := w }).modBarrier k Barrier.arrive

/-- Every store of CV(C) to an overlapping byte has been performed (R95). -/
def State.cvClear (s : State) (core loc n : Nat) : Bool := (s.cv core).all fun x => !overlap x.loc x.len loc n

/-- ATOMIC_PERFORM: an atomic acts at its home; an arrival, TRIG or a counter operation reaches its unit. -/
def execAtomicPerform (tk id : Nat) (s : State) : Result :=
  .next <| match s.team? tk with
  | none => s
  | some t =>
    match t.sq.find? (fun e => e.id == id) with
    | none => s
    | some e =>
      if !s.mayLeave t e fun _ => false then s
      else
        match e.op with
        | .store _ => s
        | .enq _ _ => s
        | .trig => (s.putTeam { t.dropSq id with trig := true }).settleTrig t.launch
        | .arrive k => s.performArrival t e k
        | .ctr k op =>
          if s.ctrWaits k tk id || !s.cvClear t.core e.loc e.len || s.writeFrozen e.loc then s else s.ctrArrive t e k op
        | _ =>
          if e.space = .remote then
            if s.remoteWaits tk id then s
            else s.sendRemote (remMod e.loc) (remAsid e.loc) (remObj e.loc) (remOff e.loc) (e.op.remoteOp e.len) (.atom tk e)
          else if !s.cvClear t.core e.loc e.len || s.writeFrozen e.loc || !s.bankFree e.base e.dest.pass e.loc e.len
              || !s.mayAtomic t.core e.home e.loc then s
          else s.performAtomic t e

/-! ## Fences, replicas, translation -/

def execFenceComplete (tk id : Nat) (s : State) : Result :=
  .next <| match s.team? tk with
  | none => s
  | some t =>
    match t.tq.find? (fun e => e.id == id) with
    | none => s
    | some e =>
      match e.op with
      | .load _ _ => s
      | .fence sc => if s.releaseOk t id sc then s.putTeam (t.dropTq id) else s

/-- Stores whose GWCT has come are Complete and need not be kept (R85). -/
def State.prune (s : State) : State := { s with partials := s.partials.filter fun p => !s.partialDone p }

def execReplicaCollapse (die line : Nat) (s : State) : Result := .next (s.dropReplica die line).prune

def execLeaseExpiry (die line : Nat) (s : State) : Result :=
  .next <| match Tbl.get? s.replicas (replicaKey die line) with
  | some r => if r.exp ≤ s.thyme then (s.dropReplica die line).prune else s
  | none => s

/-- Install an entry; a cluster holds 8,192 (R12), and one that is full drops the entry it installed first (DESIGN CHOICE, assumption 29). -/
def State.installTlb (s : State) (e : TlbEntry) : State :=
  let mine := s.tlb.filter fun x => x.cluster == e.cluster
  let kept := if mine.length < 8192 then s.tlb else match mine.head? with | some x => s.tlb.erase x | none => s.tlb
  { s with tlb := kept ++ [e] }

/-- TLB_WALK (R74, R343): read the descriptor and the extent list; a granule the partition does not own installs nothing (DESIGN CHOICE, assumption 29). -/
def execTlbWalk (cluster asid obj gran : Nat) (s : State) : Result :=
  .next <| match Tbl.get? s.asids asid with
  | none => s
  | some a =>
    let clear : State := { s with tlb := s.tlb.filter fun e => !(e.cluster == cluster && e.asid == asid && e.obj == obj && e.gran == gran) }
    let h := mkHandle obj (gran * 65536)
    match clear.desc cluster asid h with
    | .error _ => s
    | .ok d =>
      if d.kind = 4 ∨ s.extBad d ∨ (clear.walkLost cluster asid h d).isSome then s
      else
        match granOf (s.extents d) gran with
        | none => s
        | some st =>
          if s.ownsGran a.vf st then clear.installTlb ⟨cluster, asid, obj, gran, st, d⟩ else s

end Sys2Proof.Machine
end

