-- ==== Sys2Proof/Machine/Tokens.lean ====
section
/-! DEFINITION. The token protocol inside a die (07 R105 to R113), collapses (R115), its deadlines (23 R349) and the
isolation of a core (24 R364). The protocol refines the ordering machine and adds no outcome (DEDUCED, assumption 6). -/

namespace Sys2Proof.Machine

/-- The pieces of global memory that a team reads with no entry in its queues: of its next fetch, of the frames of its next instruction
or of the JOIN that it waits in, and of the flag that it waits for (R97, R226, R246). -/
def State.wantReads (s : State) (t : Team) : List Piece :=
  (if t.loadsCode t.pc then (match s.fetchLoc t t.pc with | .ok ps => ps | .error _ => []) else [])
    ++ match t.wait.map Wait.on with
      | some (.memw h _ w32 _ _ _) => (s.access t .global .load h 0 (if w32 then 4 else 8) 0 0 0).pieces
      | some .join => s.needPieces t (t.frameNeeds .join)
      | some _ => []
      | none => match s.peek t with | some i => s.needPieces t (t.frameNeeds i) | none => []

/-- The pieces that Dill is to write for a team whose flag is set: those of its oldest promotable frame, and of the stack of the team to
be (R51, R105). -/
def State.wantWrites (s : State) (t : Team) : List Piece :=
  if !t.pending then []
  else
    let ps (h : QWord) : List Piece := (s.access t .global .store h 0 256 0 0 0).pieces
    match s.oldest t, s.roomFor t with
    | some x, some r => ps x.1 ++ ps r.fsb
    | _, _ => []

/-- The partition and the home slice of a line, from an access of a core to it that has not acted, or from its cluster's TLB (R72,
R74). -/
def State.lineHome (s : State) (core line : Nat) : Option (Nat × Nat) :=
  let load (t : Team) : Option (Nat × Nat) := t.tq.findSome? fun e =>
    match e.op with
    | .load ps _ => (ps.find? fun p => p.loc / 128 == line).map fun p => (t.vf, p.home)
    | .fence _ => none
  let atom (t : Team) : Option (Nat × Nat) :=
    (t.sq.find? fun e => e.op.isAtomic && e.space == .global && e.loc / 128 == line).map fun e => (t.vf, e.home)
  let want (t : Team) : Option (Nat × Nat) :=
    if t.running then ((s.wantReads t ++ s.wantWrites t).find? fun p => p.loc / 128 == line).map fun p => (t.vf, p.home) else none
  match (s.cv core).find? fun e => e.loc / 128 == line with
  | some e => some (e.tk / 2 ^ 24, e.home)
  | none =>
    match s.teams.findSome? fun e => if e.2.core = core then (load e.2).or (atom e.2) else none with
    | some x => some x
    | none =>
      match s.tlb.find? fun e => e.cluster == coreCluster core && e.start == line / 512 with
      | some e =>
        let vf := ((Tbl.get? s.asids e.asid).map Asid.vf).getD 0
        let d : Desc := e.desc
        some (vf, s.home vf e.obj (e.gran * 65536 + line % 512 * 128) d.hilv d.hdie)
      | none => s.teams.findSome? fun e => if e.2.core = core then want e.2 else none

/-- The die home Rep(d, n, o) of the line at offset off of object obj, on a die (R105). -/
def State.rep (s : State) (vf die obj off hilv : Nat) : Nat :=
  let sd := ((s.part? vf).map fun p => p.l2s.filter fun l => l2Die l == die).getD []
  sd.getD ((off / 2 ^ (7 + hilv) + obj) % max sd.length 1) 0

/-- The token home of a line for a core's die: the line's home on its own die, else the die home (R105). -/
def State.tokenHome (s : State) (core line : Nat) : Nat :=
  let home := ((s.lineHome core line).map (·.2)).getD 0
  let die := coreDie core
  if l2Die home = die then home
  else
    match s.tlb.find? fun e => e.cluster == coreCluster core && e.start == line / 512 with
    | some e => s.rep (((Tbl.get? s.asids e.asid).map Asid.vf).getD 0) die e.obj (e.gran * 65536 + line % 512 * 128) (Desc.hilv e.desc)
    | none => home

/-- Cores that an entry names (R110): pointers, groups, or the holders of byte masks. -/
def Dir.named (d : Dir) (die : Nat) (inPart : Nat → Bool) : List Nat :=
  match d.mode with
  | 1 => d.ptrs.map fun c => 48 * die + c
  | 2 => ((List.range 48).filter fun c => d.cvec.getLsbD (c / 4)).map (fun c => 48 * die + c) |>.filter inPart
  | 3 => d.masks.map (·.1)
  | _ => []

def State.inPartition (s : State) (vf core : Nat) : Bool := ((s.part? vf).map fun p => p.owns (coreGran core)).getD false

/-- Take the first message that matches out of flight. -/
def State.receive (s : State) (p : Msg → Bool) : Option (Msg × State) :=
  (s.msgs.find? p).map fun m => (m, { s with msgs := s.msgs.erase m })

/-- The bytes of a line that stores in a core's view are to write (DEDUCED, assumption 35). -/
def State.viewMask (s : State) (core line : Nat) : BitVec 128 :=
  BitVec.ofNat 128 (natOfBits (fun i => (s.cv core).any fun e => within (128 * line + i) e.loc e.len) 128)

/-- A line is contended after four GETX within 1 µs from at least two cores (R112). -/
def State.contended (s : State) (d : Dir) (line : Nat) : Bool :=
  let near := d.getx.filter fun g => decide (s.thyme < g.2 + 1000)
  decide (4 ≤ near.length) && decide (2 ≤ (near.map (·.1)).eraseDups.length) && (s.gran (line / 512)).degree == 0

/-- Note a GETX served; the core's NACKs are forgotten with its access. -/
def State.noteGetx (s : State) (die line core : Nat) : State :=
  s.modDir die line fun d => { d with
    getx := (d.getx.filter fun g => decide (s.thyme < g.2 + 1000)) ++ [(core, s.thyme)], nacks := Tbl.del d.nacks core }

/-- Tokens on their way to a core. -/
def State.coming (s : State) (core line : Nat) : Nat :=
  (s.msgs.map fun m => match m with | .data _ c l n _ => if c = core ∧ l = line then n else 0 | _ => 0).sum

/-- The home of a line that a core reaches is on another die. -/
def State.isFar (s : State) (die core line : Nat) : Bool := ((s.lineHome core line).map fun h => l2Die h.2 != die).getD false

/-- A transaction at a token home ends. -/
def Dir.close (d : Dir) : Dir := { d with opened := none, urgent := none }

/-- The open transaction has its answers, and where tokens must be gathered the home's, with those of the core that is to write,
make 64: it is served and closes (R110 to R113, R115). A line that leaves a privatised mode by a merge is contended anew from
its next GETX (DESIGN CHOICE, assumption 52). While a line is privatised its token home holds all 64 tokens, the owner token among them
(DESIGN CHOICE, assumption 61). -/
def State.closeReq (s : State) (die line : Nat) : State :=
  let d := s.dir die line
  match d.opened with
  | some (c, write, 0) =>
    let far := decide (c < collapseReq) && write && s.isFar die c line
    if (write ∧ c < collapseReq ∧ !far ∧ d.htok + d.held c + s.coming c line ≠ 64) ∨ ((far ∨ collapseReq ≤ c) ∧ d.htok ≠ 64)
        ∨ (!write ∧ d.htok = 0) then s
    else
      let merged := d.mode == 3
      let s0 := s.modDir die line fun d => { d.close with
        masks := [], mode := if merged then 0 else d.mode, getx := if merged then [] else d.getx }
      if c = collapseReq then ((s0.removeReplica die line).modDir die line fun x => { x with pers := d.pers }).sendCack die line
      else if c = leaveReq then s0.modDir die line fun d => { d with mode := 0, ptrs := [], cvec := 0, owner := none }
      else if far then (s0.modDir die line fun d => { d with mode := 0, ptrs := [], cvec := 0, owner := none }).noteGetx die line c
      else if write then
        let s1 := s0.noteGetx die line c
        if !merged && s1.contended (s1.dir die line) line && s1.coming c line == 0 then
          s1.modDir die line fun d => { d with
            mode := 3, ptrs := [], cvec := 0, owner := none, htok := 64, toks := Tbl.del d.toks c, masks := [(c, s.viewMask c line)] }
        else
          let n := (s1.dir die line).htok
          (s1.modDir die line fun d => { d with mode := 1, ptrs := [c % 48], cvec := 0, owner := some c }).sendData die line c n
      else (s0.modDir die line fun d => d.addHolder c).sendData die line c 1
  | _ => s

/-- Open a transaction that recalls cores. -/
def State.openReq (s : State) (die line core : Nat) (write : Bool) (ts : List Nat) : State :=
  ((s.modDir die line fun d => { d with opened := some (core, write, ts.length) }).post
    (ts.map fun c => Msg.recall die c line s.thyme)).closeReq die line

/-- Begin to serve a request at the token home. On a die that is not the line's and holds no live replica there is nothing to
grant: the access is forwarded and served at the line's home (R106). A GETX on the line's own die sends the COLLAPSEs as well
(R283); on another die it gathers the die's tokens at their home (R115). -/
def State.beginReq (s : State) (die line core : Nat) (write : Bool) : State :=
  match s.lineHome core line with
  | none => s.modDir die line fun d => { d with nacks := Tbl.del d.nacks core }
  | some (vf, home) =>
    let d := s.dir die line
    let atHome := die == l2Die home
    let names := d.named die (s.inPartition vf)
    if !atHome && (s.replica? die line).isNone then s.modDir die line fun d => { d with nacks := Tbl.del d.nacks core }
    else if d.mode = 3 then
      let s := if write && atHome then s.sendCollapses line die die else s
      let want := s.viewMask core line
      let clash := d.masks.any fun m => m.1 != core && (m.2 &&& want) != 0
      let more := decide (4 ≤ (d.masks.filter fun m => m.1 != core).length)
      if write && !clash && !more then
        (s.modDir die line fun d => { d with masks := Tbl.set d.masks core (Tbl.getD d.masks core 0 ||| want) }).noteGetx die line core
      else s.openReq die line core write names
    else if write then
      let s1 := if atHome then s.sendCollapses line die die else s
      s1.openReq die line core true (if atHome then names.filter fun c => c != core else names)
    else if d.htok = 0 then
      match d.owner with
      | some o => (s.modDir die line fun d => { d with opened := some (core, false, 1) }).post [.down die o line]
      | none => s
    else (s.modDir die line fun d => d.addHolder core).sendData die line core 1

/-- Serve persistent requests in arrival order while no transaction is open (R110). -/
def State.servePers (s : State) (die line : Nat) : Nat → State
  | 0 => s
  | n + 1 =>
    let d := s.dir die line
    match d.opened, d.pers with
    | none, (c, w, t) :: rest =>
      let s1 := (s.modDir die line fun d => { d with pers := rest, urgent := some t, nacks := Tbl.del d.nacks c }).beginReq die line c w
      (if (s1.dir die line).opened.isNone then s1.modDir die line Dir.close else s1).servePers die line n
    | _, _ => s

def State.servePersAll (s : State) (die line : Nat) : State := s.servePers die line (s.dir die line).pers.length

/-- An answer reaches the token home: tokens and messages are counted separately (R111). -/
def State.answerReq (s : State) (die line toks : Nat) (data : Bool) : State :=
  let s1 := s.modDir die line fun d => { d with
    htok := d.htok + toks
    owner := if data then none else d.owner
    opened := d.opened.map fun o => (o.1, o.2.1, o.2.2 - 1) }
  (s1.closeReq die line).servePersAll die line

/-! ## Requests of a core: each step sends the message, or delivers the one in flight (DESIGN CHOICE, assumption 6) -/

/-- A request reaches its token home: one that meets an open transaction is refused (R110). -/
def State.request (s : State) (core line : Nat) (write : Bool) : State :=
  let die := coreDie core
  if (s.dir die line).opened.isSome then
    (s.modDir die line fun d => { d with nacks := Tbl.set d.nacks core (Tbl.getD d.nacks core 0 + 1) }).post [.nack die core line]
  else s.beginReq die line core write

/-- What a core has outstanding for a line: a request, its answer, or a place in the persistent queue. -/
def State.asking (s : State) (core line : Nat) : Bool :=
  let d := s.dir (coreDie core) line
  d.pers.any (fun p => p.1 == core) || (d.opened.map (·.1)) == some core
    || s.msgs.any fun m =>
        match m with
        | .gets _ c l | .getx _ c l | .pers _ c l _ _ | .data _ c l _ _ | .nack _ c l => c == core && l == line
        | _ => false

/-- Whether a core may send a request for a line. -/
def State.mayAsk (s : State) (core line : Nat) : Bool := !s.asking core line && (s.lineHome core line).isSome

/-- GETS (R109, R110). -/
def execGets (core line : Nat) (s : State) : Result :=
  .next <|
    let die := coreDie core
    match s.receive (· == .gets die core line) with
    | some (_, s1) => s1.request core line false
    | none => if s.mayAsk core line && decide (Tbl.getD (s.dir die line).nacks core 0 < 2) then s.post [.gets die core line] else s

/-- GETX (R109, R110). -/
def execGetx (core line : Nat) (s : State) : Result :=
  .next <|
    let die := coreDie core
    match s.receive (· == .getx die core line) with
    | some (_, s1) => s1.request core line true
    | none => if s.mayAsk core line && decide (Tbl.getD (s.dir die line).nacks core 0 < 2) then s.post [.getx die core line] else s

/-- PERS follows the second NACK; a core has at most one per line. -/
def execPers (core line : Nat) (write : Bool) (s : State) : Result :=
  .next <|
    let die := coreDie core
    match s.receive (fun m => match m with | .pers d c l _ _ => d == die && c == core && l == line | _ => false) with
    | some (.pers _ _ _ w t, s1) => (s1.modDir die line fun d => { d with pers := d.pers ++ [(core, w, t)] }).servePersAll die line
    | _ =>
      if s.mayAsk core line && decide (2 ≤ Tbl.getD (s.dir die line).nacks core 0) then s.post [.pers die core line write s.thyme] else s

/-- Tokens that come home outside a transaction's answers; stays: their core still holds or awaits others. -/
def Dir.takeBack (d : Dir) (core n : Nat) (data stays : Bool) : Dir :=
  let d1 := { d with
    htok := d.htok + n
    owner := if data then none else d.owner
    ptrs := if d.mode = 1 && !stays then d.ptrs.filter fun c => c != core % 48 else d.ptrs }
  if d1.htok = 64 ∧ d1.mode ≠ 3 then { d1 with mode := 0, ptrs := [], cvec := 0 } else d1

/-- The line's bytes, where a message carries them (Table 7.2). -/
def State.carried (s : State) (die line : Nat) (yes : Bool) : Option (List Byte) := if yes then some (s.lineBytes die line) else none

/-- EVICT (R111): all the core's tokens leave it, and come home. -/
def execEvict (core line : Nat) (s : State) : Result :=
  .next <|
    let die := coreDie core
    match s.receive (fun m => match m with | .evict d c l _ _ => d == die && c == core && l == line | _ => false) with
    | some (.evict _ _ _ n data, s1) =>
      let stays := (s1.dir die line).held core != 0 || s1.coming core line != 0
      ((s1.modDir die line fun d => d.takeBack core n data.isSome stays).closeReq die line).servePersAll die line
    | _ =>
      let d := s.dir die line
      if d.held core = 0 then s
      else
        (s.modDir die line fun d => { d with toks := Tbl.del d.toks core }).post
          [.evict die core line (d.held core) (s.carried die line (d.owner == some core))]

/-- A line is to leave its L2 slice: the home first recalls every token of it (R111). -/
def State.leaveSlice (s : State) (die line : Nat) : State :=
  let d := s.dir die line
  if d.opened.isSome then s else s.openReq die line leaveReq true (d.named die fun _ => true)

/-! ## Messages in flight -/

/-- DATA reaches the core. -/
def execData (core line : Nat) (s : State) : Result :=
  .next <| match s.receive (fun m => match m with | .data _ c l _ _ => c == core && l == line | _ => false) with
  | some (.data die _ _ n _, s1) => s1.modDir die line fun d => { d with toks := Tbl.set d.toks core (d.held core + n) }
  | _ => s

/-- DOWN reaches the owner, which answers with 63 tokens and the data and keeps one. -/
def execDown (core line : Nat) (s : State) : Result :=
  .next <| match s.receive (fun m => match m with | .down _ c l => c == core && l == line && s.coming core line == 0 | _ => false) with
  | some (.down die _ _, s1) =>
    let n := (s.dir die line).held core
    (s1.modDir die line fun d => { d with toks := if n = 0 then d.toks else Tbl.set d.toks core 1 }).post
      [.tack die core line (n - 1) (s.carried die line (decide (0 < n)))]
  | _ => s

/-- The stores in a core's view that a merge of a privatised line applies: its own masked bytes, in their order, each as far as it could
be performed at this point (R90, R113). -/
def State.mergeView (s : State) (core line : Nat) : State :=
  (s.cv core).foldl (fun s e =>
    if e.loc / 128 == line && (s.dir (coreDie core) line).covers core e.loc e.len && !s.writeFrozen e.loc
        && (s.lostIn e.loc e.len).isEmpty && cvFirst (s.cv core) e (fun _ => false) then s.performOne core e else s) s

/-- RECALL reaches a core, which answers with every token it holds; a privatised copy brings its bytes. -/
def execRecall (core line : Nat) (s : State) : Result :=
  .next <| match s.receive (fun m => match m with | .recall _ c l _ => c == core && l == line && s.coming core line == 0 | _ => false) with
  | some (.recall die _ _ _, s1) =>
    let d := s.dir die line
    let s2 := if d.mode = 3 then s1.mergeView core line else s1
    (s2.modDir die line fun d => { d with toks := Tbl.del d.toks core }).post
      [.tack die core line (d.held core) (s2.carried die line (d.mode == 3 || d.owner == some core))]
  | _ => s

/-- TACK reaches the token home. -/
def execTack (core line : Nat) (s : State) : Result :=
  .next <| match s.receive (fun m => match m with | .tack _ c l _ _ => c == core && l == line | _ => false) with
  | some (.tack die _ _ n data, s1) => s1.answerReq die line n data.isSome
  | _ => s

/-- NACK reaches the core, which will ask again. -/
def execNack (core line : Nat) (s : State) : Result :=
  .next <| match s.receive (fun m => match m with | .nack _ c l => c == core && l == line | _ => false) with
  | some (_, s1) => s1
  | none => s

/-- COLLAPSE reaches a die (R115): its token home recalls its die's tokens, then drops the replica and answers. -/
def execCollapse (die line : Nat) (s : State) : Result :=
  .next <|
    if (s.dir die line).opened.isSome then s
    else
      match s.receive (· == .collapse die line) with
      | none => s
      | some (_, s1) => (s1.openReq die line collapseReq true ((s1.dir die line).named die fun _ => true)).servePersAll die line

/-- CACK reaches the home, which clears the die's RVEC bit; stores of the line wait for that die no longer. -/
def execCack (die line : Nat) (s : State) : Result :=
  .next <| match s.receive (· == .cack die line) with
  | none => s
  | some (_, s1) =>
    ({ s1 with
      partials := s1.partials.map fun p => if p.line = line then { p with await := p.await.filter (· != die) } else p
      dirs := s1.dirs.map fun e =>
        if e.1 % 2 ^ 40 = line ∧ e.2.col.contains die then
          let gone := (Tbl.get? s1.replicas (replicaKey die line)).isNone
          (e.1, { e.2 with
            rvec := if gone then e.2.rvec &&& ~~~ BitVec.ofNat 8 (2 ^ die) else e.2.rvec
            col := e.2.col.filter fun x => x != die })
        else e } : State).prune

/-! ## Deadlines (R349) -/

/-- Isolate a core (R349, R364): the launches with teams on it are cancelled, and the tokens it held are made anew (DEDUCED, assumption 47). -/
def State.isolateCore (s : State) (core : Nat) : State :=
  let ls := ((s.teams.map (·.2)).filter fun t => t.core == core && t.saved.isNone).map Team.launch |>.eraseDups
  let s1 := ls.foldl (fun s l => s.cancelLaunch l 4) s
  let gone := s1.dirs.filter fun e => e.1 / 2 ^ 40 == coreDie core && e.2.owner == some core
  { s1 with
    fused := if s1.fused.contains core then s1.fused else s1.fused ++ [core]
    lost := s1.lost ++ (gone.map fun e => LostUnit.line (e.1 % 2 ^ 40)).filter fun u => !s1.lost.contains u
    dirs := s1.dirs.map fun e =>
      if e.1 / 2 ^ 40 = coreDie core then
        (e.1, { e.2 with
          htok := e.2.htok + e.2.held core
          toks := Tbl.del e.2.toks core
          owner := if e.2.owner = some core then none else e.2.owner })
      else e }

/-- The accesses of a core to a line fault COHERE. -/
def State.cohere (s : State) (core line detail aux : Nat) : State :=
  let hit (loc n : Nat) : Bool := overlap loc n (128 * line) 128
  let f (a : QWord) : FInfo := ⟨0x49, detail, a, qn aux⟩
  let one (s : State) (t : Team) : State :=
    let loads := t.tq.filter fun e => match e.op with | .load ps _ => ps.any fun p => hit p.loc p.len | .fence _ => false
    let atoms := t.sq.filter fun e => e.op.isAtomic && e.space != .remote && hit e.loc e.len
    let s1 := loads.foldl (fun s e => (s.modTeam t.tk fun t => t.dropTq e.id).latePrecise t.tk (f e.addr) e.dest e.pc e.rpc e.word) s
    atoms.foldl (fun s e => (s.modTeam t.tk fun t => t.dropSq e.id).latePrecise t.tk (f e.addr) e.dest e.pc e.rpc e.word) s1
  let s1 := ((s.teams.map (·.2)).filter fun t => t.core == core && t.saved.isNone).foldl one s
  let stores := (s1.cv core).filter fun e => hit e.loc e.len
  let s2 := stores.foldl (fun s e => s.lateFault e.tk (f e.addr) e.pc e.word) s1
  { s2 with cvs := Tbl.set s2.cvs core ((s2.cv core).filter fun e => !hit e.loc e.len) }

/-- The Thyme of a core's persistent request that waits at its token home, or that it serves and has not granted (R110). -/
def Dir.persSince (d : Dir) (core : Nat) : Option Nat :=
  match d.pers.find? fun p => p.1 == core with
  | some p => some p.2.2
  | none => if d.opened.map (·.1) = some core then d.urgent else none

def execPersistentRequestTimeout (core line silent : Nat) (s : State) : Result :=
  .next <|
    let die := coreDie core
    match (s.dir die line).persSince core with
    | none => s
    | some t =>
      if s.thyme < t + 20000 then s
      else
        let home := s.tokenHome core line
        let s1 := s.modDir die line fun d => if d.opened.map (·.1) = some core then d.close else { d with pers := d.pers.filter fun p => p.1 != core }
        ((s1.cohere core line 1 home).isolateCore silent).servePersAll die line

/-- RECALL_TIMEOUT: the core named has not answered within 10 µs. -/
def execRecallTimeout (core line : Nat) (s : State) : Result :=
  .next <|
    match s.receive (fun m => match m with | .recall _ c l t => c == core && l == line && decide (t + 10000 ≤ s.thyme) | _ => false) with
    | some (.recall die _ _ _, s1) =>
      let asker := ((s.dir die line).opened.map (·.1)).getD collapseReq
      let s2 := if collapseReq ≤ asker then s1 else s1.cohere asker line 2 core
      (s2.isolateCore core).answerReq die line 0 false
    | _ => s

end Sys2Proof.Machine
end

