-- ==== Sys2Proof/Machine/Preempt.lean ====
section
/-! DEFINITION. Waits that return, ticks, deterministic turns, saving and restoring teams, watchdogs (03 R33, R34; 04 R49, R50, R60;
06 R103; 09 R159, R160; 12 R231; 13 R254; 24 R359). -/

namespace Sys2Proof.Machine

/-! ## Deterministic turns (R159, R160) -/

/-- Logical keys compare element by element; a key that begins another comes first (R159). -/
def keyLt : List Nat → List Nat → Bool
  | [], [] => false
  | [], _ => true
  | _, [] => false
  | a :: r, b :: q => decide (a < b) || (a == b && keyLt r q)

/-- Whether a team's turn of a round is still to come. -/
def Team.turnDue (t : Team) (round : Nat) : Bool :=
  !t.ended && decide (t.turn < round) && (match t.first with | some f => decide (f ≤ round) | none => false)

/-- Whether the first round of fleet fid has come. -/
def Launch.fleetDue (l : Launch) (fid : Nat) : Bool := match l.firstRound fid with | some f => decide (f ≤ l.round) | none => false

/-- The key of the first team that is still to be placed although its first round has come: it holds its turn (R160). Beyond the next
fleet only those of the next wave can be such. -/
def Launch.unplacedKey (l : Launch) : Option (List Nat) :=
  if l.placed then none
  else
    let ahead := if l.fleetDue l.next then [0] else List.range (min l.wave (l.nfleets - l.next))
    (ahead.find? fun i => l.fleetDue (l.next + i)).map fun i => [(l.next + i) * l.ncrews * l.nteamsCrew]

/-- The team whose turn it is; none while the turn is held by a team not yet placed, or when the round is over. -/
def State.turnOf (s : State) (uid : Nat) : Option Nat :=
  match s.launch? uid with
  | none => none
  | some l =>
    let ts := (s.teams.map (·.2)).filter fun t => t.launch == uid && t.turnDue l.round
    match ts with
    | [] => none
    | t0 :: r =>
      let b := r.foldl (fun b t => if keyLt t.key b.key then t else b) t0
      match l.unplacedKey with
      | some k => if keyLt k b.key then none else some b.tk
      | none => some b.tk

/-- Every step of what the launch's teams have retired is carried out, to the Complete level (R160, R161). -/
def State.detDrained (s : State) (uid : Nat) : Bool :=
  let mine (tk : Nat) : Bool := ((s.team? tk).map Team.launch) == some uid
  s.teams.all (fun e => e.2.launch != uid || (e.2.tq.isEmpty && e.2.sq.isEmpty && e.2.late.isEmpty && !e.2.ended))
    && s.cvs.all (fun c => c.2.all fun e => !mine e.tk)
    && s.partials.all (fun p => !mine p.tk || s.partialDone p)
    && s.cores.all fun c => c.2.copies.all (fun x => !mine x.tk) && c.2.mats.all fun x => !mine x.tk

/-- Whether every team has taken its turn of the round, what it retired is carried out, and those that ended in it have left (R160). -/
def State.roundOver (s : State) (uid : Nat) : Bool :=
  match s.launch? uid with
  | none => false
  | some l => l.unplacedKey.isNone && s.detDrained uid && s.teams.all fun e => e.2.launch != uid || (!e.2.turnDue l.round && !e.2.ended)

/-- Whether a team may act: in a deterministic launch, on its turn (R160). -/
def State.mayAct (s : State) (t : Team) : Bool := !s.isDet t || (s.turnOf t.launch == some t.tk && s.detDrained t.launch)

/-- Whether a wait can be tested now: the load of a WAITV that cannot be satisfied yet tests nothing. -/
def State.mayTest (s : State) (t : Team) (w : Wait) (grant : Bool) : Bool :=
  match w.on with
  | .memw h _ w32 _ pol _ => (s.waitvLoad t h w32 pol grant).isSome
  | _ => true

/-- A wait of a deterministic team is tested on its turn, which it passes where the condition does not hold, and which goes on
where a latch run begins (R178) (DEDUCED, assumption 37). -/
def State.testOnTurn (s : State) (t : Team) (w : Wait) (grant : Bool) : State :=
  if !s.mayAct t || !s.mayTest t w grant then s
  else
    let s1 := s.testWait t w grant
    if s.isDet t && ((s1.team? t.tk).map Team.runStart) != some (some t.pc) then s1.endTurn t.tk else s1

/-! ## Waits -/

/-- WAIT_RETURN: a Waiting team whose condition holds becomes Ready. -/
def execWaitReturn (tk : Nat) (s : State) : Result :=
  .next <| match s.team? tk with
  | none => s
  | some t =>
    match t.wait with
    | none => s
    | some w =>
      if !t.running || (match w.on with | .memw .. => true | _ => false) then s else s.testOnTurn t w true

/-- WAITV_TEST: a waiting WAITV tests its word again. -/
def execWaitvTest (tk : Nat) (grant : Bool) (s : State) : Result :=
  .next <| match s.team? tk with
  | none => s
  | some t =>
    match t.wait with
    | none => s
    | some w =>
      if !t.running || (match w.on with | .memw .. => false | _ => true) then s else s.testOnTurn t w grant

/-! ## Heartbeats (R49, R50, R60) -/

/-- The Thyme of the next module tick. -/
def State.nextTick (s : State) : Nat := s.hbBase + (s.hbM + 1) * s.hbi * 4 / 9

/-- Flag a team that holds a promotable frame. -/
def State.flag (s : State) (t : Team) : State := if (s.oldest t).isSome then s.putTeam { t with pending := true } else s

def execHeartbeatTick (s : State) : Result :=
  .next <|
    if s.thyme < s.nextTick then s
    else
      let s1 : State :=
        match s.hbiNext with
        | some h => { s with hbi := h, hbiNext := none, hbBase := s.nextTick, hbM := 0 }
        | none => { s with hbM := s.hbM + 1 }
      ((s1.teams.map (·.2)).filter fun t => t.running && !s1.isDet t).foldl State.flag s1

/-- Whether a deterministic team's count has just reached a multiple of its interval. -/
def State.detDue (s : State) (t : Team) : Bool :=
  match s.launch? t.launch with
  | some l => l.det && t.clock != 0 && t.clock % l.hbi == 0 && t.hbAt != t.clock
  | none => false

def execDeterministicHeartbeat (tk : Nat) (s : State) : Result :=
  .next <| match s.team? tk with
  | none => s
  | some t => if s.detDue t then (s.putTeam { t with hbAt := t.clock }).flag { t with hbAt := t.clock } else s

/-! ## Saving and restoring (R33, R103) -/

/-- The largest LEASE in force for a partition in the 4,000 ns before now (R103). -/
def State.maxLease (s : State) (vf : Nat) : Nat :=
  match s.part? vf with
  | none => 1000
  | some p => (p.leases.filter fun l => decide (s.thyme < l.2 + 4000)).foldl (fun m l => max m l.1) p.lease

/-- Stores a team issued or observed that have not been performed. -/
def State.unperformed (s : State) (t : Team) : List Nat :=
  ((t.sq.filter fun e => e.op.isStore || e.op.isAtomic).map SqEntry.id)
    ++ s.cvs.flatMap fun c => (c.2.filter fun e => e.tk == t.tk || t.observed.contains e.id).map CvEntry.id

/-- Save a team at its boundary: it leaves its slot and keeps its context (DEDUCED, assumption 32). A fault noted before parks it first
(R338). -/
def State.saveTeam (s0 : State) (tk : Nat) : State :=
  let s := s0.parkLate tk
  match s.team? tk with
  | none => s
  | some t =>
    if t.ended || t.saved.isSome || (s.isDet t && t.park.isNone && s.inRun t) then s
    else
      let steps := (s.core t.core).mats.filterMap fun m =>
        match m.op with | .mloop .. => if m.tk = tk then some (m.id, m.step) else none | _ => none
      let w := t.wait.map fun w => if t.park.isSome then w else { w with spent := w.spent + (s.thyme - w.since), since := s.thyme }
      let s1 := (s.leaveList t.vf tk).putTeam { s.restart t with
        horizon := s.thyme + s.maxLease t.vf
        owed := s.unperformed t
        wait := w
        floor := 0
        saved := some ⟨t.die, t.core, steps⟩ }
      ((s1.useCluster t.core).modLaunch t.launch fun l => { l with dead := none }).modSlice t.slice fun x => x.release tk true

def execPreemption (tk : Nat) (s : State) : Result := .next (s.saveTeam tk)

/-- Whether a saved team may be restored on a slice (R33). It waits until its loads, stores and atomics have left its queues, so that they
act as if it were still resident (R103, R236, R255) (DESIGN CHOICE, assumption 32). -/
def State.mayRestore (s : State) (t : Team) (sl : Nat) : Bool :=
  match s.launch? t.launch, s.part? t.vf with
  | some l, some p =>
    let c := sl / 6
    s.status.toNat % 256 != 3 && t.tq.isEmpty && t.sq.all (fun e => !(e.op.isStore || e.op.isAtomic)) && p.owns (coreGran c) && !p.noPlace.getLsbD (coreGran c) && s.sliceFits sl t.lanes t.regs 0
      && s.keepsGangs (s.putTeam { t with saved := none, slice := sl, slot := s.freeSlot sl })
      && (if t.forked then true
          else if l.bound then (Tbl.get? s.crews t.crewKey).map Crew.core == some c
          else if l.dspkKiB = 0 then true
          else (t.saved.map SaveInfo.die) == some (coreDie c))
  | _, _ => false

/-- Restore a saved team; one saved from Parked enters Parked again, and its entry is written anew. -/
def State.restoreTeam (s : State) (tk sl : Nat) : State :=
  match s.team? tk with
  | none => s
  | some t =>
    if t.saved.isNone || t.ended || !s.mayRestore t sl then s
    else
      let w := t.wait.map fun w => { w with since := s.thyme }
      let s1 := (s.useCluster (sl / 6)).putTeam { t with saved := none, slice := sl, slot := s.freeSlot sl, wait := w, floor := 0, owed := s.unperformed t }
      match t.park, s1.part? t.vf with
      | some k, some p =>
        if p.due.any fun r => r.tk == tk && !r.entered then s1
        else s1.modPart t.vf fun p => p.addDue { s.recordOf { t with slice := sl } ⟨0, 0, 0, 0⟩ true k.pc t.pc 0 false k.umask with own := k.own }
      | _, _ => s1

def execRestore (tk slice : Nat) (s : State) : Result := .next (s.restoreTeam tk slice)

/-- The first slice on which a saved team may be restored. -/
def State.restoreSlice (s : State) (t : Team) : Option Nat :=
  match s.part? t.vf with
  | none => none
  | some p => (p.coresOf.flatMap fun c => (List.range 6).map fun i => 6 * c + i).find? fun sl => s.mayRestore t sl

/-- A restored team issues nothing until the stores it issued or observed before, some of them while Saved, have been performed (R103). -/
def State.owedDone (s : State) (t : Team) : Bool :=
  t.owed.all fun id => t.sq.all (fun e => e.id != id) && s.cvs.all fun c => c.2.all fun e => e.id != id

/-! ## Watchdogs (R359) -/

/-- The word at a team's PC, where it can be fetched. -/
def State.wordAt (s : State) (t : Team) : Word := match s.fetchWord t t.pc with | .ok w => w | .error _ => 0

/-- Park a team precisely at the boundary of the instruction it waits in or is about to issue (R355). -/
def State.parkAtBoundary (s : State) (t : Team) (f : FInfo) : State :=
  let w := s.wordAt t
  s.parkTeam t f true t.pc w (decide (2 ^ 31 ≤ w.toNat)) 0 none

/-- DETAIL of WATCHDOG by the instruction waited in (Table 24.1). -/
def WaitOn.detail : WaitOn → Nat
  | .join => 1
  | .waitq .. => 2
  | .waitdep => 3
  | .bar .. => 4
  | .tb .. => 5
  | .tok .. => 6
  | .memw .. => 7

/-- WATCHDOG_WAITLIM: a wait whose condition holds at this instant returns instead (R376). -/
def execWatchdogWaitlim (tk : Nat) (s : State) : Result :=
  .next <| match s.team? tk with
  | none => s
  | some t =>
    match t.wait with
    | none => s
    | some w =>
      let lim := ((s.part? t.vf).map Part.waitlim).getD 0
      if lim = 0 ∨ !t.running ∨ w.spent + (s.thyme - w.since) < lim * 1000 then s
      else
        let s1 := s.testWait t w true
        match s1.team? tk with
        | some t1 =>
          if t1.wait.isSome ∧ t1.running then s1.parkAtBoundary t1 ⟨0x80, w.on.detail, qn w.began, qn lim⟩ else s1
        | none => s1

/-- WATCHDOG_RUNLIM: every running team of the launch parks once. -/
def execWatchdogRunlim (launch : Nat) (s : State) : Result :=
  .next <| match s.launch? launch with
  | none => s
  | some l =>
    let lim := ((s.part? l.vf).map Part.runlim).getD 0
    match l.placedAt with
    | none => s
    | some p =>
      if lim = 0 ∨ l.done ∨ s.thyme < p + lim * 1000000 then s
      else
        ((s.teams.map (·.2)).filter fun t => t.launch == launch && t.running && !t.rlFired).foldl
          (fun s t =>
            match s.team? t.tk with
            | some t => if t.running then s.parkAtBoundary { t with rlFired := true } ⟨0x80, 8, qn p, qn lim⟩ else s
            | none => s) s

/-- Whether a wait is one that only the launch itself can end. -/
def WaitOn.inner : WaitOn → Bool
  | .join | .bar .. | .tb .. | .tok .. => true
  | _ => false

/-- The condition of a deadlocked launch at this instant. -/
def State.stuck (s : State) (uid : Nat) : Bool :=
  match s.launch? uid with
  | none => false
  | some l =>
    let ts := (s.teams.map (·.2)).filter fun t => t.launch == uid && !t.ended
    l.placed && !l.cancel && !l.done && !ts.isEmpty
      && ts.all (fun t => t.saved.isNone && t.park.isNone && ((t.wait.map fun w => w.on.inner).getD false))
      && s.cores.all fun c =>
          c.2.copies.all (fun x => ((s.team? x.tk).map Team.launch) != some uid)
            && c.2.mats.all fun x => ((s.team? x.tk).map Team.launch) != some uid

/-- DEADLOCK_DETECTION: begins to count when the condition first holds, and parks the teams once it has held for 100 µs. -/
def execDeadlockDetection (launch : Nat) (s : State) : Result :=
  .next <| match s.launch? launch with
  | none => s
  | some l =>
    if !s.stuck launch then s.modLaunch launch fun l => { l with dead := none }
    else
      match l.dead with
      | none => s.modLaunch launch fun l => { l with dead := some s.thyme }
      | some d =>
        if s.thyme < d + 100000 then s
        else
          let ts := (s.teams.map (·.2)).filter fun t => t.launch == launch && !t.ended
          ts.foldl
            (fun s t =>
              match s.team? t.tk, t.wait with
              | some u, some w => if u.running then s.parkAtBoundary u ⟨0x81, w.on.detail, qn s.thyme, qn ts.length⟩ else s
              | _, _ => s)
            (s.modLaunch launch fun l => { l with dead := none })

/-- The count of 100 µs begins when the condition first holds and ends when it does (DEDUCED, assumption 36). -/
def State.watchDead (s : State) : State :=
  (s.launches.filter fun e => e.2.dead.isSome != s.stuck e.1).foldl
    (fun s e => s.modLaunch e.1 fun l => { l with dead := if e.2.dead.isSome then none else some s.thyme }) s

end Sys2Proof.Machine
end

