-- ==== Sys2Proof/Machine/EngineSteps.lean ====
section
/-! DEFINITION. Engine commands as they run: chunks of copies (14 R258, R260; 06 R99; 23 R345), matrix steps (14 R264, R266; 08
R138 to R141), completion (13 R253), and the allowance they are charged (09 R154). -/

namespace Sys2Proof.Machine

/-! ## Allowance (R153, R154) -/

def Core.cost (c : Core) (cls : Nat) : Nat := fld c.pacost (8 * cls + 7) (8 * cls)

/-- The test of R153 for a team of priority p and a cost. -/
def Core.admits (c : Core) (p cost : Nat) : Bool := decide (((c.guard * (7 - p) : Nat) : Int) ≤ c.allow - cost)

def State.chargeCore (s : State) (core cost : Nat) : State := s.modCore core fun c => { c with allow := c.allow - cost }

/-- The priority tested for an engine command: the issuing team's (R154). -/
def State.enginePrio (s : State) (tk d : Nat) : Nat := ((s.team? tk).map Team.prio).getD d

/-! ## Copies -/

/-- The scope at which a copy's issue releases (R99). -/
def CopyEnd.scope (e : CopyEnd) (remote : Bool) : Sys2Proof.Scope :=
  if remote then .system
  else match copySpace e.space with | some sp => (if sp = .global then .partition else sp.natural) | none => .team

def wider (a b : Sys2Proof.Scope) : Sys2Proof.Scope := if scopeRank a ≤ scopeRank b then b else a

/-- The release of a copy's issue holds. -/
def State.copyOpen (s : State) (t : Team) (c : Copy) : Bool :=
  s.releaseOk t c.id (wider (c.src.scope (s.endRemote t c.src)) (c.dst.scope (s.endRemote t c.dst)))

/-- Where bytes off to off + n - 1 of an end lie, or why not; a remote end has one remote location. -/
def State.endPieces (s : State) (t : Team) (e : CopyEnd) (need : Need) (off n : Nat) : Except FInfo (List Piece) :=
  match copySpace e.space with
  | none => .error ⟨0x47, 1, e.reg, qn e.space⟩
  | some .global =>
    match s.checkGlobal (coreCluster t.core) (s.asidOf t) need e.reg off n 0 0 with
    | .error f => .error f
    | .ok d =>
      let o := hOff e.reg + off
      if d.kind = 4 then .ok [⟨remoteLoc d.rmod d.rasid d.robj o, n, 0, 0⟩]
      else s.globalPieces (coreCluster t.core) (s.asidOf t) t.vf d (hObj e.reg) o n
  | some sp =>
    match s.localLoc t sp (endOffset sp e.reg + off) n (if sp = .lane then endLane e.reg else 0) 0 0 with
    | .error f => .error f
    | .ok loc => .ok (s.localPieces t sp loc n)

/-- Write one piece for a copy at its home; the store's id. -/
def State.writePiece (s : State) (p : Piece) (bytes : List Byte) : State × Nat :=
  let d := if isBank p.loc then 0 else l2Die p.home
  ((s.performStore s.nextId 0 d d p.loc bytes).fresh, s.nextId)

/-- Write bytes over pieces: pieces of lost units that the whole write covers restore them; the others are discarded and named
(R348). -/
def State.writePieces (s : State) (ps : List Piece) (bytes : List Byte) : State × List Nat × Option Nat :=
  let us := (ps.flatMap fun p => s.lostIn p.loc p.len).eraseDups
  let whole := us.filter fun u => coversUnit (ps.map fun p => (p.loc, p.len)) u
  let s0 := whole.foldl State.restoreUnit s
  ps.foldl
    (fun acc p =>
      if !(acc.1.lostIn p.loc p.len).isEmpty then (acc.1, acc.2.1, if acc.2.2.isSome then acc.2.2 else some p.loc)
      else
        let (s1, id) := acc.1.writePiece p ((bytes.drop p.off).take p.len)
        (s1, acc.2.1 ++ [id], acc.2.2))
    (s0, [], none)

def State.modCopy (s : State) (core id : Nat) (f : Copy → Copy) : State :=
  s.modCore core fun c => { c with copies := c.copies.map fun x => if x.id = id then f x else x }

/-- A copy's chunk fails: NOTPRESENT holds it, any other cause drops it (R345); its team parks at its next boundary. -/
def State.copyFault (s : State) (core : Nat) (c : Copy) (f : FInfo) : State :=
  let s1 := s.modCopy core c.id fun x => if f.cause = 0x45 then { x with held := true } else { x with fail := true }
  s1.lateFault c.tk f c.pc c.word

/-! ### The elements of a CPYT chunk (R260) -/

/-- A floating value converted between formats (R134, R135): widening is exact. -/
def convF (src dst : FFmt) (rmode code : Nat) : Nat :=
  if src = dst then code
  else if dst = fp32 ∨ src.ebits ≤ dst.ebits ∧ src.mbits ≤ dst.mbits ∧ (dst.top = .ieee ∨ src.top = .finite) then dst.round (rmode % 8) (src.dec code)
  else dst.narrow rmode (src.dec code)

/-- One element from code x in format sf to format df; scale is given when DQ = 1 (R138, R260). A dequantised FP32 element that
overflows, or that is infinite, follows R134 whatever SAT is (DESIGN CHOICE, assumption 15). -/
def convElem (sf df rmode x : Nat) (scale : Option Nat) : Nat :=
  match scale with
  | some e =>
    match tfFloat sf, tfFloat df with
    | some a, some b => if b = fp32 then b.round (rmode % 8) ((scaled (a.dec x) e).ruled (rmode % 8)) else b.narrow rmode (scaled (a.dec x) e)
    | _, _ => x
  | none =>
    if sf = df then x
    else
      match tfFloat sf, tfInt sf, tfFloat df, tfInt df with
      | some a, _, some b, _ => convF a b rmode x
      | some a, _, _, some b => b.code (b.ofF rmode (a.dec x))
      | _, some a, some b, _ => if b = fp32 then b.round (rmode % 8) ((intV (a.dec x)).ruled (rmode % 8)) else b.narrow rmode (intV (a.dec x))
      | _, some a, _, some b => b.narrow rmode (a.dec x)
      | _, _, _, _ => x

/-- The code an element outside the tensor gives. -/
def padCode (df : Nat) : Nat := if df = 6 then 0x7F else 0

/-- Codes of b bits as bytes. -/
def packCodes (b : Nat) : List Nat → List Byte
  | [] => []
  | [x] => leBytes ((b + 7) / 8) x
  | x :: y :: r => if b = 4 then BitVec.ofNat 8 (x + 16 * y) :: packCodes b r else leBytes (b / 8) x ++ leBytes (b / 8) y ++ packCodes b r

/-! ### The data of a copy (R258, R260) -/

def isRemoteLoc (loc : Nat) : Bool := decide (2 ^ 100 ≤ loc)

/-- Bytes of data that a copy moves; the bytes between the rows of a window do not count. -/
def Copy.size (c : Copy) : Nat :=
  match c.win with
  | none => c.len
  | some w => w.w1 * w.rowBytes (Desc.tfmt c.geo)

/-- Bytes that it has started, and whether that is all. -/
def Copy.begun (c : Copy) : Nat := 4096 * c.chunk + c.part
def Copy.allBegun (c : Copy) : Bool := decide (c.size ≤ c.begun)

/-- Every element is there. -/
def allSome {α : Type} : List (Option α) → Option (List α)
  | [] => some []
  | none :: _ => none
  | some x :: r => (allSome r).map (x :: ·)

def Copy.source (c : Copy) (key n : Nat) : Option (List Byte) := allSome ((List.range n).map fun k => Tbl.get? c.buf (key + k))

/-- Keys of scale bytes stand above those of the data. -/
def scaleKey : Nat := 2 ^ 41

/-- Element (w0, w1) of a window in the destination format, from the source bytes read (R260). -/
def Copy.elem (c : Copy) (w : Window) (w0 w1 : Nat) : Option Nat :=
  let d : Desc := c.geo
  let df := w.fmt d.tfmt
  let i0 := w.i0 + w0
  let i1 := w.i1 + w1
  if d.dim 0 ≤ i0 ∨ d.dim 1 ≤ i1 ∨ d.dim 2 ≤ w.i2 ∨ d.dim 3 ≤ w.i3 then some (padCode df)
  else
    let b := tfBits d.tfmt
    match c.source (d.elemOff i0 i1 w.i2 w.i3) ((b + 7) / 8) with
    | none => none
    | some bs =>
      let x := if b = 4 then leNat bs / 2 ^ (4 * (i0 % 2)) % 16 else leNat bs
      if w.dq then (c.source (scaleKey + d.scaleOff i0 i1 w.i2 w.i3) 1).map fun e => convElem d.tfmt df c.rmode x (some (leNat e))
      else some (convElem d.tfmt df c.rmode x none)

/-- Bytes off to off + n - 1 of the data, once their source has been read; those of a window lie in one row. -/
def Copy.bytes (c : Copy) (off n : Nat) : Option (List Byte) :=
  match c.win with
  | none => c.source off n
  | some w =>
    let b := tfBits (w.fmt (Desc.tfmt c.geo))
    let row := w.rowBytes (Desc.tfmt c.geo)
    let k := off % row
    let e0 := k * 8 / b
    let e1 := ((k + n) * 8 - 1) / b
    (allSome ((List.range (e1 + 1 - e0)).map fun e => c.elem w (e0 + e) (off / row))).map fun xs =>
      ((packCodes b xs).drop (k - e0 * b / 8)).take n

/-! ### The pieces of a chunk (R99, R258, R260) -/

/-- Runs of bytes off to off + n - 1 of a window's data, row by row: first byte, length. -/
def rowRuns (row : Nat) : Nat → Nat → Nat → List (Nat × Nat)
  | 0, _, _ => []
  | _, _, 0 => []
  | fuel + 1, off, n + 1 =>
    let k := min (n + 1) (row - off % row)
    (off, k) :: rowRuns row fuel (off + k) (n + 1 - k)

/-- The object of a global end. -/
def CopyEnd.obj (e : CopyEnd) : Option Nat := if e.space = 0 then some (hObj e.reg) else none

/-- Source pieces of bytes off to off + n - 1 of an end; key and when give a piece's place in the buffer and the data byte with
whose start it may be read. A remote range is asked for 256 bytes at a time. -/
def State.sourcePieces (s : State) (t : Team) (e : CopyEnd) (off n : Nat) (key when_ : Nat → Nat) : Except FInfo (List CopyPiece) :=
  match s.endPieces t e .copyRead off n with
  | .error f => .error f
  | .ok ps => .ok <| ps.flatMap fun p =>
      if isRemoteLoc p.loc then
        (List.range ((n + 255) / 256)).map fun i => ⟨⟨p.loc + 256 * i, min 256 (n - 256 * i), key (off + 256 * i), 0⟩, when_ (off + 256 * i), e.obj⟩
      else [⟨{ p with off := key (off + p.off) }, when_ (off + p.off), e.obj⟩]

/-- Destination pieces of data bytes d to d + n - 1 at offset off of an end; a remote range is written in one request, once all of it
has been started. -/
def State.putPieces (s : State) (t : Team) (e : CopyEnd) (off n d : Nat) : Except FInfo (List CopyPiece) :=
  match s.endPieces t e .copyWrite off n with
  | .error f => .error f
  | .ok ps => .ok <| ps.map fun p =>
      if isRemoteLoc p.loc then ⟨{ p with off := d }, d + n - 1, e.obj⟩ else ⟨{ p with off := d + p.off }, d + p.off, e.obj⟩

/-- All lists in one, or the lowest fault. -/
def gather (xs : List (Except FInfo (List CopyPiece))) : Except FInfo (List CopyPiece) :=
  match lowestFault (xs.filterMap fun x => match x with | .error f => some f | .ok _ => none) with
  | some f => .error f
  | none => .ok (xs.flatMap fun x => match x with | .error _ => [] | .ok ps => ps)

/-- Source pieces of one run of a window: its elements inside the tensor, and their scales. -/
def State.windowPieces (s : State) (t : Team) (d : Desc) (src : QWord) (w : Window) (off n : Nat) : List (Except FInfo (List CopyPiece)) :=
  let b := tfBits (w.fmt d.tfmt)
  let row := w.rowBytes d.tfmt
  let i1 := w.i1 + off / row
  let lo := w.i0 + off % row * 8 / b
  let hi := min (w.i0 + (off % row + n) * 8 / b) (d.dim 0)
  if hi ≤ lo ∨ d.dim 1 ≤ i1 ∨ d.dim 2 ≤ w.i2 ∨ d.dim 3 ≤ w.i3 then []
  else
    let data (i : Nat) : Nat := off + (max i lo - lo) * b / 8
    let sb := tfBits d.tfmt
    let at_ (i : Nat) : Nat := d.elemOff i i1 w.i2 w.i3
    let sc (i : Nat) : Nat := d.scaleOff i i1 w.i2 w.i3
    s.sourcePieces t ⟨0, mkHandle (hObj src) 0⟩ (at_ lo) (at_ (hi - 1) + (sb + 7) / 8 - at_ lo) id (fun x => data ((x - at_ 0) * 8 / sb))
      :: (if w.dq then [s.sourcePieces t ⟨0, d.sbase⟩ (sc lo) (sc (hi - 1) + 1 - sc lo) (scaleKey + ·) (fun x => data (32 * (x - sc 0)))] else [])

/-- Translate a copy's next chunk: what it has to read and to write, and the descriptor of its tensor. -/
def State.mapChunk (s : State) (t : Team) (c : Copy) : Except FInfo Copy :=
  let off := 4096 * c.chunk
  let into (c : Copy) (rs ws : List (Except FInfo (List CopyPiece))) : Except FInfo Copy :=
    match gather (rs ++ ws), gather rs, gather ws with
    | .ok _, .ok r, .ok p => .ok { c with reads := c.reads ++ r, puts := c.puts ++ p }
    | .error f, _, _ => .error f
    | _, .error f, _ => .error f
    | _, _, .error f => .error f
  match c.win with
  | none =>
    let n := min 4096 (c.size - off)
    into c [s.sourcePieces t c.src off n id id] [s.putPieces t c.dst off n off]
  | some w =>
    match s.desc (coreCluster t.core) (s.asidOf t) c.src.reg with
    | .error f => .error f
    | .ok d =>
      let c1 := { c with geo := d }
      let n := min 4096 (c1.size - off)
      let row := w.rowBytes d.tfmt
      let runs := rowRuns row n off n
      into c1 (runs.flatMap fun r => s.windowPieces t d c.src.reg w r.1 r.2)
        (runs.map fun r => s.putPieces t c.dst (r.1 / row * w.pitch + r.1 % row) r.2 r.1)

/-! ### Starting, reading, writing -/

/-- A copy can start its next 256 bytes: its release holds and the streamer, which moves 256 bytes in a core cycle (R12), has room
for them. -/
def State.partReady (s : State) (core : Nat) (t : Team) (c : Copy) : Bool :=
  !c.held && !c.fail && !c.allBegun && s.copyOpen t c && decide ((s.core core).streamed + min 256 (c.size - c.begun) ≤ 256)

/-- Count the next 256 bytes of a chunk, or the rest of it, as started. -/
def Copy.begin (c : Copy) (cycle : Nat) : Copy :=
  let room := min 4096 (c.size - 4096 * c.chunk)
  let part := c.part + min 256 (room - c.part)
  let d := { c with last := cycle, starve := false }
  if room ≤ part then { d with chunk := c.chunk + 1, part := 0 } else { d with part := part }

/-- Start the next 256 bytes of a copy with their charge (R154); the first of a chunk translate it afresh (R75). -/
def State.startPart (s : State) (core : Nat) (c : Copy) (test : Bool) : State :=
  match s.team? c.tk with
  | none => s
  | some t =>
    let k := s.core core
    if !s.partReady core t c then s
    else if test && !c.starve && !k.admits (s.enginePrio c.tk c.prio) (k.cost 7) then s
    else
      match (if c.part = 0 then s.mapChunk t c else .ok c) with
      | .error f => s.copyFault core c f
      | .ok c1 =>
        let n := min 256 (c1.size - c1.begun)
        ((s.chargeCore core (k.cost 7)).modCore core fun k => { k with streamed := k.streamed + n }).modCopy core c.id fun _ => c1.begin s.cycle

def State.copyOf (s : State) (core id : Nat) : Option Copy := (s.core core).copies.find? fun c => c.id == id

def execCopyChunk (core id : Nat) (s : State) : Result :=
  .next <| match s.copyOf core id with
  | none => s
  | some c => s.startPart core c true

/-- The buffer empties when nothing of it is still to be written. -/
def Copy.tidy (c : Copy) : Copy := if c.reads.isEmpty && c.puts.isEmpty && c.remote == 0 then { c with buf := [] } else c

/-- Bytes arrive in a copy's buffer. -/
def Copy.fill (c : Copy) (key : Nat) (bs : List Byte) : Copy :=
  { c with buf := bs.zipIdx.foldl (fun b x => Tbl.set b (key + x.2) x.1) c.buf }

/-- The lines of a piece of device memory; none elsewhere. -/
def Piece.lines (p : Piece) : List Nat :=
  if isPhys p.loc then (List.range ((p.loc + p.len - 1) / 128 + 1 - p.loc / 128)).map (p.loc / 128 + ·) else []

/-- Whether the tokens let the streamer of a core read, or write, a piece at its home (R105, R113, R115): a line that is read is not
privatised there, and one that is written has its tokens at its home, and on the core's own die too. -/
def State.homeReads (s : State) (p : Piece) : Bool := p.lines.all fun l => (s.dir (l2Die p.home) l).mode != 3
def State.homeWrites (s : State) (die : Nat) (p : Piece) : Bool :=
  p.lines.all fun l => s.homeClear p.home l && (die == l2Die p.home || s.dieClear die l)

/-- Whether piece i of a copy of a core can be read, or written, now. The streamer reaches a bank as a pass of its own (R80). -/
def State.mayCopyRead (s : State) (c : Copy) (r : CopyPiece) : Bool :=
  decide (r.at_ < c.begun) && s.bankFree c.id 0 r.p.loc r.p.len && s.homeReads r.p
def State.mayCopyWrite (s : State) (core : Nat) (c : Copy) (w : CopyPiece) : Bool :=
  decide (w.at_ < c.begun) && s.bankFree c.id 0 w.p.loc w.p.len && !s.writeFrozen w.p.loc && s.homeWrites (coreDie core) w.p
    && (c.bytes w.p.off w.p.len).isSome

/-- Read piece i of a copy: a remote one is asked for; a lost one drops the command (R99, R341, R345). -/
def State.copyRead (s : State) (core id i : Nat) : State :=
  match s.copyOf core id with
  | none => s
  | some c =>
    match c.reads[i]? with
    | none => s
    | some r =>
      let c1 := { c with reads := c.reads.eraseIdx i }
      if !s.mayCopyRead c r then s
      else if isRemoteLoc r.p.loc then
        (s.modCopy core id fun _ => { c1 with remote := c1.remote + 1 }).sendRemote (remMod r.p.loc) (remAsid r.p.loc) (remObj r.p.loc)
          (remOff r.p.loc) (.read r.p.len) (.chunk core id)
      else if s.isLost r.p.loc r.p.len then
        let addr := match c.win with | none => c.src.reg | some _ => mkHandle (r.obj.getD 0) (r.p.off % scaleKey)
        (s.modCopy core id fun _ => { c1 with reads := [], puts := [] }).copyFault core c ⟨0x48, s.dataDetail r.p.loc, addr, qn r.p.loc⟩
      else
        (s.modCopy core id fun _ =>
          { c1.fill r.p.off (Memory.read s.mem r.p.loc r.p.len) with seen := c1.seen ++ s.writersOf 0 r.p.loc r.p.len }).serveBank id 0 r.p.loc r.p.len

/-- Write pieces of a copy at their homes and banks. -/
def State.copyPuts (s : State) (core : Nat) (c : Copy) (ws : List CopyPiece) : State :=
  ws.foldl (fun s w =>
    let (s1, sid) := s.writePiece w.p ((c.bytes w.p.off w.p.len).getD [])
    (s1.modCopy core c.id fun x => { x with puts := x.puts.filter (· != w), writes := x.writes ++ [sid] }.tidy).serveBank c.id 0 w.p.loc w.p.len) s

/-- The pieces of a chunk that a write to lost units takes together: all that touch them, where the chunk covers them whole (R348). -/
def State.putGroup (s : State) (c : Copy) (w : CopyPiece) (us : List LostUnit) : Option (List CopyPiece) :=
  let chunk := c.puts.filter fun x => x.at_ / 4096 == w.at_ / 4096
  if us.all (coversUnit (chunk.map fun x => (x.p.loc, x.p.len))) then
    some (chunk.filter fun x => (s.lostIn x.p.loc x.p.len).any us.contains)
  else none

/-- Whether piece w of a copy can be written, with what must be written together with it. -/
def State.putReady (s : State) (core : Nat) (c : Copy) (w : CopyPiece) : Bool :=
  s.mayCopyWrite core c w &&
    match s.lostIn w.p.loc w.p.len with
    | [] => true
    | us => match s.putGroup c w us with | some g => g.all (s.mayCopyWrite core c) | none => true

/-- Write piece i of a copy. Lost units that the chunk covers whole are written and restored together; a write to part of one is
discarded, and drops the command (R345, R348). -/
def State.copyWrite (s : State) (core id i : Nat) : State :=
  match s.copyOf core id with
  | none => s
  | some c =>
    match c.puts[i]? with
    | none => s
    | some w =>
      if !s.putReady core c w then s
      else if isRemoteLoc w.p.loc then
        (s.modCopy core id fun x => { x with puts := x.puts.eraseIdx i, remote := x.remote + 1 }).sendRemote (remMod w.p.loc) (remAsid w.p.loc)
          (remObj w.p.loc) (remOff w.p.loc) (.write ((c.bytes w.p.off w.p.len).getD [])) (.chunk core id)
      else
        match s.lostIn w.p.loc w.p.len with
        | [] => s.copyPuts core c [w]
        | us =>
          match s.putGroup c w us with
          | some group => us.foldl State.restoreUnit (s.copyPuts core c group)
          | none =>
            (s.modCopy core id fun x => { x with puts := (x.puts.eraseIdx i).filter fun y => decide (y.at_ < c.begun) }).copyFault core c
              (partialWrite c.dst.reg w.p.loc)

/-- A piece of a copy that can be read or written now. -/
def State.copyMove (s : State) (core : Nat) (c : Copy) : Option (State → State) :=
  match c.reads.findIdx? (s.mayCopyRead c), c.puts.findIdx? (s.putReady core c) with
  | some i, _ => some fun s => s.copyRead core c.id i
  | none, some i => some fun s => s.copyWrite core c.id i
  | none, none => none

/-- Whether every write and every store read has reached the level of the destination's natural scope (R99). -/
def State.copyLevel (s : State) (c : Copy) : Bool :=
  if c.dst.space = 0 then s.partials.all fun p => !(c.writes.contains p.id || c.seen.contains p.id) || s.partialDone p else true

/-- A copy is over: all of it has moved, or it was dropped, nothing of it is on its way, and its writes have come to their level. -/
def State.copyOver (s : State) (t : Team) (c : Copy) : Bool :=
  (c.fail || (!c.held && c.allBegun && s.copyOpen t c)) && c.reads.isEmpty && c.puts.isEmpty && c.remote == 0 && s.copyLevel c

/-- COPY_COMPLETE: the token and the arrival (R99, R252, R253, R345). -/
def execCopyComplete (core id : Nat) (s : State) : Result :=
  .next <| match s.copyOf core id with
  | none => s
  | some c =>
    match s.team? c.tk with
    | none => s
    | some t =>
      if !s.copyOver t c then s
      else
        let s1 := (s.modCore core fun k => { k with copies := k.copies.filter fun x => x.id != id }).putTeam (t.doneTok c.ct c.fail)
        match c.arr with
        | some n => s1.modBarrier (.tb c.crew n) (if c.fail then Barrier.arriveFailed else Barrier.arrive)
        | none => s1

/-! ## The matrix engine -/

def zeroTile : List Word := List.replicate 2048 0
def State.tile (s : State) (core mt : Nat) : List Word := Tbl.getD s.tiles (core * 16 + mt) zeroTile
def State.setTile (s : State) (core mt : Nat) (t : List Word) : State := { s with tiles := Tbl.set s.tiles (core * 16 + mt) t }

/-- The location of offset 0 of a team's crew scratchpad. -/
def State.crewLoc (s : State) (t : Team) : Nat :=
  match Tbl.get? s.crews t.crewKey with
  | some c => coreLoc c.core c.base
  | none => coreLoc t.core 0

/-- Older stores and atomics of the team to scratchpads have reached their banks (R100). -/
def banksReady (t : Team) (id : Nat) : Bool := t.sq.all fun e => decide (id ≤ e.id) || !isBank e.loc

/-- Element k of a 16-byte column of B, or of an A operand over its lanes, in a format of b bits. -/
def codeAt (b k : Nat) (bytes : Nat) : Nat := bytes / 2 ^ (b * k) % 2 ^ b

/-- A(i, k) of a step: R in lane 256 q + 4 i + c holds elements E c to E c + E - 1. -/
def aCode (b : Nat) (row : List Word) (q i k : Nat) : Nat :=
  let e := 32 / b
  elemAt b (row.getD (256 * q + 4 * i + k / e) 0) (k % e)

/-- The 512 bytes of B of a step at its location: column j's 16 bytes as a number. -/
def State.bCols (s : State) (loc : Nat) : List Nat := (List.range 32).map fun j => s.rdNat (loc + 16 * j) 16

/-- What one group of an MLOOP adds: codes of A by row, of B by column, scales, over the tile. -/
def groupTile (m : MState) (n : Nat) (a : Nat → Nat → Nat) (b : Nat → Nat → Nat) (ea : Nat → Nat) (eb : Nat → Nat) (tile : List Word) :
    List Word :=
  (List.range 2048).map fun x =>
    let i := x / 32
    let j := x % 32
    let acc := tile.getD x 0
    match tfFloat m.afmt, tfFloat m.bfmt with
    | some fa, some fb =>
      let ps := (List.range 16).map fun k => if k < n then engineMul (fa.dec (a i k)) (fb.dec (b j k)) else fzero false
      groupAcc ps (ea i) (eb j) acc
    | _, _ =>
      match tfInt m.afmt, tfInt m.bfmt with
      | some fa, some fb => wrap32 (acc.toInt + ((List.range n).map fun k => fa.dec (a i k) * fb.dec (b j k)).sum)
      | _, _ => acc

/-- Scale bytes of the block that holds K position kp: one per row or column; 127 where unscaled. -/
def State.scaleOf (s : State) (base : Nat) (r : Option ScaleRec) (kp i : Nat) : Nat :=
  match r with
  | none => 127
  | some r => s.rdNat (base + r.off + kp / 32 * r.stride + i) 1

/-- Locations that a step reads: its B bytes and the scales of its blocks. -/
def stepReads (m : MState) (base o kp n : Nat) : List (Nat × Nat) :=
  let sc (r : Option ScaleRec) (span : Nat) : List (Nat × Nat) :=
    match r with | none => [] | some r => [(base + r.off + kp / 32 * r.stride, span), (base + r.off + (kp + n - 1) / 32 * r.stride, span)]
  (base + o, 512) :: sc m.aScale 64 ++ sc m.bScale 32

/-- The tile after step st of an MLOOP (R264, R139, R140): a 16-bit group is applied at its second step, or at the last. cols are
the columns of B of this step, and held those that the step before it read. A step reads all its bytes of B at once and past the banks'
queues (R100; DESIGN CHOICE, assumption 57), and a group its scale bytes where it is applied (R279; DESIGN CHOICE, assumption 57). -/
def State.mloopStep (s : State) (t : Team) (ks nstep : Nat) (rows : List (List Word)) (m : MState) (st : Nat) (held cols : List Nat)
    (tile : List Word) : List Word :=
  let base := s.crewLoc t
  let q (x : Nat) : Nat := x % min 4 (max 1 (t.lanes / 256))
  let bits := tfBits m.afmt
  let bitsB := tfBits m.bfmt
  let kp (k : Nat) : Nat := 16 * ks + m.k * st + k
  let group (k0 n : Nat) (tile : List Word) : List Word :=
    groupTile m n (fun i k => aCode bits (rows.getD st []) (q st) i (k0 + k)) (fun j k => codeAt bitsB (k0 + k) (cols.getD j 0))
      (s.scaleOf base m.aScale (kp k0)) (s.scaleOf base m.bScale (kp k0)) tile
  if bits = 16 then
    if st % 2 = 0 then (if st + 1 = nstep then group 0 8 tile else tile)
    else
      groupTile m 16
        (fun i k => if k < 8 then aCode bits (rows.getD (st - 1) []) (q (st - 1)) i k else aCode bits (rows.getD st []) (q st) i (k - 8))
        (fun j k => if k < 8 then codeAt bitsB k (held.getD j 0) else codeAt bitsB (k - 8) (cols.getD j 0))
        (fun _ => 127) (fun _ => 127) tile
  else if m.k = 32 then group 16 16 (group 0 16 tile)
  else group 0 16 tile

def State.modMat (s : State) (core id : Nat) (f : MatCmd → MatCmd) : State :=
  s.modCore core fun c => { c with mats := c.mats.map fun x => if x.id = id then f x else x }

/-- Drop a command (R345). -/
def State.matFault (s : State) (core : Nat) (c : MatCmd) (f : FInfo) : State :=
  (s.modMat core c.id fun x => { x with fail := true }).lateFault c.tk f c.pc c.word

def State.lostAny (s : State) (rs : List (Nat × Nat)) : Option Nat := (rs.find? fun r => s.isLost r.1 r.2).map (·.1)

/-- Row i of a tile as a tile command reaches it: its first byte and its length (R266). -/
def tileRow (base : Nat) (ra rb : QWord) (w i : Nat) : Nat × Nat := (base + ra.toNat + i * rb.toNat, 32 * w)

/-- Row i of an MST over the banks. A lost word that the command's rows cover is lost until the last of them is written; one that they
do not cover is discarded (R348). -/
def State.mstRow (s : State) (base : Nat) (ra rb : QWord) (w i : Nat) (codes : List Nat) : State × Option Nat :=
  let row (i : Nat) : Nat × Nat := tileRow base ra rb w i
  let us := s.lostIn (row i).1 (row i).2
  let bad := us.filter fun u => !coversUnit ((List.range 64).map row) u
  let ps : List Piece := (List.range 32).map fun j => ⟨(row i).1 + j * w, w, j * w, 0⟩
  let bytes := codes.flatMap fun c => leBytes w c
  let s1 := ps.foldl (fun s p =>
    if (s.lostIn p.loc p.len).any bad.contains then s else (s.writePiece p ((bytes.drop p.off).take p.len)).1) s
  ((us.filter (coversUnit ((List.range (i + 1)).map row))).foldl State.restoreUnit s1, bad.head?.map fun u => (LostUnit.range u).1)

/-- Row i of a tile command in the banks; an MLOOP and an MZERO have none. -/
def MatOp.row (base i : Nat) : MatOp → Option (Nat × Nat)
  | .mld _ ra rb => some (tileRow base ra rb 4 i)
  | .mst _ ra rb f _ => some (tileRow base ra rb (stWidth f) i)
  | _ => none

/-- An accumulator as MST stores it (R135, R266). -/
def mstCode (f : StFmt) (mode : Nat) (x : Word) : Nat :=
  let nar (F : FFmt) : Nat := F.narrow mode (fp32.dec x.toNat)
  match f with
  | .fp32 => x.toNat
  | .bf16 => nar bf16
  | .fp16 => nar fp16
  | .e4m3 => nar e4m3
  | .e5m2 => nar e5m2

/-- The rows of a tile with row i made new. -/
def setRow (tile : List Word) (i : Nat) (row : List Word) : List Word := tile.take (32 * i) ++ row ++ tile.drop (32 * i + 32)

/-- One step of the command at the head of the engine's queue: a step of an MLOOP, a row of an MLD or MST, or a whole MZERO. -/
def State.runMat (s : State) (core : Nat) (t : Team) (c : MatCmd) : State :=
  let base := s.crewLoc t
  let next (cols : List Nat) (s : State) : State :=
    (s.modMat core c.id fun x => { x with step := x.step + 1, last := s.cycle, starve := false, cols := cols }).modCore core
      fun k => { k with stepped := true }
  let serve (s : State) : State :=
    match c.op.row base c.step with | some r => s.serveBank c.id c.step r.1 r.2 | none => s
  let tileLost (mt : Nat) : Bool := s.lost.contains (.tile core mt)
  match c.op with
  | .mloop mt ks binc nstep boff rows m =>
    let o := (boff + c.step * binc) % 2 ^ 20
    if tileLost mt then s.matFault core c ⟨0x48, 6, qn mt, qn mt⟩
    else
      match s.lostAny (stepReads m base o (16 * ks + m.k * c.step) m.k) with
      | some loc =>
        let s1 := if tfBits m.afmt = 16 ∧ c.step % 2 = 1 then
            s.setTile core mt (s.mloopStep t ks c.step rows m (c.step - 1) [] c.cols (s.tile core mt)) else s
        s1.matFault core c ⟨0x48, 4, qn o, qn loc⟩
      | none =>
        let cols := s.bCols (base + o)
        next cols (s.setTile core mt (s.mloopStep t ks nstep rows m c.step c.cols cols (s.tile core mt)))
  | .mld mt ra rb =>
    let r := tileRow base ra rb 4 c.step
    if s.isLost r.1 r.2 then s.matFault core c ⟨0x48, 4, ra, qn (((s.lostIn r.1 r.2).head?.map fun u => (LostUnit.range u).1).getD r.1)⟩
    else
      let s1 := s.setTile core mt (setRow (s.tile core mt) c.step
        ((List.range 32).map fun j => BitVec.ofNat 32 (s.rdNat (r.1 + 4 * j) 4)))
      next [] (serve (if c.step = 63 then s1.restoreUnit (.tile core mt) else s1))
  | .mst mt ra rb f mode =>
    if tileLost mt then s.matFault core c ⟨0x48, 6, qn mt, qn mt⟩
    else
      let (s1, bad) := s.mstRow base ra rb (stWidth f) c.step
        ((((s.tile core mt).drop (32 * c.step)).take 32).map (mstCode f mode))
      match bad with
      | some loc => (serve s1).matFault core c (partialWrite ra loc)
      | none => next [] (serve s1)
  | .mzero mt => next [] ((s.setTile core mt zeroTile).restoreUnit (.tile core mt))

/-- Steps a command needs: an MLD or MST moves a row of its tile at a time over the banks (R80). -/
def MatOp.steps : MatOp → Nat
  | .mloop _ _ _ n _ _ _ => n
  | .mld .. | .mst .. => 64
  | .mzero _ => 1

def MatOp.isLoop : MatOp → Bool
  | .mloop .. => true
  | _ => false

/-- Whether the head command may take a step: older stores at their banks, no write held back, its row's banks free, and no other step
of the core's engine in this core cycle (R13, R80, R100). -/
def State.matReady (s : State) (core : Nat) (t : Team) (c : MatCmd) : Bool :=
  !c.fail && decide (c.step < c.op.steps) && !(s.core core).stepped && banksReady t c.id
    && (match c.op.row (s.crewLoc t) c.step with
        | some r => s.bankFree c.id c.step r.1 r.2
            && (match c.op with | .mst .. => s.moves.isEmpty || (List.range r.2).all fun j => !s.writeFrozen (r.1 + j) | _ => true)
        | none => true)
    && decide (core < 384)

/-- Start a step with its charge; tile commands are charged at issue only. -/
def State.startMat (s : State) (core : Nat) (test : Bool) : State :=
  match (s.core core).mats with
  | [] => s
  | c :: _ =>
    match s.team? c.tk with
    | none => s
    | some t =>
      let k := s.core core
      if !s.matReady core t c then s
      else if !c.op.isLoop then s.runMat core t c
      else if test && !c.starve && !k.admits (s.enginePrio c.tk c.prio) (k.cost 6) then s
      else (s.chargeCore core (k.cost 6)).runMat core t c

def execMatrixStep (core : Nat) (s : State) : Result := .next (s.startMat core true)

/-- ENGINE_COMMAND_COMPLETE (R253): the head command has taken its steps, or was dropped. -/
def execEngineCommandComplete (core : Nat) (s : State) : Result :=
  .next <| match (s.core core).mats with
  | [] => s
  | c :: r =>
    if c.fail || decide (c.op.steps ≤ c.step) then
      (s.modCore core fun k => { k with mats := r }).modTeam c.tk fun t => t.doneTok c.ct c.fail
    else s

/-- Whether a copy, or a matrix command, has started nothing for 512 core cycles and could start now (R154). -/
def State.copyLate (s : State) (core : Nat) (c : Copy) : Bool :=
  decide (c.last + 512 ≤ s.cycle) && (match s.team? c.tk with | some t => s.partReady core t c | none => false)
def State.matLate (s : State) (core : Nat) (c : MatCmd) : Bool :=
  decide (c.last + 512 ≤ s.cycle) && c.op.isLoop && (match s.team? c.tk with | some t => s.matReady core t c | none => false)

/-- ENGINE_STARVATION_START (R154): a command that has started nothing for 512 core cycles starts without the test. -/
def execEngineStarvationStart (core : Nat) (copy : Bool) (s : State) : Result :=
  .next <|
    if copy then
      match (s.core core).copies.find? (s.copyLate core) with
      | some c => s.startPart core { c with starve := true } false
      | none => s
    else
      match (s.core core).mats with
      | c :: _ => if s.matLate core c then (s.modMat core c.id fun x => { x with starve := true }).startMat core false else s
      | [] => s

end Sys2Proof.Machine
end

