-- ==== Sys2Proof/Machine/Distributor.lean ====
section
/-! DEFINITION. The distributor, Chive and Sage: doorbells, packets (03 R29, R378; 24 R357), placement (03 R30 to R32; 09 R142,
R143, R145; 13 R249), the end of a team (03 R35, R41), items (03 R37 to R40). -/

namespace Sys2Proof.Machine

/-- The firmware runs the module (Table 24.9). -/
def State.up (s : State) : Bool := s.status.toNat % 256 == 1

/-! ## Doorbells (R309) -/

def execLaunchQueueDoorbell (vf q tail : Nat) (s : State) : Result :=
  .next (s.modQueue vf q fun k => { k with tail := tail % 65536 })

def execEventHeadDoorbell (vf q head : Nat) (s : State) : Result :=
  .next ((s.modQueue vf q fun k => { k with evhead := head % 65536 }).drainQueue vf q)

/-! ## Reading a packet (Table 3.1, R357) -/

/-- The lowest bit, 64 n + b, of the first field that breaks Table 3.1 or PMAX, or of PHASE where the phase is closed. -/
def Launch.badField (l : Launch) (pmax : Nat) (closed : Bool) : Option Nat :=
  let checks : List (Nat × Bool) :=
    [(60, fld (l.q' 0) 63 60 == 1), (57, decide (l.prio ≤ pmax)), (49, !l.prod || decide (l.prodt < l.nteamsCrew)),
     (28, decide (l.tbars ≤ 64)), (15, decide (l.nlists ≤ 4096)), (10, decide (l.cbars ≤ 16)), (6, decide (l.fbars ≤ 8)),
     (0, fld (l.q' 0) 3 0 == 0),
     (128 + 29, decide (l.cspk ≤ 1024)), (128 + 19, decide (l.fwink ≤ min 512 l.cspk)), (128 + 3, decide (l.dspkKiB ≤ 32768)),
     (128, fld (l.q' 2) 2 0 == 0),
     (384 + 48, l.fsfr != 0), (384 + 24, l.lid != 0), (384 + 8, !closed), (384, fld (l.q' 6) 7 0 == 0)]
  (checks.find? fun c => !c.2).map (·.1)

/-- Slices of a core, whatever stands on them and whether or not its rail is on. -/
def State.freeSlices (s : State) (core : Nat) : Nat := ((List.range 6).filter fun i => s.sliceThere (6 * core + i)).length

/-- Bytes of the lane-private pool. -/
def Part.laneBytes (p : Part) : Nat := (p.lanePool.map fun x => x.2 / 65536 * 65536).getD 0

/-- Whether a crew fits a core that is free: its register files and slots. -/
def State.crewFits (s : State) (l : Launch) (core : Nat) : Bool :=
  decide (l.nteamsCrew ≤ s.freeSlices core * min 16 (524288 / (l.lanes * l.regs * 4)))

/-- Whether a partition with everything free could place one fleet: the field of the first need it cannot meet (R357). -/
def State.neverFits (s : State) (p : Part) (l : Launch) : Option Nat :=
  let cls := (List.range 96).filter fun c => p.owns (clusterGran c)
  let cores (cl : Nat) : List Nat := (List.range 4).map fun i => 4 * cl + i
  let usable (cl : Nat) : Nat := ((cores cl).filter fun c => decide (0 < s.freeSlices c)).length
  let crews := cls.any fun cl => decide (l.ncrews ≤ usable cl)
  let pool := decide (l.ncrews * l.nteamsCrew * l.lanes * 65536 ≤ p.laneBytes)
  let regs := cls.any fun cl => (cores cl).any fun c => s.crewFits l c
  let dspk := cls.any fun cl => decide (l.dspkKiB * 1024 ≤ p.dieBytes (cl / 12))
  let all := cls.any fun cl => decide (l.ncrews ≤ ((cores cl).filter fun c => s.crewFits l c).length)
    && decide (l.dspkKiB * 1024 ≤ p.dieBytes (cl / 12))
  if !crews || !pool then some 47 else if !regs then some 38 else if !dspk then some 131 else if all then none else some 47

/-- A launch just read. -/
def newLaunch (vf q : Nat) (k : Queue) (pkt : List QWord) (now : Nat) : Launch where
  vf := vf
  q := q
  asid := k.asid
  level := k.level
  pkt := pkt
  readAt := now
  next := 0
  placedAt := none
  ended := 0
  counter := 0
  nteams := 0
  nitems := 0
  status := 0
  cancel := false
  done := false
  trig := false
  lists := []
  carry := []
  dspk := []
  lb := []
  round := 1
  fleets := []
  dead := none
  gang := none
  quiet := false
  past := false

/-- Count a launch in its phase as its packet is read (R378). -/
def State.phaseMore (s : State) (l : Launch) : State :=
  s.modPart l.vf fun p =>
    let mark (x : Phase) : Phase := if l.pend then { x with closed := true, last := l.jend, q := l.q } else x
    if p.phases.any fun x => x.is l.job l.phase then
      { p with phases := p.phases.map fun x => if x.is l.job l.phase then mark { x with live := x.live + 1 } else x }
    else { p with phases := p.phases ++ [mark ⟨l.job, l.phase, 1, false, false, 0, l.q, false, false⟩] }

/-- A refused packet (R357): its record, its event; it counts as completed for its phase. -/
def State.refuse (s : State) (l : Launch) (field : Nat) : State :=
  let s1 := match s.storeHandle l.asid l.vf l.compl (recordBytes 6 l.lid l.phase l.job s.thyme 0 field) with
    | .ok s' => s'
    | .error _ => s
  let s2 := s1.pushEvent l.vf l.q ⟨4, 6, l.job, l.phase, 0, s.thyme, l.lid⟩
  (s2.modQueue l.vf l.q fun k => { k with head := (k.head + 1) % 65536 }).phaseLess l.vf l.job l.phase 6

def execLaunchPacketRead (vf q : Nat) (s : State) : Result :=
  .next <| match s.part? vf, s.queue? vf q with
  | some p, some k =>
    if !s.up || k.waiting.isSome || k.head == k.tail then s
    else
      match s.readHandle k.asid vf (mkHandle (hObj k.base) (hOff k.base + 128 * (k.head % k.size))) 128 with
      | .error _ => s
      | .ok bs =>
        let pkt := (List.range 16).map fun i => qn (leNat ((bs.drop (8 * i)).take 8))
        let l0 := newLaunch vf q k pkt s.thyme
        let g := s.gangs.find? fun e => e.2.vf == vf && e.2.q == q && e.2.entry == k.head % k.size && e.2.launch == 0 && !e.2.closed
        let l := { l0 with gang := g.map (·.1) }
        let closed := p.phases.any fun x => x.is l.job l.phase && x.closed
        let bad := (l.badField k.pmax closed).orElse fun _ =>
          (if l.gang.isSome && !l.cor then some 54 else none).orElse fun _ => s.neverFits p l
        let s1 := if closed then s else s.phaseMore l
        match bad with
        | some f =>
          (if closed then s.modPart vf fun p => { p with phases := p.phases.map fun x => if x.is l.job l.phase then { x with live := x.live + 1 } else x }
           else s1).refuse l f
        | none =>
          let uid := s1.nextId
          let s2 := s1.fresh
          let s3 : State := { s2 with
            launches := Tbl.set s2.launches uid l
            gangs := match g with | some e => Tbl.set s2.gangs e.1 { e.2 with launch := uid } | none => s2.gangs }
          let s4 := s3.modQueue vf q fun k => { k with waiting := some uid }
          let dead := p.jobCancel.contains l.job || p.cancelled.contains l.lid || p.phases.any fun x => x.is l.job l.phase && x.cancel
          let s5 := s4.modPart vf fun p => { p with cancelled := p.cancelled.filter (· != l.lid) }
          if dead then s5.cancelLaunch uid 1 else s5
  | _, _ => s

/-! ## The effects of a placement (R40, R142) -/

/-- Whether a launch of the next phase that names producer e in DEP0 has a lower LAUNCHID than l: one of this job that has been read, or
one that stands in a queue while the phase is open and not behind the packet that closes it (R40, R378). -/
def State.lowerReceiver (s : State) (e l : Launch) : Bool :=
  let here (f : Launch) : Bool := f.job == l.job && f.phase == l.phase
  let named (f : Launch) : Bool := here f && f.dep0 == e.lid && decide (f.lid < l.lid)
  let closed := (s.phases l.vf).any fun x => x.is l.job l.phase && x.closed
  s.launches.any (fun f => f.2.vf == l.vf && !f.2.past && named f.2)
    || !closed && (s.unreads l.vf).any fun pkts =>
      let ls := pkts.map fun pkt => { l with pkt := pkt }
      let before := ls.takeWhile fun f => !(here f && f.pend)
      (before ++ (ls.drop before.length).take 1).any named

/-- What a first placement does to the queue, and what a last one does (R40, R143, R144, R309) (DEDUCED, assumption 33). The round
robin of R142 is one for all PRIOs, and a launch's later fleets do not move it (DESIGN CHOICE, assumption 54). -/
def State.placedEffects (s : State) (uid : Nat) (first : Bool) : State :=
  match s.launch? uid with
  | none => s
  | some l =>
    let s1 := if first then
        -- carried items come to the head of the lists (R40)
        let from_ := s.launches.filter fun e =>
          e.2.vf == l.vf && e.2.job == l.job && e.2.phase + 1 == l.phase && e.2.done && e.2.lid == l.dep0 && !e.2.carry.isEmpty
            && !s.lowerReceiver e.2 l
        let items (i : Nat) : List QWord := from_.flatMap fun e => Tbl.getD e.2.carry i []
        let s0 := from_.foldl (fun s e => s.modLaunch e.1 fun x => { x with carry := [] }) s
        let lists := (List.range l.nlists).foldl (fun t i => if (items i).isEmpty then t else Tbl.set t i (items i ++ Tbl.getD t i [])) l.lists
        (s0.modLaunch uid fun x => { x with lists := lists }).modPart l.vf fun p => { p with
          rr := l.q
          queues := Tbl.modify p.queues l.q fun k => { k with waiting := none, head := (k.head + 1) % 65536 } }
      else s
    if l.placed then
      let s2 := s1.modPart l.vf fun p => { p with reserve := if p.reserve = some uid then none else p.reserve }
      let phaseAll := ((s2.phases l.vf).any fun x => x.is l.job l.phase && x.closed)
        && s2.launches.all fun e => !(e.2.vf == l.vf && e.2.job == l.job && e.2.phase == l.phase) || e.2.placed || e.2.cancel
      let s3 := if phaseAll then
          { s2 with launches := Tbl.mapVals s2.launches fun x =>
              if x.vf = l.vf ∧ x.job = l.job ∧ x.phase + 1 = l.phase ∧ x.done then { x with carry := [] } else x }
        else s2
      s3.settleTrig uid
    else s1

/-! ## Which launch is served (R142, R143) -/

/-- Launches of a partition that wait for placement of a fleet. -/
def State.pending (s : State) (vf : Nat) : List (Nat × Launch) :=
  s.launches.filter fun e =>
    e.2.vf == vf && !e.2.done && !e.2.cancel && !e.2.placed
      && (decide (0 < e.2.next) || ((s.queue? vf e.2.q).bind Queue.waiting) == some e.1)

/-- Whether a member of a gang may place: an armed one after GO in arm-and-go, once armed in eager mode (R315). -/
def State.gangMay (s : State) (l : Launch) : Bool :=
  match l.gang.bind fun k => Tbl.get? s.gangs k with
  | none => true
  | some g => !g.closed && g.armed && (g.eager || (match g.go with | some t0 => decide (t0 ≤ s.thyme) | none => false))

/-- The launch that reserves: the oldest waiting launch of the highest PRIO that has waited more than 1 ms (R143), counted from the reading
of its packet (DESIGN CHOICE, assumption 62). -/
def State.lateTop (s : State) (vf : Nat) : Option (Nat × Launch) :=
  ((s.pending vf).filter fun e => decide (e.2.readAt + 1000000 < s.thyme)).foldl (fun b e =>
    match b with
    | none => some e
    | some x => if x.2.prio < e.2.prio ∨ (e.2.prio = x.2.prio ∧ e.2.readAt < x.2.readAt) then some e else b) none

/-- The rules a launch must meet before room is looked for (R28, R32, R143, R309, HALT). -/
def State.mayPlace (s : State) (uid : Nat) (l : Launch) : Bool :=
  match s.part? l.vf, s.queue? l.vf l.q with
  | some p, some k =>
    s.up && (decide (0 < l.next) || (!k.stopped && decide (k.held.length < 256)))
      && s.phaseReady l && (l.early || s.depsMet l) && s.gangMay l
      && (match s.lateTop l.vf with | some r => decide (r.2.prio ≤ l.prio) | none => true)
      && (match p.reserve with
          | none => true
          | some r => r == uid || decide (((s.launch? r).map Launch.prio).getD 0 ≤ l.prio))
  | _, _ => false

/-- The state after a launch's next placement: one fleet, or all of them for COR = 1, in the room that gangs have not reserved. -/
def State.tryPlace (s : State) (uid : Nat) (l : Launch) : Option State :=
  if !s.mayPlace uid l then none
  else
    match (if l.cor then s.placeAll uid l.nfleets else s.placeFleet uid) with
    | some s1 => if s.keepsGangs s1 then some (s1.placedEffects uid (l.next == 0)) else none
    | none => none

/-- Pending launches in the order in which the distributor considers them. -/
def State.consider (s : State) (vf : Nat) : List (Nat × Launch) :=
  let rr := ((s.part? vf).map Part.rr).getD 0
  let ps := s.pending vf
  (List.range 8).reverse.flatMap fun prio =>
    let here := ps.filter fun e => e.2.prio == prio
    (List.range 64).flatMap fun i => here.filter fun e => e.2.q == (rr + 1 + i) % 64

/-- The launch to be served, with the state after it. -/
def State.nextPlacement (s : State) (vf : Nat) : Option (Nat × State) :=
  (s.consider vf).findSome? fun e => (s.tryPlace e.1 e.2).map fun s1 => (e.1, s1)

/-- Clusters that a placement would wake first. -/
def State.wakes (s s1 : State) : List Nat :=
  s.clusters.filterMap fun e => if s.isGated e.1 && !((Tbl.get? s1.clusters e.1).map Cluster.gated).getD true then some e.1 else none

/-- A gang member that could place its whole launch arms (R315): the room is reserved, and the leader learns of it. -/
def State.armGang (s : State) (uid : Nat) (l : Launch) : State :=
  match l.gang with
  | none => s
  | some k =>
    match Tbl.get? s.gangs k with
    | none => s
    | some g =>
      let ready : State := { s with gangs := Tbl.set s.gangs k { g with armed := true, go := some 0 } }
      if g.armed || g.closed || (ready.tryPlace uid l).isNone then s
      else
        let s1 : State := { s with gangs := Tbl.set s.gangs k { g with armed := true, armAt := s.thyme } }
        if g.member = 0 then s1 else s1.emit (.arm g.number g.leader g.member)

/-- A placement that has been planned; a dispatch to a gated cluster waits for its wake instead (R145). -/
def State.dispatch (s s1 : State) : State :=
  match s.wakes s1 with
  | [] => s1
  | ws => ws.foldl (fun s c => { s with clusters := Tbl.modify s.clusters c fun x => { x with waking := true } }) s

/-- FLEET_PLACEMENT: the launch that the distributor serves next; a gang member that has not armed arms first. -/
def execFleetPlacement (launch : Nat) (s : State) : Result :=
  .next <| match s.launch? launch with
  | none => s
  | some l =>
    let s0 := s.armGang launch l
    match s0.nextPlacement l.vf with
    | none => s0
    | some (uid, s1) => if uid ≠ launch then s0 else s0.dispatch s1

/-- LAUNCH_RESERVATION (R143): the oldest waiting launch of the highest PRIO that has waited more than 1 ms. -/
def execLaunchReservation (launch : Nat) (s : State) : Result :=
  .next <| match s.launch? launch with
  | none => s
  | some l => if (s.lateTop l.vf).map (·.1) = some launch then s.modPart l.vf fun p => { p with reserve := some launch } else s

/-! ## The end of a team (R35, R41, R53, R249) -/

/-- Whether an ended team's engine commands are complete and its memory has reached partition scope (DEDUCED, assumption 17). -/
def State.mayLeaveSlot (s : State) (t : Team) : Bool :=
  s.endDone t && s.cores.all fun c => c.2.copies.all (fun x => x.tk != t.tk) && c.2.mats.all fun x => x.tk != t.tk

/-- A forked team's end: its origin frame's JCELL falls, and a plain or vector frame becomes joined (R53). -/
def State.endFork (s : State) (t : Team) : State :=
  match t.origin with
  | none => s
  | some h =>
    match s.readHandle (s.asidOf t) t.vf (pcPlus h 8) 8 with
    | .error _ => s
    | .ok bs =>
      let q1 := leNat bs
      let kind := q1 / 2 ^ 60 % 4
      let low := q1 % 2 ^ 62 - q1 % 2 ^ 32 + (q1 + 2 ^ 32 - 1) % 2 ^ 32
      let st := if kind = 2 then q1 / 2 ^ 62 % 4 else 3
      match s.dillWrite t (pcPlus h 8) (leBytes 8 (st * 2 ^ 62 + low)) with
      | .ok s1 => s1
      | .error _ => s

/-- Barriers of the team's units lose it (R249). -/
def State.lowerBarriers (s : State) (t : Team) : State :=
  let low (t : Tbl Barrier) : Tbl Barrier := Tbl.mapVals t Barrier.lower
  { s with
    crews := Tbl.modify s.crews t.crewKey fun c => { c with cb := low c.cb, left := c.left - 1 }
    fleets := Tbl.modify s.fleets t.fleetKey fun f => { f with fb := low f.fb, left := f.left - 1 }
    launches := Tbl.modify s.launches t.launch fun l =>
      let left := (((Tbl.get? l.fleets t.fleetid).map (·.1)).getD 1) - 1
      { l with lb := low l.lb, fleets := Tbl.set l.fleets t.fleetid (left, l.round) } }

/-- What ends with a unit's last team: die scratchpads; and the first round of the fleets that follow is fixed (R160). A crew's own
scratchpad and barriers stay its fleet's, and their state stands as long as the launch (R24, R281) (DESIGN CHOICE, assumption 53). -/
def State.dropUnits (s : State) (t : Team) : State :=
  let onDie (d : Nat) : Bool := s.crews.any fun e => e.2.launch == t.launch && e.2.left != 0 && coreDie e.2.core == d
  let s2 := s.modLaunch t.launch fun l => { l with dspk := l.dspk.filter fun e => onDie e.1 }
  match s2.launch? t.launch with
  | none => s2
  | some l =>
    if l.det && ((Tbl.get? l.fleets t.fleetid).map (·.1)) == some 0 then
      { s2 with teams := Tbl.mapVals s2.teams fun u =>
          if u.launch = t.launch ∧ !u.forked ∧ u.first.isNone ∧ u.fleetid = t.fleetid + l.wave then { u with first := some (l.round + 1) } else u }
    else s2

def execTeamLeavesSlot (tk : Nat) (s : State) : Result :=
  .next <| match s.team? tk with
  | none => s
  | some t =>
    if !s.mayLeaveSlot t then s
    else
      let s1 := if t.forked then s.endFork t else s.lowerBarriers t
      let s2 : State := { s1 with teams := Tbl.del s1.teams tk }
      let s3 := if t.forked then s2 else s2.dropUnits t
      let s4 := (s3.useCluster t.core).modLaunch t.launch fun l =>
        { l with counter := l.counter - 1, nteams := l.nteams + 1, ended := l.ended + 1 }
      (s4.settleTrig t.launch).settleLaunch t.launch

/-! ## Items (R37 to R39, R361) -/

/-- Items that stand in the lists and item queues of a partition. -/
def State.itemsHeld (s : State) (vf : Nat) : Nat :=
  (s.launches.map fun e => if e.2.vf = vf then ((e.2.lists ++ e.2.carry).map fun x => x.2.length).sum else 0).sum
    + (s.cores.map fun c => (c.2.items.filter fun i => ((s.launch? i.1).map Launch.vf) == some vf).length).sum

def State.listRoom (s : State) (vf : Nat) : Nat := ((s.part? vf).bind Part.listPool |>.map fun x => x.2 / 8).getD 0

/-- ITEMS_ENTER_LIST: after the release of R102, where the work-list area has room; a cancelled launch keeps none. -/
def execItemsEnterList (tk id : Nat) (s : State) : Result :=
  .next <| match s.team? tk with
  | none => s
  | some t =>
    match t.sq.find? (fun e => e.id == id) with
    | none => s
    | some e =>
      match e.op with
      | .enq l items =>
        match s.launch? t.launch with
        | none => s
        | some la =>
          if !s.mayLeave t e (fun _ => false) then s
          else if la.cancel then s.putTeam (t.dropSq id)
          else if s.listRoom t.vf < s.itemsHeld t.vf + items.length then s
          else
            (s.putTeam (t.dropSq id)).modLaunch t.launch fun x =>
              { x with lists := Tbl.set x.lists l (Tbl.getD x.lists l [] ++ items), nitems := x.nitems + items.length }
      | _ => s

/-- Whether a team of a launch on a core last named a list. -/
def State.names (s : State) (core launch list : Nat) : Bool :=
  s.teams.any fun e => e.2.launch == launch && e.2.core == core && e.2.saved.isNone && !e.2.ended && e.2.named == some list

/-- ITEM_QUEUE_FILL: one item goes from the head of a list to the back of a core's item queue (DESIGN CHOICE, assumption 66). -/
def execItemQueueFill (core launch list : Nat) (s : State) : Result :=
  .next <| match s.launch? launch with
  | none => s
  | some l =>
    match Tbl.getD l.lists list [] with
    | [] => s
    | x :: r =>
      if l.det || !s.names core launch list || decide (1024 ≤ (s.core core).items.length) then s
      else
        (s.modLaunch launch fun l => { l with lists := Tbl.set l.lists list r }).modCore core fun c =>
          { c with items := c.items ++ [(launch, list, x)] }

/-- ITEM_RETURN: items of a list that no team of the core names any more go back to its head. -/
def execItemReturn (core launch list : Nat) (s : State) : Result :=
  .next <|
    if s.names core launch list then s
    else
      let mine (i : Nat × Nat × QWord) : Bool := i.1 == launch && i.2.1 == list
      let back := ((s.core core).items.filter mine).map fun i => i.2.2
      if back.isEmpty then s
      else
        (s.modCore core fun c => { c with items := c.items.filter fun i => !mine i }).modLaunch launch fun l =>
          { l with lists := Tbl.set l.lists list (back ++ Tbl.getD l.lists list []) }

/-- Sage's report outlives the instant (R39). -/
def execSageQuiescence (launch : Nat) (s : State) : Result :=
  .next <| match s.launch? launch with
  | none => s
  | some l => if s.quiescent launch l then s.modLaunch launch fun l => { l with quiet := true } else s

/-! ## Power gating (R145) -/

/-- A message that a core of a cluster waits for, or that its cores have sent. -/
def Msg.ofCluster (m : Msg) (cl : Nat) : Bool :=
  match m with
  | .gets _ c _ | .getx _ c _ | .pers _ c _ _ _ | .data _ c _ _ _ | .nack _ c _ => coreCluster c == cl
  | _ => false

/-- Whether a cluster has a resident team, an engine command in flight or an outstanding fill: a load or store of a saved team too. -/
def State.clusterBusy (s : State) (cl : Nat) : Bool :=
  s.teams.any (fun e => coreCluster e.2.core == cl && (e.2.saved.isNone || !(e.2.tq.isEmpty && e.2.sq.isEmpty)))
    || s.cores.any (fun c => coreCluster c.1 == cl && !(c.2.copies.isEmpty && c.2.mats.isEmpty))
    || s.cvs.any (fun c => coreCluster c.1 == cl && !c.2.isEmpty)
    || s.msgs.any fun m => m.ofCluster cl

/-- The idle time of a busy cluster starts anew with every core cycle (R145). -/
def State.markBusy (s : State) : State :=
  { s with clusters := s.clusters.map fun e => if !e.2.gated && s.clusterBusy e.1 then (e.1, { e.2 with idle := s.thyme }) else e }

def execClusterPowerGate (cluster : Nat) (s : State) : Result :=
  .next <|
    let c := s.cluster cluster
    if c.gated || c.waking || s.clusterBusy cluster || decide (s.thyme < c.idle + 50000) then s
    else { s with clusters := Tbl.set s.clusters cluster { c with gated := true, gatedAt := s.cycle } }

def execClusterWake (cluster : Nat) (s : State) : Result :=
  .next <|
    let c := s.cluster cluster
    if c.waking then { s with clusters := Tbl.set s.clusters cluster ⟨false, s.thyme, false, 0⟩ } else s

end Sys2Proof.Machine
end

