-- ==== Sys2Proof/Machine/Tiers.lean ====
section
/-! DEFINITION. What the memory system does on its own: Fennel's windows (07 R119), migration (05 R82, R83; 09 R156), sparing
and lost units (23 R347, R348, R353), register-file errors and retirement (24 R365, R366), Thyme (23 R350; 24 R372), the end of
a translation invalidation (05 R75). -/

namespace Sys2Proof.Machine

/-! ## Replication degree -/

/-- Replicas on dies that their granule's degree no longer admits collapse. -/
def State.collapseExcess (s : State) : State := s.collapseWhere fun die line r => !s.admits r.vf line r.home die

/-- Table 7.3. -/
def Gran.next (g : Gran) : Nat :=
  match g.repl with
  | 1 => 0
  | 2 => g.pdies - 1
  | _ => if g.rm < 8 * g.wr then g.degree - 1 else if 16 ≤ g.rm then min (g.degree + 1) (g.pdies - 1) else g.degree

/-- FENNEL_WINDOW_END: the next window that ends at a multiple of 10,000 ns. -/
def execFennelWindowEnd (s : State) : Result :=
  .next <|
    if s.thyme < (s.window + 1) * 10000 then s
    else
      let s1 : State := { s with
        window := s.window + 1
        grans := Tbl.mapVals s.grans fun g => { g with degree := g.next, rm := 0, wr := 0, last := g.acc, acc := 0 } }
      s1.collapseExcess

/-! ## Migration -/

/-- The T1 stack of a physical granule. -/
def stackOf (start : Nat) : Option Nat := if start < 2 ^ 21 then some (start / 65536) else none

/-- DESIGN CHOICE, assumption 48. -/
def State.stack (s : State) (k : Nat) : Stack := Tbl.getD s.srams k ⟨8, 0, 25, 0, false⟩

/-- Whether a granule has a row for which no spare is left (R353). -/
def State.worn (s : State) (start : Nat) : Bool :=
  s.noSpare.any fun r =>
    match r with
    | .t1 n => n / 64 == start
    | .t2 n => n / 64 == start
    | _ => false

/-- Extents with granule g moved to another start, where it fits. -/
def moveExtent : List QWord → Nat → Nat → List QWord
  | [], _, _ => []
  | e :: r, g, dst =>
    let n := fld e 63 40
    let st := fld e 25 0
    let ext (n st : Nat) : List QWord := if n = 0 then [] else [qn (n * 2 ^ 40 + st)]
    if g < n then ext g st ++ ext 1 dst ++ ext (n - 1 - g) (st + g + 1) ++ r else e :: moveExtent r (g - n) dst

/-- The descriptor of an object, read for the migration engine. -/
def State.objDesc (s : State) (asid obj : Nat) : Option Desc :=
  match s.desc 999 asid (mkHandle obj 0) with
  | .ok d => if d.kind = 4 ∨ s.extBad d then none else some d
  | .error _ => none

/-- An object's extents once it maps dst wherever it mapped src. -/
def State.newExtents (s : State) (d : Desc) (src dst : Nat) : List QWord :=
  ((offsetsOf (src * 65536) (s.extents d) 0).map fun x => x / 65536).foldl (fun es g => moveExtent es g dst) (s.extents d)

/-- What maps a physical granule in a partition: ASID, object, granule of the object, descriptor (R70). Several objects may. -/
def State.mappings (s : State) (vf start : Nat) : List (Nat × Nat × Nat × Desc) :=
  (s.asids.filter fun e => e.2.vf == vf).flatMap fun e =>
    (List.range e.2.len).flatMap fun o =>
      match s.objDesc e.1 o with
      | some d => (offsetsOf (start * 65536) (s.extents d) 0).map fun x => (e.1, o, x / 65536, d)
      | none => []

/-- The tables that the driver keeps in a partition's memory: object tables and extent lists, as base and length. -/
def State.tables (s : State) (vf : Nat) : List (Nat × Nat) :=
  (s.asids.filter fun e => e.2.vf == vf).flatMap fun e =>
    (e.2.base, 64 * e.2.len) :: (List.range e.2.len).filterMap fun o => (s.objDesc e.1 o).map fun d => (d.extp, 8 * d.ecap)

/-- A line of a physical granule is lost. -/
def State.granLost (s : State) (start : Nat) : Bool := s.lost.any fun u => match u with | .line l => l / 512 == start | _ => false

/-- A granule of a partition that nothing uses and that holds no lost line (R156, R347). -/
def State.granFree (s : State) (vf dst : Nat) : Bool :=
  s.ownsGran vf dst && !s.worn dst && !s.granLost dst && (s.mappings vf dst).isEmpty && s.tlb.all (fun e => e.start != dst)
    && (s.tables vf).all fun r => !overlap r.1 r.2 (dst * 65536) 65536

/-- What R82 asks of a move between two granules: PIN of every object that maps the source, and room in their extent lists. -/
def State.pinsAllow (s : State) (vf src dst : Nat) : Bool :=
  let maps := s.mappings vf src
  let ok (pin start : Nat) : Bool := pin == 0 || pin == (if (stackOf start).isSome then 1 else 2)
  !maps.isEmpty && maps.all fun m =>
    ok m.2.2.2.pin src && ok m.2.2.2.pin dst && decide ((s.newExtents m.2.2.2 src dst).length ≤ m.2.2.2.ecap)

/-- The coolest stack of a partition below 80 °C (R156). -/
def State.coolTo (s : State) (vf dst : Nat) : Bool :=
  match stackOf dst with
  | some k => decide ((s.stack k).temp < 80)
      && (List.range 32).all (fun j => !s.ownsGran vf (65536 * j) || decide ((s.stack k).temp ≤ (s.stack j).temp))
  | none => false

/-- The granule of a hot stack with the most accesses in the last window, among those that may move (R156). -/
def State.hottest (s : State) (vf src dst : Nat) : Bool :=
  match stackOf src with
  | some k => decide (1 ≤ (s.stack k).heat)
      && s.grans.all fun e => stackOf e.1 != some k || decide (e.2.last ≤ (s.gran src).last) || !s.ownsGran vf e.1 || !s.pinsAllow vf e.1 dst
  | none => false

/-- What R82, R156 and R353 ask of a move of a physical granule: the hottest of a hot stack goes to the coolest stack, one at a time; a
granule with a worn row goes anywhere. -/
def State.mayMigrate (s : State) (vf src dst : Nat) : Bool :=
  ((s.hottest vf src dst && s.coolTo vf dst) || s.worn src) && s.ownsGran vf src && s.granFree vf dst && s.pinsAllow vf src dst
    && s.moves.all fun m =>
        match m with
        | .gran _ s1 d1 => s1 != src && d1 != dst && stackOf s1 != stackOf src
        | .row _ => true

/-- HOT_GRANULE_MIGRATION: the copy starts, and writes to the granule wait. -/
def execHotGranuleMigration (asid obj gran dst : Nat) (s : State) : Result :=
  .next <|
    match Tbl.get? s.asids asid, (s.objDesc asid obj).bind fun d => granOf (s.extents d) gran with
    | some a, some src => if s.mayMigrate a.vf src dst then { s with moves := s.moves ++ [.gran a.vf src dst] } else s
    | _, _ => s

/-- The granule's bytes at its new place. -/
def Memory.moveGran (m : Memory) (src dst : Nat) : Memory :=
  (m.filter fun e => e.1 / 65536 == src).foldl (fun m e => Memory.set m (dst * 65536 + e.1 % 65536) e.2)
    (Memory.zero m (dst * 65536) (dst * 65536 + 65536))

/-- A location seen through a move of granule src to dst. -/
def moved (src dst x : Nat) : Nat := if x / 65536 = src then dst * 65536 + x % 65536 else x

def Piece.moved (src dst : Nat) (p : Piece) : Piece := { p with loc := Machine.moved src dst p.loc }

/-- Accesses that have not reached the granule go to its new place. -/
def Team.moved (src dst : Nat) (t : Team) : Team :=
  { t with
    tq := t.tq.map fun e => match e.op with
      | .load ps acc => { e with op := .load (ps.map (Piece.moved src dst)) acc }
      | .fence _ => e
    sq := t.sq.map fun e => { e with loc := Machine.moved src dst e.loc } }

/-- Rename a table's keys. -/
def Tbl.rename {α : Type} (t : Tbl α) (f : Nat → Nat) : Tbl α := List.foldl (fun u e => Tbl.set u (f e.1) e.2) [] t

/-- The coherence of a granule's lines begins anew: no replica, no token out, no message on its way. -/
def State.forgetLines (s : State) (start : Nat) : State :=
  let here (line : Nat) : Bool := line / 512 == start
  let s1 := s.dropReplicas fun _ line _ => here line
  ({ s1 with
    dirs := s1.dirs.filter fun e => !here (e.1 % 2 ^ 40)
    msgs := s1.msgs.filter fun m => !here m.line
    partials := s1.partials.map fun p => if here p.line then { p with await := [] } else p } : State).prune

/-- Everything that names the moved granule names its new place (DEDUCED, assumption 38). -/
def State.relocate (s : State) (src dst : Nat) : State :=
  let loc := moved src dst
  { s with
    mem := Memory.moveGran s.mem src dst
    teams := Tbl.mapVals s.teams (Team.moved src dst)
    cvs := Tbl.mapVals s.cvs fun l => l.map fun e => { e with loc := loc e.loc }
    cores := Tbl.mapVals s.cores fun c => { c with
      icache := Tbl.rename c.icache loc
      copies := c.copies.map fun x =>
        let at_ (y : CopyPiece) : CopyPiece := { y with p := y.p.moved src dst }
        { x with reads := x.reads.map at_, puts := x.puts.map at_ } }
    grans := Tbl.set (Tbl.del s.grans src) dst { s.gran src with degree := 0, rm := 0, wr := 0 } }

/-- Write an object's new extents, then NEXT, as one update, and drop what was translated through the old ones (R75, R82). old is the
state before the swap: two objects may share a list. -/
def State.remap (s old : State) (src dst asid obj : Nat) : State :=
  match old.objDesc asid obj with
  | none => s
  | some d =>
    let es := old.newExtents d src dst
    let q1 := (d.q 1).toNat % 2 ^ 52 + es.length * 2 ^ 52
    { s with
      mem := Memory.write (Memory.write s.mem d.extp (es.flatMap fun e => leBytes 8 e.toNat)) (s.descLoc asid obj + 8) (leBytes 8 q1)
      tlb := s.tlb.filter fun e => !(e.asid == asid && e.obj == obj) }

/-- MIGRATION_SWAP: abandoned when a line of the source or of the destination is lost (R347), so that another destination can be chosen, or
the source is no longer mapped; else every object that maps the granule maps its new place. -/
def execMigrationSwap (src : Nat) (s : State) : Result :=
  .next <|
    let this (m : Move) : Bool := match m with | .gran _ x _ => x == src | .row _ => false
    match s.moves.find? this with
    | some (.gran vf _ dst) =>
      let s0 : State := { s with moves := s.moves.filter fun m => !this m }
      if s.granLost src || s.granLost dst || !s.pinsAllow vf src dst then s0
      else
        let objs := ((s.mappings vf src).map fun m => (m.1, m.2.1)).eraseDups
        objs.foldl (fun s1 o => s1.remap s src dst o.1 o.2) ((s0.forgetLines src).relocate src dst)
    | _ => s

/-! ## Errors of memory -/

/-- The spare rows left in a region (R353). -/
def State.spareLeft (s : State) (region : Nat) : Nat :=
  Config.spareRows region - (s.spared.filter fun r => Config.spareRegion r == region).length

/-- Start to spare a row, where its region has a spare row left. -/
def State.startSpare (s : State) (r : MemRow) : State :=
  let s0 : State := { s with rowErrs := s.rowErrs.filter fun e => e.1 != r }
  if s.moves.contains (.row r) || s.noSpare.contains r then s0
  else if s.spareLeft (Config.spareRegion r) = 0 then { s0 with noSpare := s0.noSpare ++ [r] }
  else { s0 with moves := s0.moves ++ [.row r] }

/-- SPARE_SWAP: the spare row takes the row's place. -/
def execSpareSwap (row : MemRow) (s : State) : Result :=
  .next <|
    if s.moves.contains (.row row) then
      { s with moves := s.moves.filter fun m => m != .row row, spared := s.spared ++ [row] }
    else s

/-- The row of a physical address of T1 or T2 (DEDUCED, assumption 39). -/
def rowOfAddr (a : Nat) : MemRow := if a < 2 ^ 37 then .t1 (a / 1024) else .t2 (a / 1024)

/-- The row of a lost unit of memory (R353) (DEDUCED, assumption 39). -/
def State.rowOfUnit (s : State) : LostUnit → Option MemRow
  | .line n => some (rowOfAddr (128 * n))
  | .cached n => some (.l2 (Config.l2Row 0 n))
  | .word n => some (.spad (spadRow (4 * n)))
  | .desc a | .mended a => some (rowOfAddr a)
  | .elem k => some (.l2 (Config.l2Row ((s.elemSlices k).getD (Config.elemPart k % (s.elemSlices k).length) 0) k))
  | .tile _ _ => none

/-- A unit is lost. A dirty line that an L2 slice or an L1 held is a lost line (Table 23.3). -/
def State.loseUnit (s : State) (u : LostUnit) : State :=
  let add (u : LostUnit) : State := { s with lost := if s.lost.contains u then s.lost else s.lost ++ [u] }
  match u with
  | .elem k => (s.modElem k fun e => { e with lost := true, asked := [] }).serveAll k
  | .cached n => let s1 := add (.line n); { s1 with lostCached := if s1.lostCached.contains n then s1.lostCached else s1.lostCached ++ [n] }
  | .mended a => add (.desc a)
  | _ => add u

/-- UNCORRECTABLE_ERROR: the unit is lost, and its row is spared at once. -/
def execUncorrectableError (u : LostUnit) (s : State) : Result :=
  .next <|
    match s.rowOfUnit u with
    | some r => (s.loseUnit u).startSpare r
    | none => s.loseUnit u

/-- An error of a row is counted; the fourth within 3,600 s is lasting (R353). -/
def State.countRow (s : State) (r : MemRow) : State :=
  let near := s.rowErrs.filter fun e => decide (s.thyme < e.2 + 3600000000000)
  let s1 : State := { s with rowErrs := near ++ [(r, s.thyme)] }
  if 4 ≤ (s1.rowErrs.filter fun e => e.1 == r).length then s1.startSpare r else s1

/-! ## Register files -/

/-- Retire a slice: its teams are saved, and a core with all six slices retired is itself retired (R365). -/
def State.retireSlice (s : State) (sl : Nat) : State :=
  if s.retired.contains sl then s
  else
    let s1 : State := { s with retired := s.retired ++ [sl] }
    let s2 := (s1.residents sl).foldl (fun s t => s.saveTeam t.tk) s1
    let core := sl / 6
    if (List.range 6).all fun i => s2.retired.contains (6 * core + i) then
      let ls := (s2.crews.filter fun e => e.2.core == core && s2.fleetLive e.2.launch e.2.fleet && ((s2.launch? e.2.launch).map Launch.bound).getD false).map fun e => e.2.launch
      ls.eraseDups.foldl (fun s l => s.cancelLaunch l 4) s2
    else s2

/-- CORRECTED_ERROR: the fourth of a row within 3,600 s spares it, the third of a lane within 60 s retires its slice; a replica or clean
copy is dropped and refetched, and the refetch is counted (Table 23.3, R353). -/
def execCorrectedError (site : ErrSite) (s : State) : Result :=
  .next <|
    match site with
    | .row r => s.countRow r
    | .lane sl lane =>
      let near := s.regErrs.filter fun e => decide (s.thyme < e.2.2 + 60000000000)
      let s1 : State := { s with regErrs := near ++ [(sl, lane, s.thyme)] }
      if 3 ≤ (s1.regErrs.filter fun e => e.1 == sl && e.2.1 == lane).length then s1.retireSlice sl else s1
    | .copy die line =>
      (((({ s with refetched := s.refetched + 1 } : State).countRow (.l2 (Config.l2Row die line))).dropReplica die line).prune)

/-- REGFILE_ERROR: the team parks, one that is Parked already anew with this cause, and its slice is retired at once (R366). -/
def execRegfileError (tk detail lane : Nat) (s : State) : Result :=
  .next <| match s.team? tk with
  | none => s
  | some t =>
    if t.saved.isSome || t.ended || !(detail == 1 || detail == 2) then s
    else
      let s0 := s.leaveList t.vf tk
      let s1 := s0.parkAtBoundary { t with park := none, late := [] } ⟨0x82, detail, qn t.slice, qn (if detail = 1 then lane else 0)⟩
      s1.retireSlice t.slice

/-! ## Thyme -/

def Die.reset : Die where
  limiting := false
  throttle := false
  above := 0
  next := 0
  temp := 25
  thyme := false
  resync := none
  tripAt := none
  off := false
  lost := false

def State.modDie (s : State) (d : Nat) (f : Die → Die) : State := { s with dies := Tbl.set s.dies d (f (Tbl.getD s.dies d Die.reset)) }

/-- DIE_THYME_DEPARTURE: every partition that includes the die falls to degree 0, and its replicas collapse. -/
def execDieThymeDeparture (die : Nat) (s : State) : Result :=
  .next <|
    let hit (vf : Nat) : Bool := ((s.part? vf).map fun p => p.dies.contains die).getD false
    let owned (start : Nat) : Bool :=
      match physGran (start * 65536) with
      | some g => s.parts.any fun e => e.2.owns g && hit e.1
      | none => false
    let s1 := s.modDie die fun d => { d with thyme := true }
    let s2 : State := { s1 with grans := s1.grans.map fun e => if owned e.1 then (e.1, { e.2 with degree := 0 }) else e }
    s2.collapseWhere fun _ _ r => hit r.vf

/-- THYME_RESYNC: grants resume one LEASE later. -/
def execThymeResync (die : Nat) (s : State) : Result :=
  .next <|
    if ((Tbl.get? s.dies die).map Die.thyme).getD false then s.modDie die fun d => { d with thyme := false, resync := some s.thyme }
    else s

/-- SYNC of the module status (R372). -/
def State.setSync (s : State) (on : Bool) : State :=
  { s with status := if on then s.status ||| 0x1000000 else s.status &&& ~~~ 0x1000000 }

def execModuleThymeDeparture (s : State) : Result := .next (s.setSync true)

def execModuleThymeResync (s : State) : Result := .next (s.setSync false)

/-! ## Translation invalidation (R75) -/

/-- Whether an access of a launch of an ASID names an object. -/
def State.namesObj (s : State) (asid obj tk : Nat) (addr : QWord) : Bool :=
  hObj addr == obj && ((s.team? tk).bind fun t => (s.launch? t.launch).map Launch.asid) == some asid

/-- No line of a core's view and no chunk of a copy that was translated under the old mapping remains: an access that stands in a queue
still is translated anew (DEDUCED, assumption 44). -/
def State.drained (s : State) (asid obj : Nat) : Bool :=
  s.cvs.all (fun c => c.2.all fun e => !(isPhys e.loc && s.namesObj asid obj e.tk e.addr))
    && s.cores.all fun c => c.2.copies.all fun x => x.held || (x.reads ++ x.puts).all fun y =>
      !(y.obj == some obj && ((s.team? x.tk).bind fun t => (s.launch? t.launch).map Launch.asid) == some asid)

/-- Where a location of an access through a handle lies under the mapping of now, and its home. -/
def State.newPlace (s : State) (t : Team) (addr : QWord) (loc : Nat) : Except FInfo (Nat × Nat) :=
  let o := hOff addr + (loc % 65536 + 65536 - hOff addr % 65536) % 65536
  match s.desc 999 (s.asidOf t) (mkHandle (hObj addr) o) with
  | .error f => .error f
  | .ok d =>
    match s.phys 999 (s.asidOf t) t.vf d (hObj addr) o with
    | .error f => .error f
    | .ok a => .ok (a, s.home t.vf (hObj addr) o d.hilv d.hdie)

/-- Translate a load's pieces anew. -/
def State.newPieces (s : State) (t : Team) (addr : QWord) (ps : List Piece) : Except FInfo (List Piece) :=
  ps.foldr (fun p acc =>
    match s.newPlace t addr p.loc, acc with
    | .error f, _ => .error f
    | .ok _, .error f => .error f
    | .ok a, .ok r => .ok ({ p with loc := a.1, home := a.2 } :: r)) (.ok [])

/-- The accesses in a team's queues to an object are translated anew (R75); one whose granule is no longer there faults. -/
def State.retranslate (s : State) (asid obj : Nat) (t0 : Team) : State :=
  let loads := t0.tq.filter fun e => match e.op with
    | .load ps _ => !e.lane && ps.any (fun p => isPhys p.loc) && s.namesObj asid obj t0.tk e.addr
    | .fence _ => false
  let stores := t0.sq.filter fun e => e.space == .global && isPhys e.loc && (e.op.isStore || e.op.isAtomic) && !e.op.isCtr
    && s.namesObj asid obj t0.tk e.addr
  let s1 := loads.foldl (fun s e =>
    match e.op with
    | .fence _ => s
    | .load ps acc =>
      match s.newPieces t0 e.addr ps with
      | .ok qs => s.modTeam t0.tk fun t => { t with tq := updWhere t.tq (fun x => x.id == e.id) fun x => { x with op := .load qs acc } }
      | .error f => (s.modTeam t0.tk fun t => t.dropTq e.id).latePrecise t0.tk f e.dest e.pc e.rpc e.word) s
  stores.foldl (fun s e =>
    match s.newPlace t0 e.addr e.loc with
    | .ok a => s.modTeam t0.tk fun t => { t with sq := updWhere t.sq (fun x => x.id == e.id) fun x => { x with loc := a.1, home := a.2 } }
    | .error f =>
      let s1 := s.modTeam t0.tk fun t => t.dropSq e.id
      if e.op.isStore then s1.lateFault t0.tk f e.pc e.word else s1.latePrecise t0.tk f e.dest e.pc e.rpc e.word) s1

/-- Whether a descriptor maps a physical granule. -/
def State.objMaps (s : State) (asid obj start : Nat) : Bool :=
  match s.objDesc asid obj with
  | some d => (s.extents d).any fun e => decide (fld e 25 0 ≤ start) && decide (start < fld e 25 0 + fld e 63 40)
  | none => false

/-- A granule starts at degree 0 when it is mapped (R119): those that f names begin anew. -/
def State.renewGrans (s : State) (f : Nat → Gran → Bool) : State :=
  ({ s with grans := s.grans.map fun e => if f e.1 e.2 then (e.1, { e.2 with degree := 0, rm := 0, wr := 0 }) else e } : State).collapseExcess

/-- What a new mapping of an object begins anew: the granules that it has left, and those that it has come to. -/
def State.remapGrans (s : State) (asid obj : Nat) : State :=
  s.renewGrans fun g x => s.objMaps asid obj g != (x.obj == asid * 2 ^ 24 + obj)

/-- An object that the table no longer gives as a counter array is unmapped (R121) (DEDUCED, assumption 30). -/
def State.counterGone (s : State) (asid obj : Nat) : Bool :=
  let q0 := s.rdQ (s.descLoc asid obj)
  !(fld q0 63 63 == 1 && fld q0 62 60 == 2)

/-- TRANSLATION_INVALIDATION_COMPLETE: entries and tags of the old mapping are gone; a lost descriptor or extent entry that the
driver has rewritten is good again (Table 23.3). -/
def execTranslationInvalidationComplete (asid obj : Nat) (s : State) : Result :=
  .next <|
    match s.jobs.find? (fun j => match j with | .tinval _ _ a o => a == asid && o == obj | _ => false) with
    | some (.tinval tag vf _ _) =>
      if !s.drained asid obj then s
      else
        let a := (Tbl.get? s.asids asid).getD ⟨vf, 0, 0⟩
        let d := a.base + 64 * obj
        let e := 64 * (s.rdNat (d + 8) 8 % 2 ^ 40)
        let n := s.rdNat (d + 8) 8 / 2 ^ 52
        let good (u : LostUnit) : Bool := match u with | .mended x => x == d || within x e (8 * n) | _ => false
        let job : AdminJob := .tinval tag vf asid obj
        let s1 := s.remapGrans asid obj
        let s2 := if s.counterGone asid obj then s1.dropElems fun a o => a == asid && o == obj else s1
        let s3 : State := { s2 with
          tlb := s2.tlb.filter fun e => !(e.asid == asid && e.obj == obj)
          lost := s2.lost.filter fun u => !good u
          jobs := s2.jobs.map fun j => if j = job then .done tag 0 0 else j }
        (s3.teams.map (·.2)).foldl (fun s t => s.retranslate asid obj t) s3
    | _ => s

end Sys2Proof.Machine
end

