-- ==== Sys2Proof/Machine/Gangs.lean ====
section
/-! DEFINITION. Gangs (21 R315; 24 R370). A gang is kept under its number; messages that come before this module's own GANG
are kept in an entry of count 0. -/

namespace Sys2Proof.Machine

/-- An entry that only keeps messages. -/
def Gang.early (number : Nat) : Gang :=
  ⟨number, 0, 0, 0, false, 0, 0, 0, 0, false, [], none, 0, 0, [], false, 0⟩

def State.gang (s : State) (n : Nat) : Gang := Tbl.getD s.gangs n (Gang.early n)

def State.putGang (s : State) (g : Gang) : State := { s with gangs := Tbl.set s.gangs g.number g }

/-- The lowest member whose ARM is missing at the leader. -/
def Gang.missing (g : Gang) : Option Nat := (List.range g.count).find? fun i => i != 0 && !g.arms.contains i

/-- The leader on the last of N − 1 ARMs sends GO. -/
def State.tryGo (s : State) (n : Nat) : State :=
  let g := s.gang n
  if g.count = 0 ∨ g.member ≠ 0 ∨ g.closed ∨ g.go.isSome ∨ g.missing.isSome then s
  else
    let t0 := if g.eager then s.thyme else s.thyme + 2000
    (s.putGang { g with go := some t0 }).emit (.go n t0)

/-- This module's member gives up (R370): a placed launch is cancelled, an unplaced one is left unplaced, and the gang event
names a member. -/
def State.dropGang (s : State) (n member : Nat) : State :=
  let g := s.gang n
  if g.closed then s
  else
    let s1 := s.putGang { g with closed := true }
    if g.count = 0 then s1
    else
      let l := s.launch? g.launch
      let s2 := if (l.map fun l => decide (0 < l.next)).getD false then s1.cancelLaunch g.launch 3 else s1
      s2.pushEvent g.vf g.q ⟨3, 3, (l.map Launch.job).getD 0, 0, member, s.thyme, n⟩

/-- The leader aborts the gang (R370). -/
def State.abortGang (s : State) (n member : Nat) : State :=
  let g := s.gang n
  if g.closed then s else (s.dropGang n member).emit (.abort n member)

/-- ARM reaches the leader. -/
def execArm (gang member : Nat) (s : State) : Result :=
  .next <|
    let g := s.gang gang
    if g.closed || g.arms.contains member then s else (s.putGang { g with arms := g.arms ++ [member] }).tryGo gang

/-- GO reaches a member. -/
def execGo (gang t0 : Nat) (s : State) : Result :=
  .next <|
    let g := s.gang gang
    if g.closed || g.go.isSome || (g.member == 0 && g.count != 0) then s else s.putGang { g with go := some t0 }

/-- GANG_START: at T0, or once armed in eager mode, the member places its launch at the first opportunity. -/
def execGangStart (gang : Nat) (s : State) : Result :=
  .next <|
    let g := s.gang gang
    match s.launch? g.launch with
    | none => s
    | some l =>
      if g.count = 0 ∨ l.done ∨ l.cancel ∨ l.placed ∨ !s.gangMay l then s
      else
        match s.tryPlace g.launch l with
        | none => s
        | some s1 => s.dispatch s1

/-- ABORT reaches a member; at the leader it tells of a member whose launch was reset or that has become unreachable. -/
def execAbort (gang member : Nat) (s : State) : Result :=
  .next <|
    let g := s.gang gang
    if g.member = 0 ∧ g.count ≠ 0 then s.abortGang gang member else s.dropGang gang member

/-- GANG_MEMBER_COMPLETION reaches the leader. -/
def execGangMemberCompletion (gang member : Nat) (s : State) : Result :=
  .next <|
    let g := s.gang gang
    if g.closed || g.dones.contains member then s else (s.putGang { g with dones := g.dones ++ [member] }).settleGang gang

/-- GANG_TIMER_EXPIRY: 10 ms after the leader's GANG, with an ARM missing. -/
def execGangTimerExpiry (gang : Nat) (s : State) : Result :=
  .next <|
    let g := s.gang gang
    if g.count = 0 ∨ g.member ≠ 0 ∨ g.go.isSome ∨ s.thyme < g.at_ + 10000000 then s
    else
      match g.missing with
      | some m => s.abortGang gang m
      | none => s

/-- EAGER_GANG_TIMEOUT: 20 ms after a member's own arm with neither GO nor ABORT. -/
def execEagerGangTimeout (gang : Nat) (s : State) : Result :=
  .next <|
    let g := s.gang gang
    if g.count = 0 ∨ g.member = 0 ∨ !g.eager ∨ !g.armed ∨ g.go.isSome ∨ s.thyme < g.armAt + 20000000 then s
    else s.dropGang gang 255

end Sys2Proof.Machine
end

