-- ==== Sys2Proof/Machine/Reset.lean ====
section
/-! DEFINITION. Partitions made, reset and freed (21 R307, R310 to R312; 24 R364, R369), and the loss of a die (24 R364). -/

namespace Sys2Proof.Machine

/-! ## Memory of granules -/

/-- The partition granule that a location's contents belong to: T1, T2, core scratchpads. -/
def locGran (loc : Nat) : Option Nat :=
  if isPhys loc then physGran loc
  else if loc < 2 ^ 43 then none
  else if loc < 2 ^ 44 then some (coreGran ((loc - 2 ^ 43) / 2 ^ 20))
  else none

/-- Whether a location lies in the lane-private pool or the die scratchpads of a partition. -/
def locVf (vf loc : Nat) : Bool :=
  (decide (laneLoc vf 0 ≤ loc) && decide (loc < laneLoc (vf + 1) 0))
    || (decide (2 ^ 44 ≤ loc) && decide (loc < 2 ^ 64) && (loc - 2 ^ 44) % 2 ^ 32 / 2 ^ 25 == vf)

/-- Zero what a granule mask holds; T2 under a new key reads as memory that nothing has written (DESIGN CHOICE, assumption 3). -/
def State.zeroGrans (s : State) (mask : BitVec 32) : State :=
  { s with mem := s.mem.filter fun e => match locGran e.1 with | some g => !mask.getLsbD g | none => true }

/-- Zero everything that lies in a partition's name alone: its lane-private pool and die scratchpads. -/
def State.zeroVf (s : State) (vf : Nat) : State :=
  { s with mem := s.mem.filter fun e => !locVf vf e.1 }

/-! ## A new partition -/

/-- A partition as PCREATE and a reset leave it (R36, R114, R311, R359, Table 14.8). -/
def Part.fresh (mask : BitVec 32) (key lease cycle : Nat) : Part where
  mask := mask
  key := key
  lease := lease
  leases := []
  teamCtr := 1
  clockBase := cycle
  lanePool := none
  framePool := none
  listPool := none
  queues := []
  rr := 63
  phases := []
  jobCancel := []
  cancelled := []
  reserve := none
  fqbase := 0
  fqsize := 0
  fqhead := 0
  fqtail := 0
  fqasid := 0
  pkbase := 0
  pkasid := 0
  tvec := 0
  parked := []
  due := []
  failed := []
  waitlim := 0
  runlim := 0
  noRec := 0
  noFault := 0
  deferred := 0
  resize := none
  noPlace := 0

/-- Whether a lost unit lies in a granule mask, or in what a partition owns by name. -/
def lostHere (vf : Nat) (mask : BitVec 32) (u : LostUnit) : Bool :=
  let at_ (loc : Nat) : Bool := (match locGran loc with | some g => mask.getLsbD g | none => false) || locVf vf loc
  match u with
  | .line n => at_ (128 * n)
  | .word n => at_ (4 * n)
  | .tile c _ => mask.getLsbD (coreGran c)
  | .elem _ => false
  | .cached n => at_ (128 * n)
  | .desc a | .mended a => at_ a

/-- Forget what cores, caches and units hold of a granule mask. -/
def State.clearGrans (s : State) (vf : Nat) (mask : BitVec 32) : State :=
  let core (c : Nat) : Bool := mask.getLsbD (coreGran c)
  let line (l : Nat) : Bool := match physGran (128 * l) with | some g => mask.getLsbD g | none => false
  { s with
    cores := s.cores.filter fun e => !core e.1
    cvs := s.cvs.filter fun e => !core e.1
    tiles := s.tiles.filter fun e => !core (e.1 / 16)
    partials := s.partials.filter fun p => !line p.line
    replicas := s.replicas.filter fun e => !line (e.1 % 2 ^ 40)
    dirs := s.dirs.filter fun e => !line (e.1 % 2 ^ 40)
    msgs := s.msgs.filter fun m =>
      !line m.line
    grans := s.grans.filter fun e => !line (512 * e.1)
    elems := s.elems.filter fun e => e.2.vf != vf
    lost := s.lost.filter fun u => !lostHere vf mask u
    lostCached := s.lostCached.filter fun n => !lostHere vf mask (.line n)
    moves := s.moves.filter fun m =>
      match m with
      | .gran _ src _ => !line (512 * src)
      | .row _ => true }

/-- End every launch of a partition at once, as CANCEL does, with a status (R311); its gangs are told. -/
def State.endLaunches (s : State) (vf status : Nat) : State :=
  let mine := (s.launches.filter fun e => e.2.vf == vf && !e.2.done).map (·.1)
  let gs := (s.gangs.filter fun e => e.2.vf == vf && !e.2.closed && e.2.count != 0 && mine.contains e.2.launch).map fun e => e.2
  let s1 := gs.foldl (fun s g => (s.putGang { g with closed := true }).emit (.abort g.number g.member)) s
  let s2 := mine.foldl (fun s l => s.cancelLaunch l status) s1
  let s3 : State := { s2 with teams := s2.teams.filter fun e => e.2.vf != vf }
  mine.foldl (fun s l => (s.modLaunch l fun l => { l with counter := 0 }).settleLaunch l) s3

/-- Everything that a partition owns beside its granules. -/
def State.dropPart (s : State) (vf : Nat) : State :=
  let ls := (s.launches.filter fun e => e.2.vf == vf).map (·.1)
  { s with
    launches := s.launches.filter fun e => e.2.vf != vf
    fleets := s.fleets.filter fun e => !ls.contains e.2.launch
    crews := s.crews.filter fun e => !ls.contains e.2.launch
    asids := s.asids.filter fun e => e.2.vf != vf
    tlb := s.tlb.filter fun e => ((Tbl.get? s.asids e.asid).map Asid.vf) != some vf
    gangs := s.gangs.filter fun e => !(e.2.vf == vf && e.2.count != 0)
    remotes := s.remotes.filter fun r =>
      match r.who with
      | .atom tk _ => tk / 2 ^ 24 != vf
      | .chunk c _ => !((s.part? vf).map fun p => p.owns (coreGran c)).getD false
    todo := s.todo.filter fun x => x.1 / 2 ^ 24 != vf
    resets := s.resets.filter (· != vf)
    jobs := s.jobs.map fun j =>
      match j with
      | .tinval tag v _ _ => if v = vf then .done tag 0 0 else j
      | .presize tag v => if v = vf then .done tag 5 0 else j
      | .stread tag v _ _ _ => if v = vf then .done tag 5 0 else j
      | .done _ _ _ => j
    parts := Tbl.del s.parts vf }

/-- Reset a partition (R311): it reads as newly created (DEDUCED, assumption 41). -/
def State.resetPart (s : State) (vf : Nat) : State :=
  match s.part? vf with
  | none => s
  | some p =>
    let s1 := (((s.endLaunches vf 2).dropPart vf).clearGrans vf p.mask).zeroGrans p.mask |>.zeroVf vf
    { s1 with parts := Tbl.set s1.parts vf (Part.fresh p.mask s1.free 1000 s.cycle), free := s1.free + 1 }

/-- PDESTROY: reset, then the granules are free. -/
def State.destroyPart (s : State) (vf : Nat) : State :=
  let s1 := s.resetPart vf
  { s1 with parts := Tbl.del s1.parts vf }

/-- Granules that some partition owns. -/
def State.ownedMask (s : State) : BitVec 32 := s.parts.foldl (fun m e => m ||| e.2.mask) 0

/-- PCREATE: a partition over zeroed granules. -/
def State.createPart (s : State) (vf : Nat) (mask : BitVec 32) (lease : Nat) : State :=
  let s1 := ((s.clearGrans vf mask).zeroGrans mask).zeroVf vf
  { s1 with parts := Tbl.set s1.parts vf (Part.fresh mask s1.free lease s.cycle), free := s1.free + 1 }

/-! ## A die is lost (R364) -/

/-- The die whose T1 or T2 holds the byte behind a handle. -/
def State.dieOfHandle (s : State) (asid vf : Nat) (h : QWord) : Option Nat :=
  match s.desc 999 asid h with
  | .error _ => none
  | .ok d =>
    match s.phys 999 asid vf d (hObj h) (hOff h) with
    | .error _ => none
    | .ok a => (physGran a).map fun g => g / 4

/-- Launches of fault records that are due while the place that they are to take lies on a die (R376). -/
def Part.dueOn (s : State) (vf die : Nat) (p : Part) : List Nat :=
  ((p.due.filter fun r => r.cause != 0).filter fun _ =>
    s.dieOfHandle p.fqasid vf (mkHandle (hObj p.fqbase) (hOff p.fqbase + 64 * (p.fqtail % max 1 p.fqsize))) == some die).map Record.launch

/-- Launches with teams on the die, or with a fault record due on it, are cancelled with STATUS 4, each partition with a granule on it is
reset, and the die's granules leave it. -/
def State.loseDie (s : State) (die : Nat) : State :=
  let dmask : BitVec 32 := 15#32 <<< (4 * die)
  let hit := (s.parts.filter fun e => e.2.mask &&& dmask != 0).map (·.1)
  let due := s.parts.flatMap fun e => e.2.dueOn s e.1 die
  let ls := (((s.teams.map (·.2)).filter fun t => t.die == die && t.saved.isNone).map Team.launch ++ due).eraseDups
  let s1 := (s.modDie die fun d => { d with lost := true, off := true })
  let s2 := ls.foldl (fun s l => s.cancelLaunch l 4) s1
  let s3 := hit.foldl State.resetPart s2
  hit.foldl (fun s vf =>
    let s1 := s.modPart vf fun p => { p with mask := p.mask &&& ~~~ dmask }
    if ((s1.part? vf).map Part.mask) == some 0 then s1.destroyPart vf else s1) s3

end Sys2Proof.Machine
end

