-- ==== Sys2Proof/Machine/Power.lean ====
section
/-! DEFINITION. Heat and current (09 R155; 24 R362, R363): thermal states and limits, current limits, rail trips, the emergency
shutdown. The sensors' readings are operands of the steps; when they are taken is the control complex's (DEDUCED, assumption 24). -/

namespace Sys2Proof.Machine

def State.die (s : State) (d : Nat) : Die := Tbl.getD s.dies d Die.reset

def State.modStack (s : State) (k : Nat) (f : Stack → Stack) : State := { s with srams := Tbl.set s.srams k (f (s.stack k)) }

/-- Set a field of the module status (Table 24.9). -/
def State.setStatus (s : State) (lo width v : Nat) : State :=
  let x := s.status.toNat
  { s with status := qn (x - x / 2 ^ lo % 2 ^ width * 2 ^ lo + v % 2 ^ width * 2 ^ lo) }

/-! ## Emergency shutdown (R363) -/

/-- Every launch not completed, one whose cancel was accepted before too, has its record and events written with STATUS 5. -/
def State.endByPower (s : State) (uid : Nat) : State :=
  match s.launch? uid with
  | none => s
  | some l =>
    if l.done then s
    else
      let s1 := s.modPart l.vf fun p => { p with
        reserve := if p.reserve = some uid then none else p.reserve
        queues := Tbl.mapVals p.queues fun q =>
          if q.waiting = some uid then { q with waiting := none, head := (q.head + 1) % 65536 } else q }
      (s1.modLaunch uid fun l => { l with cancel := true, status := 5, counter := 0, lists := [], carry := [] }).settleLaunch uid

/-- Every team is saved, every launch not completed ends with STATUS 5, the dies go off, then the SRAM stacks, whose contents are gone,
and T2 stays in self-refresh for 10 s. A PRESIZE under way completes with STATUS 5 and the old granules (R376). -/
def State.emergency (s : State) (reason : Nat) : State :=
  if s.status.toNat % 256 = 3 then s
  else
    let s1 := (s.setStatus 0 8 3).setStatus 32 8 reason
    let s2 := (s1.teams.map (·.1)).foldl State.saveTeam s1
    let s3 := (s2.launches.map (·.1)).foldl State.endByPower s2
    let s4 := (List.range 8).foldl (fun s d => s.modDie d fun x => { x with off := true }) s3
    let s5 := (List.range 32).foldl (fun s k => s.modStack k fun x => { x with off := true }) s4
    { s5 with
      mem := s5.mem.filter fun e => decide (2 ^ 37 ≤ e.1) && isPhys e.1
      refresh := some (s.thyme + 10000000000)
      parts := Tbl.mapVals s5.parts fun p => { p with resize := none, noPlace := 0 }
      jobs := s5.jobs.map fun j => match j with | .presize tag _ => .done tag 5 0 | _ => j }

/-- T2_SELF_REFRESH_END: the T2 rail goes off, and memory is as at power-on. -/
def execT2SelfRefreshEnd (s : State) : Result :=
  .next <| match s.refresh with
  | some t => if t ≤ s.thyme then { s with refresh := none, mem := [] } else s
  | none => s

/-- COOLANT_FLOW_LOW: below 60 % for 1 s counts as Shutdown for every stack. -/
def execCoolantFlowLow (s : State) : Result :=
  .next <|
    let s1 := (List.range 32).foldl (fun s k => s.modStack k fun x => { x with heat := 4 }) s
    (({ s1 with coolant := true } : State).setStatus 8 8 4).emergency 5

/-! ## Stack temperatures (R155, Tables 9.4 and 24.7) -/

/-- The thermal state that a reading of a stack gives: 0 Normal to 4 Shutdown. -/
def heatOf (temp : Nat) : Nat :=
  if 115 ≤ temp then 4 else if 105 ≤ temp then 3 else if 95 ≤ temp then 2 else if 85 ≤ temp then 1 else 0

/-- REFILL of the 48 cores of a die moves (Table 24.6). -/
def State.moveRefill (s : State) (die : Nat) (f : Nat → Nat) : State :=
  (List.range 48).foldl (fun s c => s.modCore (48 * die + c) fun k => { k with refill := f k.refill }) s

/-- A stack's new reading; on entering Critical its limit is 1 and its die's REFILL is halved. -/
def State.readStack (s : State) (k temp : Nat) : State :=
  let h := heatOf temp
  let was := (s.stack k).heat
  let s1 := s.modStack k fun x => { x with limit := if 3 ≤ h then 1 else x.limit, heat := h, temp := temp }
  if 3 ≤ h ∧ was < 3 then s1.moveRefill (k / 4) (· / 2) else s1

def State.readStacks (s : State) (k : Nat) : List Nat → State
  | [] => s
  | t :: r => (s.readStack k t).readStacks (k + 1) r

def State.readDies (s : State) (d : Nat) : List Nat → State
  | [] => s
  | t :: r => (s.modDie d fun x => { x with temp := t }).readDies (d + 1) r

/-- STACK_TEMPERATURE_SAMPLE, every 10 µs: temperatures of the stacks 0 to 31 and of the dies. -/
def execStackTemperatureSample (temps dieTemps : List Nat) (s : State) : Result :=
  .next <|
    if s.thyme < s.nextHeat then s
    else
    let s0 : State := { s with nextHeat := s.thyme + 10000 }
    let s1 := (s0.readStacks 0 (temps.take 32)).readDies 0 (dieTemps.take 8)
    let worst := ((List.range 32).map fun k => (s1.stack k).heat).foldl max 0
    let hotDie := dieTemps.any fun t => decide (125 ≤ t)
    let s2 := s1.setStatus 8 8 (if hotDie then 4 else worst)
    if worst = 4 ∨ hotDie then s2.emergency 4 else s2

/-- The limit that a stack's state moves to (Tables 9.4 and 24.7): Hot only lowers it. A Warm stack at 90 °C itself lets it rise (DESIGN
CHOICE, assumption 64). -/
def Stack.nextLimit (x : Stack) : Nat :=
  match x.heat with
  | 0 => min 8 (x.limit + 1)
  | 1 => if 90 < x.temp then x.limit else min 8 (x.limit + 1)
  | 2 => if x.limit ≤ 2 then x.limit else x.limit - 1
  | _ => x.limit

/-- THERMAL_LIMIT_STEP, every 100 µs. -/
def execThermalLimitStep (stack : Nat) (s : State) : Result :=
  .next <|
    if s.thyme < (s.stack stack).next then s
    else s.modStack stack fun x => { x with limit := x.nextLimit, next := s.thyme + 100000 }

/-! ## Current (R362, Table 24.6) -/

/-- A rail trip: no placement on the die, its teams are saved, its replicas dropped, its rail off for 1 ms. A second trip within
60 s loses the die; so does a rail below 0.35 V before the save. -/
def State.railTrip (s : State) (d : Nat) (low : Bool) : State :=
  let x := s.die d
  if x.off ∨ x.lost then s
  else if low || (match x.tripAt with | some t => decide (s.thyme < t + 60000000000) | none => false) then s.loseDie d
  else
    let s1 := s.modDie d fun x => { x with off := true, tripAt := some s.thyme }
    let ts := (s1.teams.map (·.2)).filter fun t => t.die == d && t.saved.isNone
    let s2 := ts.foldl (fun s t => s.saveTeam t.tk) s1
    (s2.dropReplicas fun die _ _ => die == d).prune

/-- One die's sample. -/
def State.sampleDie (s : State) (d amp mv : Nat) : State :=
  let s1 := s.modDie d fun x =>
    let n := if 2500 < amp then x.above + 1 else 0
    { x with above := n, throttle := if 2 ≤ n then true else if amp < 2250 then false else x.throttle }
  let unsaved := s1.teams.any fun e => e.2.die == d && e.2.saved.isNone
  if (s1.die d).off ∧ mv < 350 ∧ unsaved ∧ !(s1.die d).lost then s1.loseDie d
  else if 2750 < amp ∨ mv < 380 then s1.railTrip d (decide (mv < 350)) else s1

def State.sampleDies (s : State) (d : Nat) : List (Nat × Nat) → State
  | [] => s
  | x :: r => (s.sampleDie d x.1 x.2).sampleDies (d + 1) r

/-- RAIL_CURRENT_SAMPLE, every 1 µs: amperes and millivolts of the dies 0 to 7, each for the microsecond before it. The module's limit
holds from a total above 20,000 A until one below 19,000 A. -/
def execRailCurrentSample (amps millivolts : List Nat) (s : State) : Result :=
  .next <|
    let sum := amps.sum
    if s.thyme < s.nextAmps then s
    else
    let s1 : State := { s with
      nextAmps := s.thyme + 1000
      amps := amps
      total := if 20000 < sum then sum else if sum < 19000 then 0 else if s.total = 0 then 0 else sum }
    s1.sampleDies 0 ((amps.zip millivolts).take 8)

/-- Whether a die's REFILL falls: from a current above 2,375 A until one below 2,250 A (Table 24.6). -/
def Die.limits (x : Die) (amp : Nat) : Bool := decide (2375 < amp) || (x.limiting && decide (2250 ≤ amp))

/-- The highest REFILL of the cores of a die: half of its set value 160 while one of its stacks is Critical (Table 24.7). -/
def State.refillTop (s : State) (die : Nat) : Nat := if (List.range 4).any fun q => decide (3 ≤ (s.stack (4 * die + q)).heat) then 80 else 160

/-- The REFILL to which a core's moves (Table 24.6). -/
def nextRefill (limits : Bool) (top r : Nat) : Nat :=
  if limits then (if r ≤ 10 then r else max 10 (r / 2)) else max r (min top (max 1 (2 * r)))

/-- CURRENT_LIMIT_STEP, every 10 µs. -/
def execCurrentLimitStep (die : Nat) (s : State) : Result :=
  .next <|
    let x := s.die die
    if s.thyme < x.next then s
    else
      let on := x.limits (s.amps.getD die 0)
      (s.modDie die fun x => { x with limiting := on, next := s.thyme + 10000 }).moveRefill die (nextRefill on (s.refillTop die))

/-- CORE_RAIL_RESTORE: 1 ms after a trip the die takes teams again. -/
def execCoreRailRestore (die : Nat) (s : State) : Result :=
  .next <|
    let x := s.die die
    match x.tripAt with
    | none => s
    | some t =>
      if !x.off || x.lost || s.status.toNat % 256 == 3 || decide (s.thyme < t + 1000000) then s
      else s.modDie die fun x => { x with off := false }

end Sys2Proof.Machine
end

