-- ==== Sys2Proof/Machine/Duties.lean ====
section
/-! DEFINITION. What the labelled statements bound in time (00 R377): which bounds run, and which are over. With one over, the core
clock stands until the step that it asks for has been taken (Step.lean). -/

namespace Sys2Proof.Machine

/-- Whether the test of a wait, taken now, would let the team go on: it returns, or it faults (R246). A WAITQ of a launch that is
quiescent, and of which Sage has yet to say so, returns too (R231). -/
def State.waitGoes (s : State) (t : Team) (w : Wait) : Bool :=
  let quiet : State :=
    match s.launch? t.launch with
    | some l => if !l.quiet && l.nlists != 0 && s.quiescent t.launch l then s.modLaunch t.launch fun l => { l with quiet := true } else s
    | none => s
  s.mayTest t w true &&
    match (quiet.testWait t w true).team? t.tk with
    | some u => u.wait.isNone || !u.running || u.ended
    | none => true

/-- Whether the test of a wait, taken now, would do something: the team goes on, or Dill acts on it (R43, R51, R232). -/
def State.waitActs (s : State) (t : Team) (w : Wait) : Bool :=
  s.mayTest t w true &&
    match (s.testWait t w true).team? t.tk with
    | some u => u.wait.isNone || !u.running || u.ended || u.pending != t.pending
    | none => true

/-- Whether a wait outside a deterministic launch is over (R231, R246, R254). -/
def State.waitHolds (s : State) (t : Team) : Bool :=
  match t.wait with
  | none => false
  | some w => t.running && !s.isDet t && s.waitGoes t w

/-- Records of a partition that can be written now (R326). -/
def State.mayFlush (s : State) (vf : Nat) : Bool :=
  (((s.flushRecords vf).part? vf).map fun p => (p.due, p.failed)) != ((s.part? vf).map fun p => (p.due, p.failed))

/-- Whether a store that teams can see is to be bounded from other dies too (R120). -/
def State.farDies (s : State) (vf : Nat) : Bool := ((s.part? vf).map fun p => decide (2 ≤ p.dies.length)).getD false

/-- The cores that have made a persistent request for a line, and have not been granted it: it flies, waits, or is being served (R110). -/
def State.persisting (s : State) : List Duty :=
  ((s.msgs.filterMap fun m => match m with | .pers d c l _ _ => some (Duty.pers d l c) | _ => none)
    ++ s.dirs.flatMap fun d =>
      let on (c : Nat) : Duty := .pers (d.1 / 2 ^ 40) (d.1 % 2 ^ 40) c
      d.2.pers.map (fun r => on r.1) ++ (if d.2.urgent.isSome then (d.2.opened.map fun o => on o.1).toList else [])).eraseDups

/-- Records of a partition that are still to come, but for those that a full queue holds back (R326, R327). -/
def Part.recordsDue (p : Part) : List Record :=
  p.due.filter fun r => !r.entered || decide ((p.fqtail + 2 ^ 32 - p.fqhead) % 2 ^ 32 < p.fqsize)

/-- The reset of a partition that the head of the administration queue asks for, or that waits for its rails no longer (R369). -/
def State.resetsDue (s : State) : List Nat :=
  s.resets ++ (match s.ring with
    | (_, .preset vf) :: _ | (_, .pdestroy vf) :: _ => if s.jobs.isEmpty then [vf] else []
    | _ => [])

/-- The bounds that run at this instant. A wait and a store of a team that is Parked or Saved stand still (R120, R231, R254). -/
def State.dutiesNow (s : State) : List Duty :=
  (s.teams.filterMap fun e => if s.waitHolds e.2 then some (.wait e.1) else none)
    ++ (s.parts.flatMap fun e => e.2.recordsDue.map fun r => .record e.1 r.own)
    ++ s.moves.map .move
    ++ (s.jobs.filterMap fun j => match j with | .tinval _ _ a o => some (.inval a o) | _ => none)
    ++ ((s.cores.flatMap fun c => (c.2.items.filter fun i => !s.names c.1 i.1 i.2.1).map fun i => .items c.1 i.1 i.2.1).eraseDups)
    ++ s.persisting
    ++ (s.teams.flatMap fun e => e.2.sq.filterMap fun x =>
          match x.op with
          | .store _ => if isPhys x.loc && e.2.running then some (.store x.id (s.farDies e.2.vf)) else none
          | .ctr _ op => some (.ctr x.id (match op with | .read | .set _ => true | _ => false))
          | _ => none)
    ++ (s.cvs.flatMap fun c => c.2.filterMap fun x => if isPhys x.loc then some (.store x.id (s.farDies (x.tk / 2 ^ 24))) else none)
    ++ (s.clusters.filterMap fun c => if c.2.waking then some (.wake c.1) else none)
    ++ (s.launches.filterMap fun l => if l.2.dead.isSome && !l.2.done then some (.dead l.1) else none)
    ++ (if s.routing then [.routes] else [])
    ++ s.resetsDue.map .reset

/-- Nanoseconds of Thyme that a bound leaves. A store must be performed 1,000 ns after its issue where other dies hold leases. -/
def Duty.bound : Duty → Nat
  | .wait _ => 2000
  | .record .. => 2000
  | .move _ => 2000
  | .inval .. => 1000
  | .items .. => 2000
  | .pers .. => 2000
  | .store _ far => if far then 1000 else 2000
  | .ctr _ exact => if exact then 3000 else 6000
  | .wake _ => 5000
  | .dead _ => 200000
  | .routes => 1000000
  | .reset _ => 10000000

/-- A bound that stands still: of a wait, or of a store, of a team that is Parked or Saved, and of a wait that a replay will go back
to. -/
def Duty.stands (s : State) : Duty → Bool
  | .wait tk =>
    match s.team? tk with
    | some t => !t.ended && ((!t.running && t.wait.isSome) || t.replay.any fun r => r.wait.isSome)
    | none => false
  | .store id _ => s.teams.any fun e => !e.2.running && !e.2.ended && e.2.sq.any fun x => x.id == id
  | _ => false

/-- Bounds go on from where they began; new ones begin now. -/
def State.noteDuties (s : State) : State :=
  let now := s.dutiesNow
  { s with duties := (now.map fun d => (d, ((s.duties.find? fun e => e.1 == d).map (·.2)).getD s.thyme))
      ++ s.duties.filter fun e => !now.contains e.1 && e.1.stands s }

/-- Nanoseconds of Thyme pass: the bounds that stand still are put off by them. -/
def State.putOff (s : State) (ns : Nat) : State :=
  let now := s.dutiesNow
  { s with duties := s.duties.map fun e => if !now.contains e.1 && e.1.stands s then (e.1, e.2 + ns) else e }

/-- A bound that the next core cycle could break is over. -/
def State.overdue (s : State) : Bool :=
  let late := s.duties.filter fun e => decide (e.2 + e.1.bound ≤ s.thyme + 1)
  !late.isEmpty && (let now := s.dutiesNow; late.any fun e => now.contains e.1)

end Sys2Proof.Machine
end

