-- ==== Sys2Proof/Machine/Sched.lean ====
section
/-! DEFINITION. Issue within a core (09 R146 to R154, R158; 12 R224; 13 R244): eligible teams, the choice of a slice's ports,
contention, withholding, the forced switch, and the start of a core cycle. -/

namespace Sys2Proof.Machine

/-! ## Eligible teams (R147) -/

/-- Vector registers, uniform registers and latch tags that wait for a value (DEDUCED, assumption 50). -/
def Team.awaited (t : Team) : List Dest := t.tq.map TqEntry.dest ++ t.sq.map SqEntry.dest

def Dest.names (d : Dest) (u : Uses) (tags : List Nat) : Bool :=
  match d with
  | .none | .lane .. => false
  | .uni r => u.sr.contains r || u.sw.contains r
  | .vec r _ n tag _ =>
    (u.vr ++ u.vw).contains r || (n == 8 && (u.vr ++ u.vw).contains (r + 1)) || (tag != 0 && tags.contains tag)

/-- Registers that an instruction reads beside those it names: the steps of an MLOOP that the operand latch does not supply (R264,
R265). -/
def State.moreRegs (s : State) (t : Team) : Instr → List Nat
  | .mloop o =>
    let n := fld (t.rs o.sb) 28 20
    let m := max 1 (min 4 (t.lanes / 256))
    let mine := match (s.slice t.slice).latch with | some l => if l.tk = t.tk then l.steps.length else 0 | none => 0
    if n ≤ mine then [] else (List.range ((n - 1) / m + 1 - mine / m)).map fun i => o.va.toNat + mine / m + i
  | _ => []

/-- The registers and latches that an instruction reads have values. -/
def State.valuesReady (s : State) (t : Team) (i : Instr) : Bool :=
  let u := i.uses.add { vr := s.moreRegs t i }
  let tags := u.lat.map fun k => (t.lat[k]?.map Latch.tag).getD 0
  t.awaited.all fun d => !d.names u tags

/-- Fences of the team that are not complete hold back later memory instructions (R244) and reads of THYME and CLOCK (R98); an
IFENCE follows the loads before it (R245); the reads of a frame instruction are loads of their own (R226); a TCTL that lets a
team go on follows the releases of the team that issues it (R329). -/
def State.orderReady (s : State) (t : Team) (i : Instr) : Bool :=
  let fenced := t.tq.any TqEntry.isFence
  match i with
  | .sysr o => !(fenced && (o.id.toNat == 0x00A || o.id.toNat == 0x00B))
  | .ifence _ => t.tq.isEmpty
  | .fork _ | .forkv _ | .forkl _ | .join | .take _ | .tend | .fres _ | .frget _ | .ppt => s.frameOpen t (t.frameNeeds i)
  | .tctlResume _ => !fenced && t.sq.all fun e => e.rel.isNone
  | _ => !(fenced && i.isMemory)

/-- The engine's queue has room (R256), and no ENQ of the team waits for room in the work-list area (R361). -/
def State.roomReady (s : State) (t : Team) (i : Instr) : Bool :=
  let c := s.core t.core
  (!i.isCopy || decide (c.copies.length < 16)) && (!i.isMatrix || decide (c.mats.length < 8))
    && t.sq.all fun e =>
      match e.op with
      | .enq _ items => decide (s.itemsHeld t.vf + items.length ≤ s.listRoom t.vf)
      | _ => true

/-- A promotion point whose flag is set does not issue while Dill has to wait (R51, R53): its meaning leaves its team as it is. -/
def State.pointWaits (s : State) (t : Team) (i : Instr) : Bool :=
  let waits (f : State → Result) : Bool :=
    match f { s with cur := some ⟨t.tk, 0, none⟩ } with
    | .next s1 => s1.team? t.tk == s.team? t.tk
    | _ => false
  t.pending &&
    match i with
    | .ppt => waits execPpt
    | .fork o => waits (execFork o)
    | .forkv o => waits (execForkv o)
    | .forkl o => waits (execForkl o)
    | .join => waits execJoin
    | .take o => waits (execTake o)
    | _ => false

/-- Whether a team is eligible in this cycle. -/
def State.eligible (s : State) (t : Team) : Bool :=
  t.running && t.wait.isNone && t.late.isEmpty && s.owedDone t && !s.detDue t && s.mayAct t && s.fetchOpen t
    && (match s.peek t with
        | none => true
        | some i => s.valuesReady t i && s.orderReady t i && s.roomReady t i && !s.pointWaits t i)

/-- The cost of a team's next instruction (R152). -/
def State.nextCost (s : State) (t : Team) : Nat :=
  let c := s.core t.core
  match s.peek t with
  | none => c.cost 0
  | some i =>
    let lanes := (t.replay.head?.bind fun r => if r.pc = t.pc then r.lanes else none).getD t.mask
    let passes := ((List.range 32).filter fun w => maskWord lanes w != 0).length
    c.cost i.costClass * (if i.isV then max 1 passes else 1)

def Team.floorDue (t : Team) : Bool := decide (512 ≤ t.floor)

/-! ## The choice of a slice (R148, R150) -/

/-- A team chosen for a port. -/
structure Pick where
  t    : Team
  port : Nat
  sl   : Nat
  due  : Bool

/-- Teams of a slice in its rotation. -/
def State.rotation (s : State) (sl : Nat) : List Team :=
  let rs := s.residents sl
  (List.range 16).filterMap fun i => rs.find? fun t => t.slot == ((s.slice sl).ptr + i) % 16

/-- Teams that the slice may issue: eligible; not one that has just yielded while another is eligible (R224); a force-switched
team waits for the other port's protected run (R150). -/
def State.candidates (s : State) (sl : Nat) : List Team :=
  let x := s.slice sl
  let ok := (s.rotation sl).filter fun t =>
    s.eligible t && !(t.forced && (x.p0.prot || x.p1.prot) && x.p0.run != some t.tk && x.p1.run != some t.tk)
  if ok.any fun t => x.yield != some t.tk then ok.filter fun t => x.yield != some t.tk else ok

/-- The first team of the highest priority of a list. -/
def topPrio (ts : List Team) : Option Team :=
  let q := (ts.map Team.prio).foldl max 0
  ts.find? fun t => t.prio == q

/-- The floor-due team with the highest floor count, ties to the lower slot; a team that waits or is parked is not one. -/
def topDue (ts : List Team) : Option Team :=
  (ts.filter fun t => t.floorDue && t.running && t.wait.isNone).foldl (fun b t =>
    match b with
    | none => some t
    | some u => if u.floor < t.floor ∨ (u.floor = t.floor ∧ t.slot < u.slot) then some t else b) none

/-- Whether a core withholds a team's next instruction (R153). -/
def State.withheld (s : State) (t : Team) : Bool := !((s.core t.core).admits t.prio (s.nextCost t))

/-- The team for a port: the holder of its latch run, else the floor-due team, else one with precedence, else the rotation's first of the
highest priority. One that the other port chose or that holds the other port's run is not looked at (DEDUCED, assumption 42); where the
one found may not issue, the port issues nothing. -/
def State.choosePort (s : State) (sl : Nat) (cs : List Team) (port : Nat) (taken : Option Nat) : Option Pick :=
  let x := s.slice sl
  let run := if port = 0 then x.p0.run else x.p1.run
  let pick (tk : Nat) : Option Pick := (cs.find? fun t => t.tk == tk).map fun t => ⟨t, port, sl, t.floorDue⟩
  match run with
  | some tk => pick tk
  | none =>
    let free := (s.rotation sl).filter fun t => some t.tk != taken && x.p0.run != some t.tk && x.p1.run != some t.tk
      && !(port == 1 && s.isDet t)
    match topDue free with
    | some t => pick t.tk
    | none =>
      match x.prec.find? fun tk => free.any fun t => t.tk == tk with
      | some tk => pick tk
      | none => (topPrio (free.filter fun t => cs.any (fun c => c.tk == t.tk) && !s.withheld t)).bind fun t => pick t.tk

/-- Whether two instructions contend (R149). -/
def contend (a b : Instr) : Bool :=
  let bs := a.banks ++ b.banks
  (List.range 4).any (fun k => decide (3 ≤ (bs.filter fun x => x == k).length))
    || (a.isMatrix && b.isMatrix) || (a.isCopy && b.isCopy)

/-- Whether core cycle c is an issue cycle of a slice of a partition (R146). -/
def State.issueCycle (s : State) (sl : Nat) : Bool :=
  let core := sl / 6
  let base := ((s.parts.find? fun e => e.2.owns (coreGran core)).map fun e => e.2.clockBase).getD 0
  let c := s.cycle - base
  let n := s.eff core (sl % 6)
  (c + 1) * n / 8 != c * n / 8

/-- The picks of a slice on an issue cycle, and the team that takes precedence on its next one. -/
def State.picks (s : State) (sl : Nat) : List Pick × Option Nat :=
  let cs := s.candidates sl
  match s.choosePort sl cs 0 none with
  | none => ((s.choosePort sl cs 1 none).toList, none)
  | some a =>
    match s.choosePort sl cs 1 (some a.t.tk) with
    | none => ([a], none)
    | some b =>
      match s.peek a.t, s.peek b.t with
      | some i, some j =>
        if contend i j then
          let pos (p : Pick) : Nat := (p.t.slot + 16 - (s.slice sl).ptr) % 16
          let aFirst := if a.due != b.due then a.due else decide (pos a ≤ pos b)
          if aFirst then ([a], some b.t.tk) else ([b], some a.t.tk)
        else ([a, b], none)
      | _, _ => ([a, b], none)

/-- Each engine takes one command of the core; the losers keep precedence (R149). -/
def State.grantEngine (s : State) (p : Instr → Bool) (last : Nat) (ps : List Pick) : List Pick × Nat × List Pick :=
  let mine (x : Pick) : Bool := match s.peek x.t with | some i => p i | none => false
  let cmds := ps.filter mine
  match (List.range 6).findSome? fun k => cmds.find? fun x => x.sl % 6 == (last + 1 + k) % 6 with
  | none => (ps, last, [])
  | some w => (ps.filter fun x => !mine x || x.t.tk == w.t.tk, w.sl % 6, cmds.filter fun x => x.t.tk != w.t.tk)

/-- The order in which a core takes proposed issues (R153). -/
def pickOrder (ps : List Pick) : List Pick :=
  let here (q : Nat) : List Pick := (List.range 6).flatMap fun i => ps.filter fun x => !x.due && x.t.prio == q && x.sl % 6 == i
  ((List.range 8).reverse.flatMap here) ++ ps.filter fun x => x.due

/-! ## The forced switch (R150) -/

/-- A team leaves its latch run: its latches go, and it restarts at RPC. -/
def State.dropRun (s : State) (t : Team) : State :=
  s.putTeam { s.restart t with forced := true }

/-- FLOOR_DUE: a floor-due team with no free port takes the port of a holder that is not eligible and not protected, port 0 where both
holders are such (DESIGN CHOICE, assumption 63). -/
def State.floorSwitch (s : State) (sl : Nat) : State :=
  let x := s.slice sl
  let due := topDue ((s.rotation sl).filter fun t => x.p0.run != some t.tk && x.p1.run != some t.tk)
  if due.isNone || x.p0.run.isNone || x.p1.run.isNone then s
  else
    let stuck (p : Port) : Option Team :=
      match p.run.bind s.team? with
      | some t => if !p.prot && !s.eligible t then some t else none
      | none => none
    match stuck x.p0, stuck x.p1 with
    | some t, _ => (s.dropRun t).modSlice sl fun x => { x with p0 := ⟨none, false⟩ }
    | none, some t => (s.dropRun t).modSlice sl fun x => { x with p1 := ⟨none, false⟩ }
    | none, none => s

def execFloorDue (slice : Nat) (s : State) : Result := .next (s.floorSwitch slice)

/-! ## The start of a core cycle (R153) -/

/-- Advance the core clock by one cycle, and Thyme with it (R3). -/
def State.clockTick (s : State) : State :=
  let f := s.frac + Config.ninths
  { s with cycle := s.cycle + 1, thyme := s.thyme + f / 9, frac := f % 9 }

/-- Propose a core's issues for this cycle, in the order in which the core takes them. -/
def State.proposeCore (s : State) (core : Nat) : State :=
  let sls := ((List.range 6).map fun i => 6 * core + i).filter fun sl => !(s.residents sl).isEmpty && s.issueCycle sl
  let s0 := sls.foldl State.floorSwitch s
  let ps := sls.map fun sl => (sl, s0.picks sl)
  let (p1, copyRR, lost1) := s0.grantEngine Instr.isCopy (s0.core core).copyRR (ps.flatMap fun x => x.2.1)
  let (p2, matRR, lost2) := s0.grantEngine Instr.isMatrix (s0.core core).matRR p1
  let lost (sl : Nat) : List Nat := ((lost1 ++ lost2).filter fun x => x.sl == sl).map fun x => x.t.tk
  let s1 := ps.foldl (fun s x => s.modSlice x.1 fun y => { y with prec := x.2.2.toList ++ lost x.1, yield := none, second := false }) s0
  let s2 := s1.modCore core fun c => { c with copyRR := copyRR, matRR := matRR }
  { s2 with todo := s2.todo ++ (pickOrder p2).map fun x => (x.t.tk, x.port) }

/-- Core cycles pass while the module runs or is degraded (R316). -/
def State.clockRuns (s : State) : Bool := s.status.toNat % 256 == 1 || s.status.toNat % 256 == 3

/-- ALLOWANCE_REFILL: the start of a core cycle, once the issues of the last one have been made. Allowances are refilled,
deterministic rounds that are over give way to the next, floor counts rise, and each core proposes its issues. -/
def execAllowanceRefill (s : State) : Result :=
  .next <|
    if !s.todo.isEmpty || !s.clockRuns then s
    else
      let s0 := s.noteDuties.clockTick
      let s1 := (s0.putOff (s0.thyme - s.thyme)).markBusy
      let s2 : State := { s1 with
        cores := s1.cores.map fun e => (e.1, { e.2 with
          allow := min (e.2.allow + (s1.refillOf e.1 : Nat)) (e.2.cap : Nat), served := [], streamed := 0, stepped := false })
        launches := s1.launches.map fun e =>
          if e.2.det && !e.2.done && s1.roundOver e.1 then (e.1, { e.2 with round := e.2.round + 1 }) else e }
      let count (t : Team) : Team := if s2.eligible t then { t with floor := t.floor + 1 } else t
      let s3 : State := { s2 with teams := Tbl.mapVals s2.teams count }
      let busy := ((s3.teams.filter fun e => e.2.running).map fun e => e.2.core).eraseDups
      busy.foldl State.proposeCore s3

end Sys2Proof.Machine
end

