-- ==== Sys2Proof/Machine/Admin.lean ====
section
/-! DEFINITION. The administration queue (21 R306, R307, Table 21.1, R310, R315, R318; 24 R358, Table 24.4). The control complex
executes commands in ring order, one after another; each event acts on the command at the head of the ring. -/

namespace Sys2Proof.Machine

/-! ## Commands as the host writes them (R307, R308) -/

/-- Qword k of a command. -/
def cmdQ (c : List QWord) (k : Nat) : QWord := c.getD k 0
def cmdN (c : List QWord) (k : Nat) : Nat := (cmdQ c k).toNat

/-- The command of 64 bytes, with its TAG. Its operands stand in the order of Table 21.1, one in each of Q1 to Q7, but where the spec
gives their bits: SETWDOG's in Q1 (R359), and the four qwords of Table 21.2 in Q2 to Q5 (DESIGN CHOICE, assumption 69). An unknown OP and a
non-zero reserved bit make a bad command (Table 24.4). -/
def decodeCommand (c : List QWord) : Nat × AdminCmd :=
  let q (k : Nat) : QWord := cmdQ c k
  let n (k : Nat) : Nat := cmdN c k
  let vf := fld (q 0) 39 35
  let cmd : AdminCmd :=
    if fld (q 0) 34 0 ≠ 0 then .bad
    else
      match fld (q 0) 63 56 with
      | 0x01 => .pcreate vf (n 1) (n 2)
      | 0x02 => .presize vf (n 1)
      | 0x03 => .preset vf
      | 0x04 => .pdestroy vf
      | 0x05 => .pools vf (n 1) (n 2) (n 3) (n 4) (n 5) (n 6)
      | 0x06 => .setlease vf (n 1)
      | 0x07 => .sethbi (n 1)
      | 0x08 => .setwdog vf (fld (q 1) 31 0) (fld (q 1) 63 32)
      | 0x10 =>
        if fld (q 3) 33 0 ≠ 0 then .bad
        else .qcreate vf (n 1) (n 2) (fld (q 3) 63 48) (fld (q 3) 47 38) (fld (q 3) 37 37) (fld (q 3) 36 34) (n 4) (fld (q 5) 63 48)
      | 0x11 => .qdestroy vf (n 1)
      | 0x12 => .otset vf (n 1) (n 2) (n 3)
      | 0x13 => .tinval vf (n 1) (n 2)
      | 0x20 => .gang vf (n 1) (n 2) (n 3) (n 4) (n 5 == 1) (n 6) (n 7)
      | 0x30 =>
        if fld (q 1) 63 1 ≠ 0 then .bad
        else if fld (q 1) 0 0 = 0 then .stread vf (n 2) (n 3) (n 4) (n 5)
        else .stwrite vf (n 2) (n 3) (n 4) (n 5)
      | 0x31 => .hostcpy vf (n 1) (n 2) (n 3) (n 4 == 1)
      | _ => .bad
  (fld (q 0) 55 40, cmd)

/-- The device reads the next command of the ring in host memory, whose base and size the PF's registers hold. -/
def State.readCommand (s : State) (c : List QWord) : State :=
  ({ s with ring := s.ring ++ [decodeCommand c], adminHead := s.adminHead + 1 } : State).emit
    (.fromHost (s.adminBase.toNat + 64 * (s.adminHead % s.adminSize)) 64)

/-- The doorbell: the commands that stand in the ring before its new tail, each as the eight qwords that the host returns. -/
def execAdminDoorbell (cmds : List (List (BitVec 64))) (s : State) : Result :=
  .next <| if s.adminOpen then cmds.foldl State.readCommand s else s

/-- Run f on the command at the head of the ring; f answers nothing for another command. -/
def admin (s : State) (f : State → Nat → AdminCmd → Option (State × AdminJob)) : State :=
  match s.ring with
  | [] => s
  | (tag, c) :: rest =>
    if !s.adminOpen || !s.jobs.isEmpty then s
    else
      match f { s with ring := rest } tag c with
      | none => s
      | some (s1, j) => { s1 with jobs := s1.jobs ++ [j] }

/-- A command that changes nothing but its completion. -/
def answered (s : State) (tag status : Nat) : Option (State × AdminJob) := some (s, .done tag status 0)

/-- Run f on an existing partition, or answer that there is none. -/
def onPart (s : State) (tag vf : Nat) (f : Part → Option (State × AdminJob)) : Option (State × AdminJob) :=
  match s.part? vf with
  | none => answered s tag 4
  | some p => f p

def leaseOk (n : Nat) : Bool := decide (250 ≤ n) && decide (n ≤ 4000) && n % 250 == 0

/-- Granules of dies that are lost belong to nobody (R364). -/
def State.lostMask (s : State) : BitVec 32 :=
  BitVec.ofNat 32 (natOfBits (fun g => ((Tbl.get? s.dies (g / 4)).map Die.lost).getD false) 32)

def execPcreate (s : State) : Result :=
  .next <| admin s fun s tag c =>
    match c with
    | .pcreate vf mask lease =>
      if 32 ≤ vf ∨ mask = 0 ∨ 2 ^ 32 ≤ mask ∨ !leaseOk lease then answered s tag 2
      else if (s.part? vf).isSome then answered s tag 5
      else
        let m := BitVec.ofNat 32 mask
        if m &&& (s.ownedMask ||| s.lostMask) ≠ 0 then answered s tag 3
        else some (s.createPart vf m lease, .done tag 0 0)
    | _ => none

/-! ## PRESIZE (R310) -/

/-- Bound crews on granules that leave, and teams of unbound crews with a die scratchpad on a die that leaves, have ended. -/
def State.resizeClear (s : State) (vf : Nat) (p : Part) (mask : BitVec 32) : Bool :=
  let gone := p.mask &&& ~~~ mask
  let dieGone (d : Nat) : Bool := p.dies.contains d && (List.range 4).all fun q => !mask.getLsbD (4 * d + q)
  s.crews.all fun e =>
    let c := e.2
    match (if s.fleetLive c.launch c.fleet then s.launch? c.launch else none) with
    | none => true
    | some l => l.vf != vf || !((l.bound && gone.getLsbD (coreGran c.core)) || (l.dspkKiB != 0 && dieGone (coreDie c.core)))

/-- Engine commands, loads and stores of the partition's saved teams are done, and items are back in their lists (R38). -/
def State.resizeQuiet (s : State) (vf : Nat) (p : Part) : Bool :=
  s.teams.all (fun e => e.2.vf != vf || (e.2.tq.isEmpty && e.2.sq.all fun x => x.space != .global || !isPhys x.loc))
    && (p.coresOf).all fun c => (s.cv c).isEmpty && (s.core c).mats.isEmpty && (s.core c).items.isEmpty && (s.core c).copies.all fun x => x.held

/-- The granule set changes, and with it every home, every counter's slices and the degrees. Every line and replica of the partition is
dropped first, and what joins or leaves it is zeroed in T1, T2 and the scratchpads (R310, R312). -/
def State.switchGrans (s : State) (vf : Nat) (p : Part) (mask : BitVec 32) : State :=
  let added := mask &&& ~~~ p.mask
  let removed := p.mask &&& ~~~ mask
  let p1 : Part := { p with mask := mask, noPlace := 0, resize := none }
  let n := p1.dies.length
  let inPart (a : Nat) : Bool := match physGran a with | some g => (mask ||| p.mask).getLsbD g | none => false
  let s1 := s.dropReplicas fun _ _ r => r.vf == vf
  let s2 := ((s1.clearGrans 99 added).clearGrans 99 removed).zeroGrans (added ||| removed)
  let s3 := (List.range 8).foldl (fun s d =>
    let a := p.dieBytes d
    let b := p1.dieBytes d
    if a = b then s else s.zeroRange (dieLoc d (vf * 2 ^ 25 + min a b)) (max a b - min a b)) s2
  { s3 with
    parts := Tbl.set s3.parts vf p1
    dirs := s3.dirs.filter fun e => !inPart (e.1 % 2 ^ 40 * 128)
    msgs := s3.msgs.filter fun m => !inPart (m.line * 128)
    partials := s3.partials.filter fun x => !inPart (x.line * 128)
    elems := Tbl.mapVals s3.elems fun e => if e.vf = vf then { e with reserve := e.value, alw := [], recallOf := none } else e
    grans := s3.grans.map fun e =>
      if inPart (e.1 * 65536) then (e.1, { e.2 with degree := min e.2.degree (n - 1), pdies := n }) else e }

/-- PRESIZE: at the ring's head it stops placement on the granules that leave; once the crews there have ended it saves every
team; once their work is done it changes the set. -/
def execPresize (s : State) : Result :=
  .next <|
    let under := s.parts.find? fun e => e.2.resize.isSome
    match under with
    | some (vf, p) =>
      match p.resize with
      | none => s
      | some (tag, mask, _) =>
        if !s.resizeClear vf p mask then s
        else
          let mine := (s.teams.map (·.2)).filter fun t => t.vf == vf && t.saved.isNone && !t.ended
          if !mine.isEmpty then
            (mine.foldl (fun s t => s.saveTeam t.tk) s).modPart vf fun p => { p with noPlace := BitVec.allOnes 32 }
          else if !s.resizeQuiet vf p then s
          else
            let s1 := s.switchGrans vf p mask
            { s1 with jobs := s1.jobs.map fun j => match j with | .presize t _ => (if t = tag then .done tag 0 0 else j) | _ => j }
    | none =>
      admin s fun s tag c =>
        match c with
        | .presize vf mask =>
          onPart s tag vf fun p =>
            if mask = 0 ∨ 2 ^ 32 ≤ mask then answered s tag 2
            else
              let m := BitVec.ofNat 32 mask
              if m &&& ~~~ p.mask &&& (s.ownedMask ||| s.lostMask) ≠ 0 then answered s tag 3
              else some (s.modPart vf fun p => { p with resize := some (tag, m, s.thyme), noPlace := p.mask &&& ~~~ m }, .presize tag vf)
        | _ => none

/-- PRESIZE_TIMEOUT: crews did not end within 1 s; the first step is undone. -/
def execPresizeTimeout (vf : Nat) (s : State) : Result :=
  .next <|
    match s.part? vf with
    | none => s
    | some p =>
      match p.resize with
      | none => s
      | some (tag, mask, t0) =>
        if s.thyme < t0 + 1000000000 || s.resizeClear vf p mask then s
        else
          let s1 := s.modPart vf fun p => { p with resize := none, noPlace := 0 }
          { s1 with jobs := s1.jobs.map fun j => match j with | .presize t _ => (if t = tag then .done tag 10 0 else j) | _ => j }

/-! ## Resets and settings -/

/-- A reset that meets a rail trip waits until the rail is back and the teams that it saved are restored, as far as there is room
(R363, R369). -/
def State.railsUp (s : State) (p : Part) : Bool :=
  p.dies.all (fun d => !((Tbl.get? s.dies d).map fun x => x.off && !x.lost && s.status.toNat % 256 != 3).getD false)
    && s.teams.all fun e =>
      !(p.owns (coreGran e.2.core) && e.2.saved.isSome && !e.2.ended && (((Tbl.get? s.dies e.2.die).bind Die.tripAt).isSome)
        && (s.restoreSlice e.2).isSome)

/-- Whether copies of a partition to other modules, already issued, are still on their way: they complete before its reset, as after
CANCEL (R42, R311). -/
def State.awayBusy (s : State) (vf : Nat) : Bool :=
  match s.part? vf with
  | none => false
  | some p => p.coresOf.any fun c => (s.core c).copies.any fun x => x.away && !x.held && !x.fail

/-- Where a reset has such copies to wait for, the launches of its partition are cancelled meanwhile (DEDUCED, assumption 41). -/
def State.beginReset (s : State) (vf : Nat) : State :=
  if s.awayBusy vf then
    ((s.launches.filter fun e => e.2.vf == vf && !e.2.done && !e.2.cancel).map (·.1)).foldl (fun s l => s.cancelLaunch l 2) s
  else s

/-- PRESET or PDESTROY of a partition, at the head of the ring. -/
def State.adminReset (s : State) (target : AdminCmd → Option Nat) (end_ : State → Nat → State) : State :=
  let s0 :=
    match s.ring with
    | (_, c) :: _ => if s.adminOpen && s.jobs.isEmpty then (match target c with | some vf => s.beginReset vf | none => s) else s
    | [] => s
  admin s0 fun s tag c =>
    match target c with
    | some vf => onPart s tag vf fun p => if s.railsUp p && !s.awayBusy vf then some (end_ s vf, .done tag 0 0) else none
    | none => none

def execPreset (s : State) : Result := .next (s.adminReset (fun c => match c with | .preset vf => some vf | _ => none) State.resetPart)

def execPdestroy (s : State) : Result := .next (s.adminReset (fun c => match c with | .pdestroy vf => some vf | _ => none) State.destroyPart)

/-- A launch of the partition has been placed and has not completed. -/
def State.hasPlaced (s : State) (vf : Nat) : Bool := s.launches.any fun e => e.2.vf == vf && !e.2.done && decide (0 < e.2.next)

def execPools (s : State) : Result :=
  .next <| admin s fun s tag c =>
    match c with
    | .pools vf lane laneSize frame frameSize list listSize =>
      onPart s tag vf fun _ =>
        if s.hasPlaced vf then answered s tag 5
        else
          let pool (h n : Nat) : Option (QWord × Nat) := if n = 0 then none else some (qn h, n)
          some (s.modPart vf fun p => { p with
            lanePool := pool lane laneSize
            framePool := pool frame frameSize
            listPool := pool list listSize }, .done tag 0 0)
    | _ => none

def execSetlease (s : State) : Result :=
  .next <| admin s fun s tag c =>
    match c with
    | .setlease vf lease =>
      onPart s tag vf fun _ =>
        if !leaseOk lease then answered s tag 2
        else some (s.modPart vf fun p => { p with lease := lease, leases := p.leases ++ [(p.lease, s.thyme)] }, .done tag 0 0)
    | _ => none

/-- SETHBI takes effect at the next tick (R49). -/
def execSethbi (s : State) : Result :=
  .next <| admin s fun s tag c =>
    match c with
    | .sethbi hbi =>
      if hbi < 2250 ∨ 2 ^ 24 ≤ hbi then answered s tag 2 else some ({ s with hbiNext := some hbi }, .done tag 0 0)
    | _ => none

def execSetwdog (s : State) : Result :=
  .next <| admin s fun s tag c =>
    match c with
    | .setwdog vf w r =>
      onPart s tag vf fun _ =>
        if 2 ^ 32 ≤ w ∨ 2 ^ 32 ≤ r then answered s tag 2
        else some (s.modPart vf fun p => { p with waitlim := w, runlim := r }, .done tag 0 0)
    | _ => none

/-! ## Queues and address spaces -/

/-- Ring sizes of Table 21.2. -/
def ringOk (n : Nat) : Bool := decide (16 ≤ n) && decide (n ≤ 32768) && n == 2 ^ Nat.log2 n

def execQcreate (s : State) : Result :=
  .next <| admin s fun s tag c =>
    match c with
    | .qcreate vf q base size asid level pmax evb evsize =>
      onPart s tag vf fun p =>
        if 64 ≤ q ∨ !ringOk size ∨ !ringOk evsize ∨ 1024 ≤ asid ∨ 2 ≤ level ∨ 8 ≤ pmax then answered s tag 2
        else if ((Tbl.get? s.asids asid).map Asid.vf) ≠ some vf then answered s tag 4
        else if (Tbl.get? p.queues q).isSome then answered s tag 5
        else
          let k : Queue :=
            { base := qn base, size := size, asid := asid, level := level == 1, pmax := pmax, evb := qn evb, evsize := evsize,
              head := 0, tail := 0, evtail := 0, evhead := 0, stopped := false, held := [], waiting := none }
          some (s.modPart vf fun p => { p with queues := Tbl.set p.queues q k }, .done tag 0 0)
    | _ => none

def execQdestroy (s : State) : Result :=
  .next <| admin s fun s tag c =>
    match c with
    | .qdestroy vf q =>
      match s.queue? vf q with
      | none => answered s tag 4
      | some k =>
        if !k.stopped || k.waiting.isSome || k.head != k.tail then answered s tag 5
        else some (s.modPart vf fun p => { p with queues := Tbl.del p.queues q }, .done tag 0 0)
    | _ => none

/-- Whether an object of an address space is the same counter array before and after a change of its table: its counters live on
(R121). -/
def State.sameCounter (s s1 : State) (asid obj : Nat) : Bool :=
  match s.objDesc asid obj, s1.objDesc asid obj with
  | some d, some d1 => d == d1 && d.kind == 2 && s.extents d == s1.extents d1
  | _, _ => false

/-- Whether a granule is mapped anew by a changed table, or no longer by the object that was last seen on it (R119). -/
def State.granRenewed (s s1 : State) (asid g : Nat) (x : Gran) : Bool :=
  (x.obj / 2 ^ 24 == asid && !s1.objMaps asid (x.obj % 2 ^ 24) g)
    || (List.range (((Tbl.get? s1.asids asid).map Asid.len).getD 0)).any fun o => s1.objMaps asid o g && !s.objMaps asid o g

/-- The table of an address space is replaced: counters of objects that are gone or changed are dropped, and granules that the new table
maps, or maps no more, begin at degree 0 (R119, R121) (DEDUCED, assumption 30). -/
def State.setTable (s : State) (asid : Nat) (a : Asid) : State :=
  let s1 : State := { s with asids := Tbl.set s.asids asid a }
  (s1.dropElems fun x o => x == asid && !s.sameCounter s1 asid o).renewGrans fun g x => s.granRenewed s1 asid g x

/-- OTSET: the table's base lies in a granule of the partition. -/
def execOtset (s : State) : Result :=
  .next <| admin s fun s tag c =>
    match c with
    | .otset vf asid base len =>
      onPart s tag vf fun _ =>
        if 1024 ≤ asid ∨ 2 ^ 42 ≤ base ∨ 2 ^ 24 < len then answered s tag 2
        else if ((Tbl.get? s.asids asid).map Asid.vf).getD vf ≠ vf then answered s tag 4
        else if !s.ownsGran vf (base / 65536) then answered s tag 3
        else some (s.setTable asid ⟨vf, base, len⟩, .done tag 0 0)
    | _ => none

def execTinval (s : State) : Result :=
  .next <| admin s fun s tag c =>
    match c with
    | .tinval vf asid obj =>
      onPart s tag vf fun _ =>
        if 2 ^ 24 ≤ obj then answered s tag 2
        else if ((Tbl.get? s.asids asid).map Asid.vf) ≠ some vf then answered s tag 4
        else some (s, .tinval tag vf asid obj)
    | _ => none

/-! ## Gangs (R315, R370, R372) -/

/-- The launch that a GANG names, when its packet has been read already. -/
def State.gangLaunch (s : State) (vf q entry : Nat) : Option Nat :=
  match s.queue? vf q with
  | some k => if k.head % k.size = entry then k.waiting else none
  | none => none

/-- DEDUCED, assumption 40. -/
def execGang (s : State) : Result :=
  .next <| admin s fun s tag c =>
    match c with
    | .gang vf number count member leader eager q entry =>
      match s.queue? vf q with
      | none => answered s tag 4
      | some k =>
        let old := s.gang number
        let l := s.gangLaunch vf q entry
        let cor := match l.bind s.launch? with | some x => x.cor | none => true
        if count < 2 ∨ 64 < count ∨ count ≤ member ∨ 64 ≤ leader ∨ k.size ≤ entry ∨ !cor then answered s tag 2
        else if old.count = 0 ∧ old.closed then
          some ({ s with gangs := Tbl.del s.gangs number }, .done tag 8 0)
        else if old.count ≠ 0 ∧ !old.closed then answered s tag 5
        else if !eager ∧ s.status.getLsbD 24 then answered s tag 9
        else if member ≠ 0 ∧ leader ≠ s.modNum ∧ !s.routes.contains leader then answered s tag 9
        else
          let early := if old.count = 0 then old else Gang.early number
          let g : Gang := { early with
            count := count, member := member, leader := leader, eager := eager, vf := vf, q := q, entry := entry,
            launch := l.getD 0, at_ := s.thyme, tag := tag }
          let s1 := s.putGang g
          let s2 := match l with
            | some u =>
              let s2 := s1.modLaunch u fun x => { x with gang := some number }
              match s2.launch? u with | some x => s2.armGang u x | none => s2
            | none => s1
          some (s2.tryGo number, .done tag 0 0)
    | _ => none

/-! ## Storage and host memory (R318, R373) -/

/-- Whether a port in Ethernet mode reaches the storage target (R318). -/
def State.storageLink (s : State) : Bool := s.ports.any fun e => e.2.up && e.2.eth

/-- STREAD: the blocks that the storage target returned, or its error; it completes once its stores are Complete at partition scope. -/
def execStread (data : Option (List Byte)) (s : State) : Result :=
  .next <| admin s fun s tag c =>
    match c with
    | .stread vf _ _ blocks handle =>
      onPart s tag vf fun _ =>
        match s.vfAsid vf, data with
        | none, _ => answered s tag 4
        | _, none => answered s tag 7
        | some a, some bs =>
          if bs.length ≠ 4096 * blocks then none
          else
            if !s.storageLink then answered s tag 7
            else
              match s.storeHandle a vf (qn handle) bs with
              | .ok s1 => some (s1, .stread tag vf a (qn handle) (4096 * blocks))
              | .error _ => answered s tag 2
    | _ => none

/-- Whether every store in a handle's range is Complete at partition scope. -/
def State.rangeComplete (s : State) (asid vf : Nat) (h : QWord) (n : Nat) : Bool :=
  match s.checkGlobal 999 asid .load h 0 n 0 0 with
  | .error _ => true
  | .ok d =>
    match s.globalPieces 999 asid vf d (hObj h) (hOff h) n with
    | .error _ => true
    | .ok ps => s.partials.all fun p => s.partialDone p || p.live.all fun a => ps.all fun x => !within a x.loc x.len

/-- STWRITE is accepted at the ring's head once the stores to its range are Complete at partition scope, and what then stands there goes
to storage; ok tells whether the target took it (DEDUCED, assumption 20). -/
def execStwrite (ok : Bool) (s : State) : Result :=
  .next <| admin s fun s tag c =>
    match c with
    | .stwrite vf ns lba blocks handle =>
      onPart s tag vf fun _ =>
        match s.vfAsid vf with
        | none => answered s tag 4
        | some a =>
          if !ok || !s.storageLink then answered s tag 7
          else if !s.rangeComplete a vf (qn handle) (4096 * blocks) then none
          else
            match s.readHandle a vf (qn handle) (4096 * blocks) with
            | .ok bs => some (s.emit (.store ns lba bs), .done tag 0 0)
            | .error _ => answered s tag 2
    | _ => none

/-- HOSTCPY: towards the host, or the bytes that the host returned; fewer bytes than asked tell of a failed transfer, which leaves
the object partly written. -/
def execHostcpy (data : Option (List Byte)) (s : State) : Result :=
  .next <| admin s fun s tag c =>
    match c with
    | .hostcpy vf addr handle len toHost =>
      onPart s tag vf fun _ =>
        match s.vfAsid vf with
        | none => answered s tag 4
        | some a =>
          if !s.hostLink then answered s tag 6
          else if toHost then
            match s.readHandle a vf (qn handle) len with
            | .ok bs => some (s.emit (.toHost addr bs), .done tag 0 0)
            | .error _ => answered s tag 2
          else
            match data with
            | none => answered s tag 6
            | some bs =>
              match s.storeHandle a vf (qn handle) (bs.take len) with
              | .ok s1 => some (s1, .done tag (if bs.length < len then 6 else 0) 0)
              | .error _ => answered s tag 2
    | _ => none

/-- ADMIN_COMPLETION: the completion of the command that has finished, or of a command with an unknown OP or a non-zero reserved
field; it raises the PF's vector (written as function 32). -/
def execAdminCompletion (s : State) : Result :=
  .next <|
    let s1 := admin s fun s tag c => match c with | .bad => answered s tag 1 | _ => none
    match s1.jobs with
    | .stread tag vf a h n :: rest =>
      if s1.rangeComplete a vf h n then ({ s1 with jobs := rest, posted := s1.posted ++ [(tag, 0, 0)] } : State).msix 32 0 else s1
    | .done tag st v :: rest => ({ s1 with jobs := rest, posted := s1.posted ++ [(tag, st, v)] } : State).msix 32 0
    | _ => s1

end Sys2Proof.Machine
end

