-- ==== Sys2Proof/Machine/Fabric.lean ====
section
/-! DEFINITION. Remote requests and their replies (21 R313, R314; 24 R355, R371, R372), ports and routes (24 R371). -/

namespace Sys2Proof.Machine

/-! ## At the target module -/

def remoteLen : RemoteOp → Nat
  | .read n => n
  | .write bs => bs.length
  | .rmw _ n _ => n
  | .swap n _ => n
  | .cas n _ _ => n
  | .scas _ _ => 8
  | .fadd _ _ _ => 4

def remoteNeed : RemoteOp → Need
  | .read _ => .copyRead
  | .write _ => .copyWrite
  | _ => .atomic

/-- The local atomic that a request asks for. -/
def remoteSq : RemoteOp → SqOp
  | .rmw o _ v => .rmw o v
  | .swap _ v => .swap v
  | .cas _ e v => .cas e v
  | .scas e v => .scas e v
  | .fadd f v m => .fadd f v m
  | _ => .trig

/-- Serve a request at its home: it is checked as a local access is, and performed. -/
def State.serveRemote (s : State) (r : RemoteReq) : State × RemoteAns :=
  match Tbl.get? s.asids r.asid with
  | none => (s, .refused 0x40 2)
  | some a =>
    let n := remoteLen r.op
    let atom := match r.op with | .read _ | .write _ => 0 | _ => n
    match s.checkGlobal 999 r.asid (remoteNeed r.op) (mkHandle r.obj r.off) 0 n atom 1 with
    | .error f => (s, .refused f.cause f.detail)
    | .ok d =>
      if d.kind = 4 then (s, .refused 0x41 1)
      else
        match s.globalPieces 999 r.asid a.vf d r.obj r.off n with
        | .error f => (s, .refused f.cause f.detail)
        | .ok ps =>
          let bad := ps.any fun p => s.isLost p.loc p.len
          match r.op with
          | .read _ => if bad then (s, .dataError) else (s, .ok (ps.flatMap fun p => Memory.read s.mem p.loc p.len))
          | .write bs =>
            let (s1, _, part) := s.writePieces ps bs
            (s1, if part.isSome then .dataError else .ok [])
          | op =>
            if bad then (s, .dataError)
            else
              match ps with
              | p :: _ =>
                let old := s.rdNat p.loc n
                let s1 := match (remoteSq op).apply n old with
                  | some v => s.deviceStore p.loc (l2Die p.home) (leBytes n v)
                  | none => s
                (s1, .ok (leBytes n old))
              | [] => (s, .ok [])

/-- Whether a write or atomic would touch a granule that is being moved. -/
def State.remoteFrozen (s : State) (r : RemoteReq) : Bool :=
  match r.op, Tbl.get? s.asids r.asid, s.desc 999 r.asid (mkHandle r.obj r.off) with
  | .read _, _, _ => false
  | _, some a, .ok d =>
    match s.globalPieces 999 r.asid a.vf d r.obj r.off (remoteLen r.op) with
    | .ok ps => ps.any fun p => s.writeFrozen p.loc
    | .error _ => false
  | _, _, _ => false

/-- REMOTE_REQUEST: a duplicate takes no effect again, and is answered as before (R371). -/
def execRemoteRequest (r : RemoteReq) (s : State) : Result :=
  .next <|
    if !s.up then s
    else
      match s.served.find? fun x => x.1 == r.src && x.2.1 == r.seq with
      | some x => s.emit (.answer r.src r.seq x.2.2)
      | none =>
        if s.remoteFrozen r then s
        else
          let (s1, a) := s.serveRemote r
          ({ s1 with served := s1.served ++ [(r.src, r.seq, a)] } : State).emit (.answer r.src r.seq a)

/-! ## At this module -/

/-- A remote request of this module has failed: REMOTE, reported as R341 says for DATA. -/
def State.failRemote (s : State) (r : Remote) (detail aux : Nat) : State :=
  match r.who with
  | .atom tk e =>
    (s.modTeam tk fun t => t.dropSq e.id).latePrecise tk ⟨0x83, detail, e.addr, qn aux⟩ e.dest e.pc e.rpc e.word
  | .chunk core id =>
    match (s.core core).copies.find? fun c => c.id == id with
    | none => s
    | some c =>
      let h := match r.req.op with | .read _ => c.src.reg | _ => c.dst.reg
      (s.modCopy core id fun x => { x with remote := x.remote - 1, reads := [], puts := [] }).copyFault core c ⟨0x83, detail, h, qn aux⟩

/-- The reply to a request of a copy: what was read goes into its buffer, at the place of the request (R314). -/
def State.chunkReply (s : State) (core id off : Nat) (op : RemoteOp) (data : List Byte) : State :=
  s.modCopy core id fun x =>
    let y := { x with remote := x.remote - 1 }
    match op with
    | .read _ => if x.fail then y.tidy else y.fill (off - hOff x.src.reg) data
    | _ => y.tidy

/-- REMOTE_REPLY: the answer to request id. -/
def execRemoteReply (id : Nat) (a : RemoteAns) (s : State) : Result :=
  .next <| match s.remotes.find? fun r => r.id == id with
  | none => s
  | some r =>
    let s1 : State := { s with remotes := s.remotes.filter fun x => x.id != id }
    match a with
    | .refused c d => s1.failRemote r 2 (256 * c + d)
    | .dataError => s1.failRemote r 3 0
    | .ok data =>
      match r.who with
      | .atom tk e => s1.modTeam tk fun t => if e.returns then (t.dropSq e.id).deliver e.dest (leNat data) else t.dropSq e.id
      | .chunk core cid => s1.chunkReply core cid r.req.off r.req.op data

/-- REMOTE_NO_ROUTE: no route within 1 ms of the issue. -/
def execRemoteNoRoute (id : Nat) (s : State) : Result :=
  .next <| match s.remotes.find? fun r => r.id == id with
  | none => s
  | some r =>
    if s.routes.contains r.dest || decide (s.thyme < r.at_ + 1000000) then s
    else ({ s with remotes := s.remotes.filter fun x => x.id != id } : State).failRemote r 1 r.dest

/-! ## Ports -/

/-- Count the ports that are down in the module status. -/
def State.countPorts (s : State) : State := s.setStatus 16 8 (s.ports.filter fun e => !e.2.up).length

/-- FLIT_RETRY: ok tells whether the retry passed; 8 failures in a row or 1,000 retries within 1 ms take the port down (DESIGN CHOICE, assumption 22). -/
def execFlitRetry (port : Nat) (ok : Bool) (s : State) : Result :=
  .next <|
    match Tbl.get? s.ports port with
    | none => s
    | some p =>
      if !p.up || p.eth then s
      else
        let fails := if ok then 0 else p.fails + 1
        let times := (p.times.filter fun t => decide (s.thyme < t + 1000000)) ++ [s.thyme]
        let up := decide (fails < 8) && decide (times.length < 1000)
        ({ s with ports := Tbl.set s.ports port { p with up := up, fails := fails, times := times }, routing := s.routing || !up } : State).countPorts

/-- A port is set to Ethernet mode or back (R15, R313, R318). -/
def State.setEthernet (s : State) (port : Nat) (on : Bool) : State :=
  match Tbl.get? s.ports port with
  | none => s
  | some p => { s with ports := Tbl.set s.ports port { p with eth := on, fails := 0, times := [] } }

/-- ROUTES_RECOMPUTED: the modules that routes now reach. -/
def execRoutesRecomputed (reach : List Nat) (s : State) : Result := .next { s with routes := reach, routing := false }

end Sys2Proof.Machine
end

