-- ==== Sys2Proof/Machine/HostIo.lean ====
section
/-! DEFINITION. The host link (21 R306, R309; 24 R373), boot and recovery (21 R316; 24 R374, R375), SPDM and Redfish (21 R317; 23
R353; 24 R360, R365). -/

namespace Sys2Proof.Machine

/-! ## BAR2 (R306) -/

/-- First granule and number of granules of each T1 stack and T2 channel that a partition owns, in ascending physical address. -/
def Part.blocks (p : Part) : List (Nat × Nat) :=
  (((List.range 32).filter fun k => p.owns k).map fun k => (65536 * k, 49152))
    ++ ((List.range 192).filter fun n => p.owns (l2Gran n)).map fun n => (2 ^ 21 + 2 ^ 18 * n, 2 ^ 18)

/-- The physical granule of number n of the partition's granules. -/
def granNo : List (Nat × Nat) → Nat → Option Nat
  | [], _ => none
  | (g, k) :: r, n => if n < k then some (g + n) else granNo r (n - k)

/-- The physical address of a BAR2 offset. -/
def State.bar2Addr (s : State) (vf off : Nat) : Option Nat :=
  (s.part? vf).bind fun p => (granNo p.blocks (off / 65536)).map fun g => 65536 * g + off % 65536

/-- The die on which a physical line is homed, as the line's replicas or stores tell it; without any, no other die holds a copy. -/
def State.homeDie (s : State) (line : Nat) : Nat :=
  match s.replicas.find? fun e => e.1 % 2 ^ 40 == line with
  | some e => e.2.home
  | none =>
    match s.partials.find? fun p => p.line == line with
    | some p => p.home
    | none => ((physGran (128 * line)).getD 0) / 4

/-- Pieces of a BAR2 access; none where an offset reaches no granule. -/
def State.bar2Pieces (s : State) (vf off n : Nat) : Option (List Piece) :=
  (splitAt8 (n / 8 + 2) off 0 n).foldr
    (fun p acc =>
      match s.bar2Addr vf (off + p.1), acc with
      | some a, some r => some (⟨a, p.2, p.1, 24 * s.homeDie (a / 128)⟩ :: r)
      | _, _ => none)
    (some [])

/-- HOST_BAR2_WRITE: a store at system scope at each byte's home; a poisoned write is discarded whole (R373). -/
def execHostBar2Write (vf off : Nat) (data : List Byte) (poisoned : Bool) (s : State) : Result :=
  .next <|
    if poisoned || !s.hostLink then s
    else
      match s.bar2Pieces vf off data.length with
      | none => s
      | some ps => if ps.any fun p => s.writeFrozen p.loc then s else (s.writePieces ps data).1

/-- HOST_BAR2_READ: served from the home. -/
def execHostBar2Read (vf off n : Nat) (s : State) : Result :=
  .next <|
    if !s.hostLink then s
    else
      match s.bar2Pieces vf off n with
      | none => s
      | some ps => if ps.any fun p => s.isLost p.loc p.len then s else s.emit (.bar2 (ps.flatMap fun p => Memory.read s.mem p.loc p.len))

/-! ## BAR0 (R306) -/

/-- A host write to a VF's BAR0: the doorbell of launch queue q at 8 q, its event-head doorbell at 0x200 + 8 q. -/
def State.bar0 (s : State) (vf off : Nat) (v : QWord) : Result :=
  if !s.hostLink || s.status.toNat % 256 == 2 || off % 8 != 0 then .next s
  else if off < 0x200 then execLaunchQueueDoorbell vf (off / 8) v.toNat s
  else if off < 0x400 then execEventHeadDoorbell vf ((off - 0x200) / 8) v.toNat s
  else .next s

/-- A host write of the PF's administration-queue base and size. -/
def State.setAdmin (s : State) (base : QWord) (size : Nat) : State := { s with adminBase := base, adminSize := size }

/-! ## Link and function resets (R311, R373) -/

def execPcieLinkDown (s : State) : Result := .next { s with hostLink := false }

def execPcieLinkUp (s : State) : Result := .next { s with hostLink := true }

/-- Reset the partitions of a list; one whose rails or copies hold it back is reset later (R369, R373). -/
def State.resetAll (s : State) (vfs : List Nat) : State :=
  vfs.foldl (fun s vf =>
    match s.part? vf with
    | none => s
    | some p =>
      let s1 := s.beginReset vf
      if s1.railsUp p && !s1.awayBusy vf then s1.resetPart vf
      else { s1 with resets := if s1.resets.contains vf then s1.resets else s1.resets ++ [vf] }) s

/-- HOT_RESET acts as PRESET on every partition. -/
def execHotReset (s : State) : Result := .next (s.resetAll (s.parts.map (·.1)))

/-- PF_FUNCTION_LEVEL_RESET resets the administration queue only: commands not yet begun and completions not yet posted go. -/
def execPfFunctionLevelReset (s : State) : Result :=
  .next { s with ring := [], jobs := s.jobs.filter fun j => match j with | .done _ _ _ => false | _ => true }

def execVfFunctionLevelReset (vf : Nat) (s : State) : Result := .next (s.resetAll [vf])

/-! ## Boot (R316, R374, R375) -/

/-- The ROM's check fails: STATE 2 with its REASON; port 0 comes up in Ethernet mode and the administration queue is closed. -/
def State.recover (s : State) (reason : Nat) : State :=
  { (s.setStatus 0 8 2).setStatus 32 8 reason with ports := Tbl.set s.ports 0 ⟨true, true, 0, []⟩, adminOpen := false }

/-- The outcome of a check of the image: REASON, or 0. -/
def imageReason : ImageCheck → Nat
  | .good => 0
  | .badSignature => 1
  | .badKey => 2
  | .unreadable => 3

/-- BOOT: the ROM checks the image, which is what a recovery wrote to the boot flash where one did; the firmware brings the dies and the
stacks up, zeroes T1, starts Thyme, which runs with the core clock from STATE 1 on, trains the ports, sets the routes (R313) and opens the
administration queue. -/
def execBoot (image : ImageCheck) (s : State) : Result :=
  .next <|
    if s.status.toNat % 256 ≠ 0 then s
    else
      match s.flash.getD image with
      | .good =>
        { (s.setStatus 0 8 1) with
          mem := s.mem.filter fun e => !decide (e.1 < 2 ^ 37)
          dies := Tbl.mapVals s.dies fun d => { d with off := d.lost }
          srams := Tbl.mapVals s.srams fun x => { x with off := false }
          ports := (List.range 18).map fun k => (k, ⟨true, false, 0, []⟩)
          routes := Config.bootRoutes
          adminOpen := true }
      | bad => s.recover (imageReason bad)

/-- RECOVERY_RETRY, a try that the ROM makes 60 s after the last: no clock of the model runs in STATE 2 (assumption 21). An image that
passes is written to the boot flash, and the module resets. -/
def execRecoveryRetry (image : ImageCheck) (s : State) : Result :=
  .next <|
    if s.status.toNat % 256 ≠ 2 then s
    else
      match image with
      | .good => { ((s.setStatus 0 8 0).setStatus 32 8 0) with flash := some .good }
      | bad => s.recover (imageReason bad)

/-! ## SPDM 1.3 (R317) -/

/-- Whether the firmware serves the management port: not while booting or in recovery. -/
def State.served? (s : State) : Bool := s.status.toNat % 256 == 1 || s.status.toNat % 256 == 3

/-- An SPDM 1.3 reply (DESIGN CHOICE, assumption 21). -/
def State.reply (s : State) (data : List Byte) : State := if s.served? then s.emit (.spdm 0x13 data) else s

def execGetVersion (s : State) : Result := .next (s.reply (Config.spdmBytes 0))
def execGetCapabilities (s : State) : Result := .next (s.reply (Config.spdmBytes 1))

/-- Only RSASSA-3072 with SHA-256 is agreed on; without it the request is answered empty. -/
def execNegotiateAlgorithms (offered : List SpdmAlgorithm) (s : State) : Result :=
  .next (s.reply (if offered.contains .rsassa3072Sha256 then Config.spdmBytes 2 else []))

def execGetDigests (s : State) : Result := .next (s.reply (Config.spdmBytes 3))

def execGetCertificate (off len : Nat) (s : State) : Result := .next (s.reply (((Config.spdmBytes 4).drop off).take len))

def execChallenge (nonce : List Byte) (s : State) : Result := .next (s.reply (Config.spdmSign nonce))

/-- The measurements are served in recovery as well, with the digest that the ROM computed (R375). -/
def execGetMeasurements (s : State) : Result :=
  .next <| if s.status.toNat % 256 = 0 then s else s.emit (.spdm 0x13 (Config.measurements (if s.status.toNat % 256 = 2 then 6 else 5) s.fused))

/-! ## Redfish -/

/-- A row in a report: the kind of memory and its number. -/
def rowWords : MemRow → List Nat
  | .t1 r => [0, r]
  | .t2 r => [1, r]
  | .l2 r => [2, r]
  | .spad r => [3, r]

/-- The corrected errors of each row within the window, as the row and its count (R353). -/
def State.rowCounts (s : State) : List Nat :=
  let near := (s.rowErrs.filter fun e => decide (s.thyme < e.2 + 3600000000000)).map (·.1)
  near.eraseDups.flatMap fun r => rowWords r ++ [near.count r]

/-- Cores whose six slices are all retired, and cores isolated (R364, R365). -/
def State.coresRetired (s : State) : List Nat :=
  (List.range 384).filter fun c => s.fused.contains c || (List.range 6).all fun i => s.retired.contains (6 * c + i)

/-- The values that Redfish reports for an item. -/
def State.report (s : State) (item : RedfishItem) : List Nat :=
  match item with
  | .temperatures => ((List.range 32).map fun k => (s.stack k).temp) ++ (List.range 8).map fun d => (s.die d).temp
  | .railCurrents => (List.range 8).map fun d => s.amps.getD d 0
  | .linkStates => ((List.range 18).map fun k => if ((Tbl.get? s.ports k).map FabPort.up).getD false then 1 else 0) ++ [if s.hostLink then 1 else 0]
  | .granuleSets => s.parts.map fun e => e.2.mask.toNat
  | .correctedErrors => s.rowCounts ++ [s.regErrs.length, s.refetched]
  | .spares => (s.spared.flatMap rowWords) ++ (List.range Config.spareRegions).map s.spareLeft
  | .retired => s.retired
  | .retiredCores => s.coresRetired
  | .unwrittenCompletions => s.parts.map fun e => e.2.noRec
  | .unwrittenRecords => s.parts.map fun e => e.2.noFault
  | .deferredPromotions => s.parts.map fun e => e.2.deferred
  | .moduleStatus => [s.status.toNat]

/-- REDFISH_REQUEST; in recovery Redfish serves the module status alone (R375). -/
def execRedfishRequest (item : RedfishItem) (s : State) : Result :=
  .next <|
    if s.served? ∨ (s.status.toNat % 256 = 2 ∧ item = .moduleStatus) then s.emit (.redfish item (s.report item)) else s

end Sys2Proof.Machine
end

