-- ==== Sys2Proof/Machine/Lane.lean ====
section
/-! DEFINITION. Lane instructions over integers, predicates, exchanges and immediates (11 R186 to R195, R208 to R210). -/

namespace Sys2Proof.Machine

/-! ## Integer operations (Table 11.2) -/

def execVadd (o : VR) (s : State) : Result := vrOp (.vadd o) o .int s fun _ a b _ => a + b

def execVsub (o : VR) (s : State) : Result := vrOp (.vsub o) o .int s fun _ a b _ => a - b

def execVmul (o : VR) (s : State) : Result := vrOp (.vmul o) o .int s fun _ a b _ => a * b

def execVmulh (o : VR) (s : State) : Result := vrOp (.vmulh o) o .int s fun _ a b _ => wrap32 (a.toInt * b.toInt / 2 ^ 32)

def execVmulhn (o : VR) (s : State) : Result := vrOp (.vmulhn o) o .int s fun _ a b _ => BitVec.ofNat 32 (a.toNat * b.toNat / 2 ^ 32)

def execVmad (o : VR) (s : State) : Result := vrOp (.vmad o) o .int s fun _ a b d => a * b + d

def execVmin (o : VR) (s : State) : Result := vrOp (.vmin o) o .int s fun _ a b _ => smin a b

def execVmax (o : VR) (s : State) : Result := vrOp (.vmax o) o .int s fun _ a b _ => smax a b

def execVminn (o : VR) (s : State) : Result := vrOp (.vminn o) o .int s fun _ a b _ => umin a b

def execVmaxn (o : VR) (s : State) : Result := vrOp (.vmaxn o) o .int s fun _ a b _ => umax a b

def execVand (o : VR) (s : State) : Result := vrOp (.vand o) o .int s fun _ a b _ => a &&& b

def execVor (o : VR) (s : State) : Result := vrOp (.vor o) o .int s fun _ a b _ => a ||| b

def execVxor (o : VR) (s : State) : Result := vrOp (.vxor o) o .int s fun _ a b _ => a ^^^ b

def execVandn (o : VR) (s : State) : Result := vrOp (.vandn o) o .int s fun _ a b _ => a &&& ~~~b

def execVshl (o : VR) (s : State) : Result := vrOp (.vshl o) o .int s fun _ a b _ => shl a b.toNat

def execVshr (o : VR) (s : State) : Result := vrOp (.vshr o) o .int s fun _ a b _ => shr a b.toNat

def execVsar (o : VR) (s : State) : Result := vrOp (.vsar o) o .int s fun _ a b _ => sar a b.toNat

def execVrot (o : VR) (s : State) : Result := vrOp (.vrot o) o .int s fun _ a b _ => rotl a b.toNat

/-- VADDC, VSUBB act on pairs (R190). -/
def vr64Op (i : Instr) (o : VR) (s : State) (f : QWord → QWord → QWord) : Result :=
  onTeamRegs i s fun t =>
    s.retire (t.writeLanes64 o.nw o.vd 0
      (t.results (s.activeLanes t) o.pg.toNat fun L => f (t.src64 o.sa L) (t.src64 o.sb L)))

def execVaddc (o : VR) (s : State) : Result := vr64Op (.vaddc o) o s fun a b => a + b

def execVsubb (o : VR) (s : State) : Result := vr64Op (.vsubb o) o s fun a b => a - b

def execVabsd (o : VR) (s : State) : Result := vrOp (.vabsd o) o .int s fun _ a b _ => BitVec.ofNat 32 (a.toInt - b.toInt).natAbs

def execVclz (o : VU) (s : State) : Result := vuOp (.vclz o) o .int s fun _ a => BitVec.ofNat 32 (clz a)

def execVpopc (o : VU) (s : State) : Result := vuOp (.vpopc o) o .int s fun _ a => BitVec.ofNat 32 (popc a)

def execVbrev (o : VU) (s : State) : Result := vuOp (.vbrev o) o .int s fun _ a => brev a

/-- VSEL: pg chooses and does not guard (R17). -/
def execVsel (o : VR) (s : State) : Result :=
  laneOp (.vsel o) s o.nw o.vd 0 fun t L => if t.pred o.pg.toNat L then t.src .int o.sa L else t.src .int o.sb L

def execVmov (o : VU) (s : State) : Result := vuOp (.vmov o) o .int s fun _ a => a

def execVbfx (o : VR) (s : State) : Result := vrOp (.vbfx o) o .int s fun _ a b _ => bfx a b

def execVbfi (o : VR) (s : State) : Result := vrOp (.vbfi o) o .int s fun _ a b d => bfi a b d

def execVadds (o : VR) (s : State) : Result := vrOp (.vadds o) o .int s fun _ a b _ => sat32 (a.toInt + b.toInt)

def execVsubs (o : VR) (s : State) : Result := vrOp (.vsubs o) o .int s fun _ a b _ => sat32 (a.toInt - b.toInt)

def execVdiv (o : VR) (s : State) : Result := vrOp (.vdiv o) o .int s fun _ a b _ => sdiv a b

def execVrem (o : VR) (s : State) : Result := vrOp (.vrem o) o .int s fun _ a b _ => srem a b

/-! ## Compares and predicates (R191 to R195) -/

def execVcmp (o : VC) (s : State) : Result :=
  predOp (.vcmp o) s [o.pd.toNat] o.pg.toNat fun t _ L => condI o.cond (t.src .int o.sa L) (t.src .int o.sb L)

def execVcmpf (o : VC) (s : State) : Result :=
  predOp (.vcmpf o) s [o.pd.toNat] o.pg.toNat fun t _ L => condF o.cond (t.src .f32 o.sa L) (t.src .f32 o.sb L)

/-- VPOP: pg is the predicate counted (R193). -/
def execVpop (o : VU) (s : State) : Result :=
  laneOp (.vpop o) s o.nw o.vd 0 fun t L =>
    t.src .int o.sa L
      + BitVec.ofNat 32 ((List.range L).filter fun M => (s.activeLanes t).getLsbD M && t.pred o.pg.toNat M).length

def execVp2v (o : VP) (s : State) : Result :=
  laneOp (.vp2v o) s o.nw o.vd o.pg.toNat fun t L => BitVec.ofNat 32 (natOfBits (fun i => t.pred i L) 8)

/-- VV2P (Table 11.4). -/
def execVv2p (o : VV) (s : State) : Result :=
  match o.cond with
  | .any =>
    predOp (.vv2p o) s [o.pd.toNat] o.pg.toNat fun t _ L => (t.src .int o.sa L &&& t.src .int o.sb L) != 0
  | .none =>
    predOp (.vv2p o) s [o.pd.toNat] o.pg.toNat fun t _ L => (t.src .int o.sa L &&& t.src .int o.sb L) == 0
  | .all =>
    predOp (.vv2p o) s [1, 2, 3, 4, 5, 6, 7] o.pg.toNat fun t pd L => (t.src .int o.sa L).getLsbD pd

def execVfcls (o : VU) (s : State) : Result :=
  vuOp (.vfcls o) o .f32 s fun _ a => BitVec.ofNat 32 (2 ^ fclass a)

/-! ## Exchanges (R208, R209): src gives the source lane; one outside the team becomes the lane itself -/

def xOp (i : Instr) (o : VR) (s : State) (k : Team → Nat → Nat → Int) : Result :=
  laneOp i s o.nw o.vd o.pg.toNat fun t L =>
    let j := k t L (t.src .int o.sb L).toNat
    t.src .int o.sa (if 0 ≤ j ∧ j < t.lanes then j.toNat else L)

def execXshfl (o : VR) (s : State) : Result := xOp (.xshfl o) o s fun t _ b => (b % t.lanes : Nat)

def execXup (o : VR) (s : State) : Result := xOp (.xup o) o s fun _ L b => (L : Int) - b

def execXdn (o : VR) (s : State) : Result := xOp (.xdn o) o s fun _ L b => (L : Int) + b

def execXbfly (o : VR) (s : State) : Result := xOp (.xbfly o) o s fun _ L b => (L ^^^ b : Nat)

def execXbcast (o : VR) (s : State) : Result :=
  xOp (.xbcast o) o s fun t _ _ =>
    let L0 := ((lanesOf t.lanes (s.activeLanes t)).head?).getD 0
    ((t.src .int o.sb L0).toNat % t.lanes : Nat)

/-- XSCAN: an exclusive running sum over the lanes written (R209). -/
def execXscan (o : VR) (s : State) : Result :=
  laneOp (.xscan o) s o.nw o.vd o.pg.toNat fun t L =>
    ((List.range L).filter fun M => (s.activeLanes t).getLsbD M && t.pred o.pg.toNat M).foldl
      (fun x M => x + t.src .int o.sa M) (t.src .int o.sb L)

/-! ## Immediates (R171, R210) -/

def execVaddi (o : VI) (s : State) : Result := viOp (.vaddi o) o s fun a => a + o.imm.signExtend 32

def execVandi (o : VI) (s : State) : Result := viOp (.vandi o) o s fun a => a &&& o.imm.setWidth 32

def execVori (o : VI) (s : State) : Result := viOp (.vori o) o s fun a => a ||| o.imm.setWidth 32

def execVxori (o : VI) (s : State) : Result := viOp (.vxori o) o s fun a => a ^^^ o.imm.setWidth 32

def execVshli (o : VI) (s : State) : Result := viOp (.vshli o) o s fun a => shl a o.imm.toNat

def execVshri (o : VI) (s : State) : Result := viOp (.vshri o) o s fun a => shr a o.imm.toNat

def execVsari (o : VI) (s : State) : Result := viOp (.vsari o) o s fun a => sar a o.imm.toNat

def execVldi (o : VI) (s : State) : Result := viOp (.vldi o) o s fun a => a * 1024 + o.imm.signExtend 32

end Sys2Proof.Machine
end

