-- ==== Sys2Proof/Machine/Dispatch.lean ====
section
/-! DEFINITION. exec: one arm per constructor of Instr, each one call of the meaning of that row of the opcode table. -/

namespace Sys2Proof.Machine

open Sys2Proof

def exec (i : Instr) (s : State) : Host.Outcome State Fault Refusal :=
  match i with
  | .vadd o => Sys2Proof.Machine.execVadd o s
  | .vsub o => Sys2Proof.Machine.execVsub o s
  | .vmul o => Sys2Proof.Machine.execVmul o s
  | .vmulh o => Sys2Proof.Machine.execVmulh o s
  | .vmulhn o => Sys2Proof.Machine.execVmulhn o s
  | .vmad o => Sys2Proof.Machine.execVmad o s
  | .vmin o => Sys2Proof.Machine.execVmin o s
  | .vmax o => Sys2Proof.Machine.execVmax o s
  | .vminn o => Sys2Proof.Machine.execVminn o s
  | .vmaxn o => Sys2Proof.Machine.execVmaxn o s
  | .vand o => Sys2Proof.Machine.execVand o s
  | .vor o => Sys2Proof.Machine.execVor o s
  | .vxor o => Sys2Proof.Machine.execVxor o s
  | .vandn o => Sys2Proof.Machine.execVandn o s
  | .vshl o => Sys2Proof.Machine.execVshl o s
  | .vshr o => Sys2Proof.Machine.execVshr o s
  | .vsar o => Sys2Proof.Machine.execVsar o s
  | .vrot o => Sys2Proof.Machine.execVrot o s
  | .vaddc o => Sys2Proof.Machine.execVaddc o s
  | .vsubb o => Sys2Proof.Machine.execVsubb o s
  | .vabsd o => Sys2Proof.Machine.execVabsd o s
  | .vclz o => Sys2Proof.Machine.execVclz o s
  | .vpopc o => Sys2Proof.Machine.execVpopc o s
  | .vbrev o => Sys2Proof.Machine.execVbrev o s
  | .vsel o => Sys2Proof.Machine.execVsel o s
  | .vmov o => Sys2Proof.Machine.execVmov o s
  | .vbfx o => Sys2Proof.Machine.execVbfx o s
  | .vbfi o => Sys2Proof.Machine.execVbfi o s
  | .vadds o => Sys2Proof.Machine.execVadds o s
  | .vsubs o => Sys2Proof.Machine.execVsubs o s
  | .vdiv o => Sys2Proof.Machine.execVdiv o s
  | .vrem o => Sys2Proof.Machine.execVrem o s
  | .vcmp o => Sys2Proof.Machine.execVcmp o s
  | .vcmpf o => Sys2Proof.Machine.execVcmpf o s
  | .vpop o => Sys2Proof.Machine.execVpop o s
  | .vp2v o => Sys2Proof.Machine.execVp2v o s
  | .vv2p o => Sys2Proof.Machine.execVv2p o s
  | .vfcls o => Sys2Proof.Machine.execVfcls o s
  | .fadd o => Sys2Proof.Machine.execFadd o s
  | .fsub o => Sys2Proof.Machine.execFsub o s
  | .fmul o => Sys2Proof.Machine.execFmul o s
  | .ffma o => Sys2Proof.Machine.execFfma o s
  | .fnma o => Sys2Proof.Machine.execFnma o s
  | .fmin o => Sys2Proof.Machine.execFmin o s
  | .fmax o => Sys2Proof.Machine.execFmax o s
  | .fneg o => Sys2Proof.Machine.execFneg o s
  | .fabs o => Sys2Proof.Machine.execFabs o s
  | .frcp o => Sys2Proof.Machine.execFrcp o s
  | .frsq o => Sys2Proof.Machine.execFrsq o s
  | .fsqrt o => Sys2Proof.Machine.execFsqrt o s
  | .fexp2 o => Sys2Proof.Machine.execFexp2 o s
  | .flog2 o => Sys2Proof.Machine.execFlog2 o s
  | .frint o => Sys2Proof.Machine.execFrint o s
  | .fscale o => Sys2Proof.Machine.execFscale o s
  | .hadd2 o => Sys2Proof.Machine.execHadd2 o s
  | .hmul2 o => Sys2Proof.Machine.execHmul2 o s
  | .hfma2 o => Sys2Proof.Machine.execHfma2 o s
  | .badd2 o => Sys2Proof.Machine.execBadd2 o s
  | .bmul2 o => Sys2Proof.Machine.execBmul2 o s
  | .bfma2 o => Sys2Proof.Machine.execBfma2 o s
  | .fdiv o => Sys2Proof.Machine.execFdiv o s
  | .cvt o => Sys2Proof.Machine.execCvt o s
  | .cvtscQ o => Sys2Proof.Machine.execCvtscQ o s
  | .cvtscD o => Sys2Proof.Machine.execCvtscD o s
  | .pack o => Sys2Proof.Machine.execPack o s
  | .unpk o => Sys2Proof.Machine.execUnpk o s
  | .dot4i8 o => Sys2Proof.Machine.execDot4i8 o s
  | .dot4n8 o => Sys2Proof.Machine.execDot4n8 o s
  | .dot8i4 o => Sys2Proof.Machine.execDot8i4 o s
  | .dot4e4 o => Sys2Proof.Machine.execDot4e4 o s
  | .dot4e5 o => Sys2Proof.Machine.execDot4e5 o s
  | .dot8f4 o => Sys2Proof.Machine.execDot8f4 o s
  | .qscale o => Sys2Proof.Machine.execQscale o s
  | .i2f o => Sys2Proof.Machine.execI2f o s
  | .f2i o => Sys2Proof.Machine.execF2i o s
  | .xshfl o => Sys2Proof.Machine.execXshfl o s
  | .xup o => Sys2Proof.Machine.execXup o s
  | .xdn o => Sys2Proof.Machine.execXdn o s
  | .xbfly o => Sys2Proof.Machine.execXbfly o s
  | .xbcast o => Sys2Proof.Machine.execXbcast o s
  | .xscan o => Sys2Proof.Machine.execXscan o s
  | .vaddi o => Sys2Proof.Machine.execVaddi o s
  | .vandi o => Sys2Proof.Machine.execVandi o s
  | .vori o => Sys2Proof.Machine.execVori o s
  | .vxori o => Sys2Proof.Machine.execVxori o s
  | .vshli o => Sys2Proof.Machine.execVshli o s
  | .vshri o => Sys2Proof.Machine.execVshri o s
  | .vsari o => Sys2Proof.Machine.execVsari o s
  | .vldi o => Sys2Proof.Machine.execVldi o s
  | .ldl o => Sys2Proof.Machine.execLdl o s
  | .stl o => Sys2Proof.Machine.execStl o s
  | .ldc o => Sys2Proof.Machine.execLdc o s
  | .stc o => Sys2Proof.Machine.execStc o s
  | .ldf o => Sys2Proof.Machine.execLdf o s
  | .stf o => Sys2Proof.Machine.execStf o s
  | .ldd o => Sys2Proof.Machine.execLdd o s
  | .std o => Sys2Proof.Machine.execStd o s
  | .ldg o => Sys2Proof.Machine.execLdg o s
  | .stg o => Sys2Proof.Machine.execStg o s
  | .atomg o => Sys2Proof.Machine.execAtomg o s
  | .atomgn o => Sys2Proof.Machine.execAtomgn o s
  | .casg o => Sys2Proof.Machine.execCasg o s
  | .xchg o => Sys2Proof.Machine.execXchg o s
  | .faddg o => Sys2Proof.Machine.execFaddg o s
  | .atomc o => Sys2Proof.Machine.execAtomc o s
  | .sadd o => Sys2Proof.Machine.execSadd o s
  | .ssub o => Sys2Proof.Machine.execSsub o s
  | .smul o => Sys2Proof.Machine.execSmul o s
  | .smulh o => Sys2Proof.Machine.execSmulh o s
  | .sand o => Sys2Proof.Machine.execSand o s
  | .sor o => Sys2Proof.Machine.execSor o s
  | .sxor o => Sys2Proof.Machine.execSxor o s
  | .sshl o => Sys2Proof.Machine.execSshl o s
  | .sshr o => Sys2Proof.Machine.execSshr o s
  | .ssar o => Sys2Proof.Machine.execSsar o s
  | .smin o => Sys2Proof.Machine.execSmin o s
  | .smax o => Sys2Proof.Machine.execSmax o s
  | .scmp o => Sys2Proof.Machine.execScmp o s
  | .spopc o => Sys2Proof.Machine.execSpopc o s
  | .sclz o => Sys2Proof.Machine.execSclz o s
  | .smov o => Sys2Proof.Machine.execSmov o s
  | .saddi o => Sys2Proof.Machine.execSaddi o s
  | .sandi o => Sys2Proof.Machine.execSandi o s
  | .sori o => Sys2Proof.Machine.execSori o s
  | .sxori o => Sys2Proof.Machine.execSxori o s
  | .sshli o => Sys2Proof.Machine.execSshli o s
  | .sshri o => Sys2Proof.Machine.execSshri o s
  | .sldi o => Sys2Proof.Machine.execSldi o s
  | .sldu o => Sys2Proof.Machine.execSldu o s
  | .hmake o => Sys2Proof.Machine.execHmake o s
  | .haddo o => Sys2Proof.Machine.execHaddo o s
  | .redadd o => Sys2Proof.Machine.execRedadd o s
  | .redmin o => Sys2Proof.Machine.execRedmin o s
  | .redmax o => Sys2Proof.Machine.execRedmax o s
  | .redfadd o => Sys2Proof.Machine.execRedfadd o s
  | .ballot o => Sys2Proof.Machine.execBallot o s
  | .anyl o => Sys2Proof.Machine.execAnyl o s
  | .vbcs o => Sys2Proof.Machine.execVbcs o s
  | .vgetl o => Sys2Proof.Machine.execVgetl o s
  | .vsetl o => Sys2Proof.Machine.execVsetl o s
  | .bra o => Sys2Proof.Machine.execBra o s
  | .bz o => Sys2Proof.Machine.execBz o s
  | .bnz o => Sys2Proof.Machine.execBnz o s
  | .call o => Sys2Proof.Machine.execCall o s
  | .ret o => Sys2Proof.Machine.execRet o s
  | .jmpi o => Sys2Proof.Machine.execJmpi o s
  | .rpush o => Sys2Proof.Machine.execRpush o s
  | .brv o => Sys2Proof.Machine.execBrv o s
  | .rjoin => Sys2Proof.Machine.execRjoin s
  | .lpush o => Sys2Proof.Machine.execLpush o s
  | .brk o => Sys2Proof.Machine.execBrk o s
  | .cont o => Sys2Proof.Machine.execCont o s
  | .bloop o => Sys2Proof.Machine.execBloop o s
  | .tend => Sys2Proof.Machine.execTend s
  | .yield => Sys2Proof.Machine.execYield s
  | .nop => Sys2Proof.Machine.execNop s
  | .fork o => Sys2Proof.Machine.execFork o s
  | .forkv o => Sys2Proof.Machine.execForkv o s
  | .forkl o => Sys2Proof.Machine.execForkl o s
  | .join => Sys2Proof.Machine.execJoin s
  | .take o => Sys2Proof.Machine.execTake o s
  | .ppt => Sys2Proof.Machine.execPpt s
  | .fres o => Sys2Proof.Machine.execFres o s
  | .frget o => Sys2Proof.Machine.execFrget o s
  | .enq o => Sys2Proof.Machine.execEnq o s
  | .refill o => Sys2Proof.Machine.execRefill o s
  | .waitq o => Sys2Proof.Machine.execWaitq o s
  | .trig => Sys2Proof.Machine.execTrig s
  | .waitdep => Sys2Proof.Machine.execWaitdep s
  | .sldg o => Sys2Proof.Machine.execSldg o s
  | .sstg o => Sys2Proof.Machine.execSstg o s
  | .sldc o => Sys2Proof.Machine.execSldc o s
  | .sstc o => Sys2Proof.Machine.execSstc o s
  | .sldf o => Sys2Proof.Machine.execSldf o s
  | .sstf o => Sys2Proof.Machine.execSstf o s
  | .sldd o => Sys2Proof.Machine.execSldd o s
  | .sstd o => Sys2Proof.Machine.execSstd o s
  | .satom o => Sys2Proof.Machine.execSatom o s
  | .scas o => Sys2Proof.Machine.execScas o s
  | .sxch o => Sys2Proof.Machine.execSxch o s
  | .bcdecAll o => Sys2Proof.Machine.execBcdecAll o s
  | .bcdecPart o => Sys2Proof.Machine.execBcdecPart o s
  | .bcinc o => Sys2Proof.Machine.execBcinc o s
  | .bcread o => Sys2Proof.Machine.execBcread o s
  | .bcset o => Sys2Proof.Machine.execBcset o s
  | .fence o => Sys2Proof.Machine.execFence o s
  | .ifence o => Sys2Proof.Machine.execIfence o s
  | .waitv o => Sys2Proof.Machine.execWaitv o s
  | .pfetch o => Sys2Proof.Machine.execPfetch o s
  | .repl o => Sys2Proof.Machine.execRepl o s
  | .bara o => Sys2Proof.Machine.execBara o s
  | .barw o => Sys2Proof.Machine.execBarw o s
  | .baraw o => Sys2Proof.Machine.execBaraw o s
  | .tbinit o => Sys2Proof.Machine.execTbinit o s
  | .tbarr o => Sys2Proof.Machine.execTbarr o s
  | .tbwait o => Sys2Proof.Machine.execTbwait o s
  | .waitt o => Sys2Proof.Machine.execWaitt o s
  | .cpy o => Sys2Proof.Machine.execCpy o s
  | .cpyt o => Sys2Proof.Machine.execCpyt o s
  | .mloop o => Sys2Proof.Machine.execMloop o s
  | .mld o => Sys2Proof.Machine.execMld o s
  | .mst o => Sys2Proof.Machine.execMst o s
  | .mzero o => Sys2Proof.Machine.execMzero o s
  | .mscl o => Sys2Proof.Machine.execMscl o s
  | .sysr o => Sys2Proof.Machine.execSysr o s
  | .sysw o => Sys2Proof.Machine.execSysw o s
  | .rmset o => Sys2Proof.Machine.execRmset o s
  | .prio o => Sys2Proof.Machine.execPrio o s
  | .trap o => Sys2Proof.Machine.execTrap o s
  | .brkpt o => Sys2Proof.Machine.execBrkpt o s
  | .eret o => Sys2Proof.Machine.execEret o s
  | .tctlState o => Sys2Proof.Machine.execTctlState o s
  | .tctlPark o => Sys2Proof.Machine.execTctlPark o s
  | .tctlResume o => Sys2Proof.Machine.execTctlResume o s
  | .tctlKill o => Sys2Proof.Machine.execTctlKill o s
  | .tctlAbort o => Sys2Proof.Machine.execTctlAbort o s
  | .tctlDbg o => Sys2Proof.Machine.execTctlDbg o s
  | .haltStop o => Sys2Proof.Machine.execHaltStop o s
  | .haltGo o => Sys2Proof.Machine.execHaltGo o s
  | .cancelLaunch o => Sys2Proof.Machine.execCancelLaunch o s
  | .cancelPhase o => Sys2Proof.Machine.execCancelPhase o s
  | .cancelJob o => Sys2Proof.Machine.execCancelJob o s
  | .impreciseFault tk => Sys2Proof.Machine.execImpreciseFault tk s
  | .satisfyLoad tk id piece grant => Sys2Proof.Machine.execSatisfyLoad tk id piece grant s
  | .replicaCollapse die line => Sys2Proof.Machine.execReplicaCollapse die line s
  | .leaseExpiry die line => Sys2Proof.Machine.execLeaseExpiry die line s
  | .leaveStoreQueue tk id => Sys2Proof.Machine.execLeaveStoreQueue tk id s
  | .perform core id => Sys2Proof.Machine.execPerform core id s
  | .atomicPerform tk id => Sys2Proof.Machine.execAtomicPerform tk id s
  | .fenceComplete tk id => Sys2Proof.Machine.execFenceComplete tk id s
  | .tlbWalk cluster asid obj gran => Sys2Proof.Machine.execTlbWalk cluster asid obj gran s
  | .gets core line => Sys2Proof.Machine.execGets core line s
  | .getx core line => Sys2Proof.Machine.execGetx core line s
  | .data core line => Sys2Proof.Machine.execData core line s
  | .down core line => Sys2Proof.Machine.execDown core line s
  | .recall core line => Sys2Proof.Machine.execRecall core line s
  | .tack core line => Sys2Proof.Machine.execTack core line s
  | .evict core line => Sys2Proof.Machine.execEvict core line s
  | .nack core line => Sys2Proof.Machine.execNack core line s
  | .pers core line write => Sys2Proof.Machine.execPers core line write s
  | .collapse die line => Sys2Proof.Machine.execCollapse die line s
  | .cack die line => Sys2Proof.Machine.execCack die line s
  | .fennelWindowEnd => Sys2Proof.Machine.execFennelWindowEnd s
  | .shortfallRequest elem die => Sys2Proof.Machine.execShortfallRequest elem die s
  | .counterGrant elem => Sys2Proof.Machine.execCounterGrant elem s
  | .counterRecall elem => Sys2Proof.Machine.execCounterRecall elem s
  | .recallAnswer elem die => Sys2Proof.Machine.execRecallAnswer elem die s
  | .forwardedBcinc elem die => Sys2Proof.Machine.execForwardedBcinc elem die s
  | .counterRecallTimeout elem die => Sys2Proof.Machine.execCounterRecallTimeout elem die s
  | .persistentRequestTimeout core line silent => Sys2Proof.Machine.execPersistentRequestTimeout core line silent s
  | .recallTimeout core line => Sys2Proof.Machine.execRecallTimeout core line s
  | .copyChunk core id => Sys2Proof.Machine.execCopyChunk core id s
  | .copyComplete core id => Sys2Proof.Machine.execCopyComplete core id s
  | .matrixStep core => Sys2Proof.Machine.execMatrixStep core s
  | .engineCommandComplete core => Sys2Proof.Machine.execEngineCommandComplete core s
  | .engineStarvationStart core copy => Sys2Proof.Machine.execEngineStarvationStart core copy s
  | .launchQueueDoorbell vf q tail => Sys2Proof.Machine.execLaunchQueueDoorbell vf q tail s
  | .eventHeadDoorbell vf q head => Sys2Proof.Machine.execEventHeadDoorbell vf q head s
  | .adminDoorbell cmds => Sys2Proof.Machine.execAdminDoorbell cmds s
  | .launchPacketRead vf q => Sys2Proof.Machine.execLaunchPacketRead vf q s
  | .fleetPlacement launch => Sys2Proof.Machine.execFleetPlacement launch s
  | .launchReservation launch => Sys2Proof.Machine.execLaunchReservation launch s
  | .teamLeavesSlot tk => Sys2Proof.Machine.execTeamLeavesSlot tk s
  | .itemsEnterList tk id => Sys2Proof.Machine.execItemsEnterList tk id s
  | .itemQueueFill core launch list => Sys2Proof.Machine.execItemQueueFill core launch list s
  | .itemReturn core launch list => Sys2Proof.Machine.execItemReturn core launch list s
  | .sageQuiescence launch => Sys2Proof.Machine.execSageQuiescence launch s
  | .waitReturn tk => Sys2Proof.Machine.execWaitReturn tk s
  | .waitvTest tk grant => Sys2Proof.Machine.execWaitvTest tk grant s
  | .heartbeatTick => Sys2Proof.Machine.execHeartbeatTick s
  | .deterministicHeartbeat tk => Sys2Proof.Machine.execDeterministicHeartbeat tk s
  | .floorDue slice => Sys2Proof.Machine.execFloorDue slice s
  | .preemption tk => Sys2Proof.Machine.execPreemption tk s
  | .restore tk slice => Sys2Proof.Machine.execRestore tk slice s
  | .clusterPowerGate cluster => Sys2Proof.Machine.execClusterPowerGate cluster s
  | .clusterWake cluster => Sys2Proof.Machine.execClusterWake cluster s
  | .stackTemperatureSample temps dieTemps => Sys2Proof.Machine.execStackTemperatureSample temps dieTemps s
  | .thermalLimitStep stack => Sys2Proof.Machine.execThermalLimitStep stack s
  | .hotGranuleMigration asid obj gran dst => Sys2Proof.Machine.execHotGranuleMigration asid obj gran dst s
  | .migrationSwap src => Sys2Proof.Machine.execMigrationSwap src s
  | .coolantFlowLow => Sys2Proof.Machine.execCoolantFlowLow s
  | .t2SelfRefreshEnd => Sys2Proof.Machine.execT2SelfRefreshEnd s
  | .railCurrentSample amps millivolts => Sys2Proof.Machine.execRailCurrentSample amps millivolts s
  | .currentLimitStep die => Sys2Proof.Machine.execCurrentLimitStep die s
  | .coreRailRestore die => Sys2Proof.Machine.execCoreRailRestore die s
  | .correctedError site => Sys2Proof.Machine.execCorrectedError site s
  | .spareSwap row => Sys2Proof.Machine.execSpareSwap row s
  | .uncorrectableError unit => Sys2Proof.Machine.execUncorrectableError unit s
  | .regfileError tk detail lane => Sys2Proof.Machine.execRegfileError tk detail lane s
  | .dieThymeDeparture die => Sys2Proof.Machine.execDieThymeDeparture die s
  | .thymeResync die => Sys2Proof.Machine.execThymeResync die s
  | .moduleThymeDeparture => Sys2Proof.Machine.execModuleThymeDeparture s
  | .watchdogWaitlim tk => Sys2Proof.Machine.execWatchdogWaitlim tk s
  | .watchdogRunlim launch => Sys2Proof.Machine.execWatchdogRunlim launch s
  | .deadlockDetection launch => Sys2Proof.Machine.execDeadlockDetection launch s
  | .translationInvalidationComplete asid obj => Sys2Proof.Machine.execTranslationInvalidationComplete asid obj s
  | .hostBar2Write vf off data poisoned => Sys2Proof.Machine.execHostBar2Write vf off data poisoned s
  | .hostBar2Read vf off n => Sys2Proof.Machine.execHostBar2Read vf off n s
  | .pcreate => Sys2Proof.Machine.execPcreate s
  | .presize => Sys2Proof.Machine.execPresize s
  | .presizeTimeout vf => Sys2Proof.Machine.execPresizeTimeout vf s
  | .preset => Sys2Proof.Machine.execPreset s
  | .pdestroy => Sys2Proof.Machine.execPdestroy s
  | .pools => Sys2Proof.Machine.execPools s
  | .setlease => Sys2Proof.Machine.execSetlease s
  | .sethbi => Sys2Proof.Machine.execSethbi s
  | .setwdog => Sys2Proof.Machine.execSetwdog s
  | .qcreate => Sys2Proof.Machine.execQcreate s
  | .qdestroy => Sys2Proof.Machine.execQdestroy s
  | .otset => Sys2Proof.Machine.execOtset s
  | .tinval => Sys2Proof.Machine.execTinval s
  | .gang => Sys2Proof.Machine.execGang s
  | .stread data => Sys2Proof.Machine.execStread data s
  | .stwrite ok => Sys2Proof.Machine.execStwrite ok s
  | .hostcpy data => Sys2Proof.Machine.execHostcpy data s
  | .adminCompletion => Sys2Proof.Machine.execAdminCompletion s
  | .arm gang member => Sys2Proof.Machine.execArm gang member s
  | .go gang t0 => Sys2Proof.Machine.execGo gang t0 s
  | .gangStart gang => Sys2Proof.Machine.execGangStart gang s
  | .abort gang member => Sys2Proof.Machine.execAbort gang member s
  | .gangMemberCompletion gang member => Sys2Proof.Machine.execGangMemberCompletion gang member s
  | .gangTimerExpiry gang => Sys2Proof.Machine.execGangTimerExpiry gang s
  | .eagerGangTimeout gang => Sys2Proof.Machine.execEagerGangTimeout gang s
  | .remoteRequest r => Sys2Proof.Machine.execRemoteRequest r s
  | .remoteReply id a => Sys2Proof.Machine.execRemoteReply id a s
  | .remoteNoRoute id => Sys2Proof.Machine.execRemoteNoRoute id s
  | .flitRetry port ok => Sys2Proof.Machine.execFlitRetry port ok s
  | .pcieLinkDown => Sys2Proof.Machine.execPcieLinkDown s
  | .pcieLinkUp => Sys2Proof.Machine.execPcieLinkUp s
  | .hotReset => Sys2Proof.Machine.execHotReset s
  | .pfFunctionLevelReset => Sys2Proof.Machine.execPfFunctionLevelReset s
  | .vfFunctionLevelReset vf => Sys2Proof.Machine.execVfFunctionLevelReset vf s
  | .boot image => Sys2Proof.Machine.execBoot image s
  | .recoveryRetry image => Sys2Proof.Machine.execRecoveryRetry image s
  | .getVersion => Sys2Proof.Machine.execGetVersion s
  | .getCapabilities => Sys2Proof.Machine.execGetCapabilities s
  | .negotiateAlgorithms offered => Sys2Proof.Machine.execNegotiateAlgorithms offered s
  | .getDigests => Sys2Proof.Machine.execGetDigests s
  | .getCertificate off len => Sys2Proof.Machine.execGetCertificate off len s
  | .challenge nonce => Sys2Proof.Machine.execChallenge nonce s
  | .getMeasurements => Sys2Proof.Machine.execGetMeasurements s
  | .redfishRequest item => Sys2Proof.Machine.execRedfishRequest item s
  | .allowanceRefill => Sys2Proof.Machine.execAllowanceRefill s
  | .moduleThymeResync => Sys2Proof.Machine.execModuleThymeResync s
  | .routesRecomputed reach => Sys2Proof.Machine.execRoutesRecomputed reach s

end Sys2Proof.Machine
end

