-- ==== Sys2Proof/Machine/Issue.lean ====
section
/-! DEFINITION. Issuing one instruction of a team: what stands around its meaning (09 R148, R150, R152, R153; 10 R175, R178; 22
R320, R328, R329, R332; 09 R160), and the moves of instruction caches (06 R97). Step.lean calls these. -/

namespace Sys2Proof.Machine

/-- The lanes of the instruction about to issue: those of a replay at its place (R329). -/
def Team.issueLanes (t : Team) : Option Mask := t.replay.head?.bind fun r => if r.pc = t.pc then r.lanes else none

/-- The port on which a team may issue: the one it holds, or the first free one; a deterministic team uses port 0 (R158). -/
def State.portOf (s : State) (t : Team) : Option Nat :=
  let x := s.slice t.slice
  if x.p0.run = some t.tk then some 0
  else if x.p1.run = some t.tk then some 1
  else if x.p0.run.isNone then some 0
  else if x.p1.run.isNone && !s.isDet t then some 1
  else none

/-- The port is free or holds this team's run, and no other protected run holds the team back (R150). -/
def Slice.admits (x : Slice) (t : Team) (port : Nat) : Bool :=
  let run := if port = 0 then x.p0.run else x.p1.run
  (run.isNone || run == some t.tk)
    && !(t.forced && (x.p0.prot || x.p1.prot) && x.p0.run != some t.tk && x.p1.run != some t.tk)

/-- A proposed issue takes place: the team is eligible, its port admits it, and it is floor-due or not withheld (R147, R150, R153). -/
def State.mayIssue (s : State) (t : Team) (port : Nat) : Bool :=
  s.eligible t && (s.slice t.slice).admits t port && (t.floorDue || !s.withheld t)

/-- A team of a slice has issued on a port: the rotation starts behind the last team issued, in port order (R148). -/
def Slice.pass (x : Slice) (port slot : Nat) : Slice :=
  if port = 0 then (if x.second then x else { x with ptr := (slot + 1) % 16 }) else { x with ptr := (slot + 1) % 16, second := true }

/-- An issue begins: its cost is charged, its floor count starts anew, the slice's rotation passes it, its fetch shows what a load would
(R245), and it is the instruction that runs. -/
def State.begin (s : State) (t : Team) (w : Word) (port : Nat) : State :=
  let s1 := (s.chargeCore t.core (s.nextCost t)).putTeam ({ t with floor := 0 }.see (s.fetchSeen t))
  { (s1.modSlice t.slice fun x => x.pass port t.slot) with cur := some ⟨t.tk, w, t.issueLanes⟩ }

/-- A replay ends with the instruction at which it ends (R329); the team goes on where its fault had met it, in its wait too. -/
def Team.afterReplay (t : Team) (pc : QWord) (thyme : Nat) : Team :=
  match t.replay with
  | r :: rest =>
    if r.pc = pc ∧ t.park.isNone then
      { t with replay := rest, pc := r.cont.getD t.pc, wait := if r.wait.isSome then r.wait.map fun w => { w with since := thyme } else t.wait }
    else t
  | [] => t

/-- The port of a team whose latch run is open, or that has ended its run. -/
def Slice.hold (x : Slice) (tk port : Nat) (open_ forced : Bool) : Slice :=
  let free (p : Port) : Port := if p.run = some tk then ⟨none, false⟩ else p
  let y := { x with p0 := free x.p0, p1 := free x.p1 }
  if !open_ then y
  else
    let p : Port := ⟨some tk, forced && !y.p0.prot && !y.p1.prot⟩
    if port = 0 then { y with p0 := p } else { y with p1 := p }

/-- What follows a meaning: latch runs and ports, the end of a replay, the turn of a deterministic team, a park that waits for
the boundary. t is the team before it issued and i its instruction. -/
def State.after (s0 : State) (t : Team) (i : Instr) (port : Nat) : State :=
  let s : State := { s0 with cur := none }
  match s.team? t.tk with
  | none => s
  | some u0 =>
    if u0.ended || u0.park.isSome || u0.saved.isSome || u0.clock == t.clock then s.settlePark t.tk
    else
      let u := u0.afterReplay t.pc s.thyme
      let s1 := s.putTeam u
      let run := s1.inRun u
      let goes := i.readsLatch && t.runStart.isSome
      let s2 := s1.putTeam { u with
        runStart := if run then (if goes then t.runStart else some t.pc) else none
        runClock := if goes then t.runClock else t.clock
        forced := u.forced && run }
      let s3 := s2.modSlice t.slice fun x => x.hold t.tk port run u.forced
      let s4 := if s3.isDet u && !run then s3.endTurn t.tk else s3
      s4.settlePark t.tk

/-- The fault of a word that does not decode (R328). -/
def illegal (e : DecErr) : FInfo := ⟨0x01, e.detail, 0, qn e.aux⟩

/-- What a team fetches at its PC. -/
inductive Fetched where
  | bad (f : FInfo)
  | word (w : Word) (i : Except DecErr Instr)

def State.fetched (s : State) (t : Team) : Fetched :=
  match s.fetchWord t t.pc with
  | .error f => .bad f
  | .ok w => .word w (decodeWord w)

/-- A fetch that fails, or a word that does not decode, parks the team. -/
def State.issueFault (s : State) (t : Team) (w : Word) (f : FInfo) (port : Nat) : State :=
  { ((s.begin t w port).fault { t with floor := 0 } f) with cur := none }

/-! ## Instruction caches (R97) -/

/-- A core takes a copy of the word at a team's PC; its 128 KiB hold 32,768 words, and a full cache drops one (R12; DESIGN CHOICE, assumption
29). -/
def State.fillWord (s : State) (tk : Nat) : State :=
  match s.team? tk with
  | none => s
  | some t =>
    match s.fetchLoc t t.pc, s.fetchWord t t.pc with
    | .ok [p], .ok w => s.modCore t.core fun c =>
        { c with icache := Tbl.set (if c.icache.length < 32768 then c.icache else c.icache.drop 1) p.loc w }
    | _, _ => s

/-- A core drops a copy. -/
def State.dropWord (s : State) (core loc : Nat) : State := s.modCore core fun c => { c with icache := Tbl.del c.icache loc }

end Sys2Proof.Machine
end

