-- ==== Sys2Proof/Machine/Policy.lean ====
section
/-! DEFINITION. The order in which the machine takes its steps when its agenda names none (DESIGN CHOICE, assumption 1). The spec leaves this
order free; an agenda can ask for any other. Each rule names the first step of its kind that is due or enabled. -/

namespace Sys2Proof.Machine

/-- A step with its operands. -/
abbrev Run := State → Result

/-- The first answer of a list of questions. -/
def firstOf : List (Unit → Option Run) → Option Run
  | [] => none
  | f :: r =>
    match f () with
    | some i => some i
    | none => firstOf r

/-- Teams with their keys. -/
def State.findTeam (s : State) (f : Team → Option Run) : Option Run := s.teams.findSome? fun e => f e.2

def State.findPart (s : State) (f : Nat → Part → Option Run) : Option Run := s.parts.findSome? fun e => f e.1 e.2

def State.findLaunch (s : State) (f : Nat → Launch → Option Run) : Option Run := s.launches.findSome? fun e => f e.1 e.2

def offer (b : Bool) (i : Run) : Option Run := if b then some i else none

/-- A step that would change the state. -/
def State.useful (s : State) (f : Run) : Bool :=
  match f s with
  | .next s1 => decide (s1 ≠ s)
  | _ => true

/-! ## Steps whose time has come -/

/-- The cores of a die whose REFILL a CURRENT_LIMIT_STEP would move, or the response of the die that it would change. -/
def State.refillDue (s : State) (d : Nat) : Bool :=
  let x := s.die d
  let on := x.limits (s.amps.getD d 0)
  let moves (r : Nat) : Bool := nextRefill on (s.refillTop d) r != r
  decide (x.next ≤ s.thyme) && (on != x.limiting || moves Core.reset.refill || s.cores.any fun c => coreDie c.1 == d && moves c.2.refill)

/-- A module tick is due. -/
def State.tickDue (s : State) : Bool := decide (s.nextTick ≤ s.thyme)

/-- Steps that fall at a Thyme of their own, and whose Thyme has come: none of them lets another core cycle begin before it. -/
def State.dueNow (s : State) : Option Run :=
  firstOf [
    fun _ => offer s.tickDue execHeartbeatTick,
    fun _ => offer (decide ((s.window + 1) * 10000 ≤ s.thyme)) execFennelWindowEnd,
    fun _ => (s.replicas.find? fun e => decide (e.2.exp ≤ s.thyme)).map fun e => execLeaseExpiry (e.1 / 2 ^ 40) (e.1 % 2 ^ 40),
    fun _ => s.findTeam fun t =>
      match t.wait, s.part? t.vf with
      | some w, some p =>
        offer (p.waitlim != 0 && t.running && decide (p.waitlim * 1000 ≤ w.spent + (s.thyme - w.since))) (execWatchdogWaitlim t.tk)
      | _, _ => none,
    fun _ => s.findLaunch fun u l =>
      match l.placedAt, s.part? l.vf with
      | some at_, some p =>
        offer (p.runlim != 0 && !l.done && decide (at_ + p.runlim * 1000000 ≤ s.thyme)
          && s.teams.any fun e => e.2.launch == u && e.2.running && !e.2.rlFired) (execWatchdogRunlim u)
      | _, _ => none,
    fun _ => s.findPart fun vf p =>
      match s.lateTop vf with
      | some (u, _) => offer (p.reserve != some u) (execLaunchReservation u)
      | none => none,
    fun _ => ((List.range 32).find? fun k => let x := s.stack k; decide (x.next ≤ s.thyme) && x.nextLimit != x.limit).map execThermalLimitStep,
    fun _ => ((List.range 8).find? s.refillDue).map execCurrentLimitStep,
    fun _ =>
      if s.thyme < 50000 then none
      else ((List.range 96).find? fun c =>
        let x := s.cluster c
        !x.gated && !x.waking && decide (x.idle + 50000 ≤ s.thyme) && !s.clusterBusy c).map execClusterPowerGate,
    fun _ => s.gangs.findSome? fun e =>
      let g := e.2
      if g.count = 0 ∨ g.closed ∨ g.go.isSome then none
      else if g.member = 0 then offer (decide (g.at_ + 10000000 ≤ s.thyme) && g.missing.isSome) (execGangTimerExpiry e.1)
      else offer (g.eager && g.armed && decide (g.armAt + 20000000 ≤ s.thyme)) (execEagerGangTimeout e.1),
    fun _ => s.findPart fun vf p =>
      match p.resize with
      | some (_, m, t0) => offer (decide (t0 + 1000000000 ≤ s.thyme) && !s.resizeClear vf p m) (execPresizeTimeout vf)
      | none => none,
    fun _ => s.dies.findSome? fun e =>
      match e.2.tripAt with
      | some t => offer (e.2.off && !e.2.lost && s.up && decide (t + 1000000 ≤ s.thyme)) (execCoreRailRestore e.1)
      | none => none,
    fun _ => offer (match s.refresh with | some t => decide (t ≤ s.thyme) | none => false) execT2SelfRefreshEnd]

/-- Steps that a bound of Thyme asks for. -/
def State.dueTime (s : State) : Option Run :=
  firstOf [
    fun _ => s.dueNow,
    fun _ => s.findLaunch fun u l =>
      offer (match l.dead with | some d => decide (d + 100000 ≤ s.thyme) && s.stuck u | none => false) (execDeadlockDetection u),
    fun _ => (s.clusters.find? fun e => e.2.waking).map fun e => execClusterWake e.1,
    fun _ => offer s.routing fun s => execRoutesRecomputed (Config.routesAfter s.free) { s with free := s.free + 1 },
    fun _ => (s.resets.find? fun vf => match s.part? vf with | some p => s.railsUp p && !s.awayBusy vf | none => false).map execVfFunctionLevelReset]

/-! ## Steps of teams and their accesses -/

/-- What the token protocol brings to cores. -/
def State.dueData (s : State) : Option Run :=
  s.msgs.findSome? fun m =>
    match m with
    | .data _ c l _ _ => some (execData c l)
    | .nack _ c l => some (execNack c l)
    | _ => none

/-- Other messages of the token protocol that can be delivered. -/
def State.dueMsg (s : State) : Option Run :=
  s.msgs.findSome? fun m =>
    match m with
    | .data .. | .nack .. => none
    | .gets _ c l => some (execGets c l)
    | .getx _ c l => some (execGetx c l)
    | .pers _ c l w _ => some (execPers c l w)
    | .evict _ c l _ _ => some (execEvict c l)
    | .down _ c l => offer (s.coming c l == 0) (execDown c l)
    | .recall _ c l _ => offer (s.coming c l == 0) (execRecall c l)
    | .tack _ c l _ _ => some (execTack c l)
    | .collapse d l => offer (s.dir d l).opened.isNone (execCollapse d l)
    | .cack d l => some (execCack d l)

/-- What an entry of a team's store queue can do now. -/
def State.sqRun (s : State) (t : Team) (e : SqEntry) : Option Run :=
  if !s.mayLeave t e fun _ => false then none
  else
    match e.op with
    | .store _ =>
      if isBank e.loc then
        offer (!s.writeFrozen e.loc && s.bankFree e.base e.dest.pass e.loc e.len
          && ((s.lostIn e.loc e.len).isEmpty || s.useful (execLeaveStoreQueue t.tk e.id))) (execLeaveStoreQueue t.tk e.id)
      else some (execLeaveStoreQueue t.tk e.id)
    | .enq _ items =>
      offer (((s.launch? t.launch).map Launch.cancel).getD false || decide (s.itemsHeld t.vf + items.length ≤ s.listRoom t.vf))
        (execItemsEnterList t.tk e.id)
    | .trig => some (execAtomicPerform t.tk e.id)
    | .arrive _ => some (execAtomicPerform t.tk e.id)
    | .ctr k _ => offer (!s.ctrWaits k t.tk e.id && s.cvClear t.core e.loc e.len && !s.writeFrozen e.loc) (execAtomicPerform t.tk e.id)
    | _ =>
      if e.space = .remote then offer (!s.remoteWaits t.tk e.id) (execAtomicPerform t.tk e.id)
      else offer (s.cvClear t.core e.loc e.len && !s.writeFrozen e.loc && s.bankFree e.base e.dest.pass e.loc e.len
        && s.mayAtomic t.core e.home e.loc) (execAtomicPerform t.tk e.id)

/-- An entry of a team's store queue that can act. -/
def State.dueSq (s : State) (t : Team) : Option Run := t.sq.findSome? (s.sqRun t)

/-- A piece of a load that R87 lets be satisfied, as far as tokens and banks go along. -/
def State.duePiece (s : State) (t : Team) (e : TqEntry) (ps : List Piece) (tokens : Bool) : Option Nat :=
  (List.range ps.length).find? fun i =>
    match ps[i]? with
    | some p => t.loadReady e.id e.base p.loc p.len && s.bankFree e.base e.dest.pass p.loc p.len && (e.lane || s.mayRead t e.id p) == tokens
    | none => false

/-- An entry of a team's queue of loads and fences that can act. -/
def State.dueTq (s : State) (t : Team) : Option Run :=
  t.tq.findSome? fun e =>
    match e.op with
    | .fence sc => offer (s.releaseOk t e.id sc) (execFenceComplete t.tk e.id)
    | .load ps _ => (s.duePiece t e ps true).map fun i => execSatisfyLoad t.tk e.id i true

/-- A store of a core view that can be performed. -/
def State.dueCv (s : State) : Option Run :=
  s.cvs.findSome? fun c =>
    (c.2.find? fun e => !s.writeFrozen e.loc && cvFirst c.2 e (fun _ => false) && (e.lane || s.mayWrite c.1 e.home e.loc e.len)
      && ((s.lostIn e.loc e.len).isEmpty || s.useful (execPerform c.1 e.id))).map fun e => execPerform c.1 e.id

/-- A wait whose test does something, or the turn of a waiting team. -/
def State.dueWait (s : State) (t : Team) : Option Run :=
  match t.wait with
  | none => none
  | some w =>
    if !t.running || !s.mayAct t || !s.mayTest t w true then none
    else
      let back := s.isDet t || s.waitActs t w
      match w.on with
      | .memw .. => offer back (execWaitvTest t.tk true)
      | _ => offer back (execWaitReturn t.tk)

def State.dueTeam (s : State) : Option Run :=
  firstOf [
    fun _ => s.findTeam fun t => offer (t.running && t.lateFirst.isSome) (execImpreciseFault t.tk),
    fun _ => s.findTeam fun t => offer (s.detDue t) (execDeterministicHeartbeat t.tk),
    fun _ => s.findTeam s.dueTq,
    fun _ => s.findTeam s.dueSq,
    fun _ => s.dueCv]

/-- Ask for the tokens that an access needs: GETS or GETX, after two NACKs PERS (R105, R110). -/
def State.askFor (s : State) (core line : Nat) (write : Bool) : Option Run :=
  if !s.mayAsk core line then none
  else if 2 ≤ Tbl.getD (s.dir (coreDie core) line).nacks core 0 then some (execPers core line write)
  else some (if write then execGetx core line else execGets core line)

/-- A token home is to gather every token of a line: what comes from outside its die's cores waits for that (R105, R113). -/
def State.gatherAt (s : State) (die line : Nat) : Option Run :=
  let d := s.dir die line
  offer (d.opened.isNone && (d.mode == 3 || d.htok != 64)) fun s => .next (s.leaveSlice die line)

/-- What lets a piece that tokens hold back be read. -/
def State.askRead (s : State) (t : Team) (p : Piece) : Option Run :=
  let line := p.loc / 128
  if t.die ≠ l2Die p.home ∧ (s.replica? t.die line).isNone then s.gatherAt (l2Die p.home) line else s.askFor t.core line false

/-- What lets a core write a piece, or act on it, that tokens hold back: its own die's tokens first, then those of the line's home. -/
def State.askWrite (s : State) (core home line : Nat) : Option Run :=
  let die := coreDie core
  if die = l2Die home ∨ !s.dieClear die line then s.askFor core line true else s.gatherAt (l2Die home) line

/-- What lets the streamer read or write a piece that tokens hold back. -/
def State.askCopy (s : State) (core : Nat) (c : Copy) : Option Run :=
  let far (p : Piece) : Option Run := p.lines.findSome? fun l =>
    if s.homeClear p.home l then (if s.dieClear (coreDie core) l then none else s.gatherAt (coreDie core) l) else s.gatherAt (l2Die p.home) l
  let reads := c.reads.filter fun r => decide (r.at_ < c.begun) && !s.homeReads r.p
  let puts := c.puts.filter fun w => decide (w.at_ < c.begun) && !s.homeWrites (coreDie core) w.p
  (reads ++ puts).findSome? fun x => far x.p

/-- Accesses that tokens hold back. -/
def State.dueAsk (s : State) : Option Run :=
  firstOf [
    fun _ => s.findTeam fun t => t.tq.findSome? fun e =>
      match e.op with
      | .fence _ => none
      | .load ps _ => (s.duePiece t e ps false).bind fun i => (ps[i]?).bind (s.askRead t),
    fun _ => s.cvs.findSome? fun c => c.2.findSome? fun e =>
      if e.lane || s.mayWrite c.1 e.home e.loc e.len then none else s.askWrite c.1 e.home (e.loc / 128),
    fun _ => s.findTeam fun t => t.sq.findSome? fun e =>
      if e.op.isAtomic && e.space == .global && s.mayLeave t e (fun _ => false) && !s.mayAtomic t.core e.home e.loc then
        s.askWrite t.core e.home (e.loc / 128)
      else none,
    fun _ => s.findTeam fun t =>
      if !t.running || !s.mayAct t then none
      else
        match (s.wantReads t).find? fun p => !s.mayRead t s.nextId p with
        | some p => s.askRead t p
        | none => ((s.wantWrites t).find? fun p => !s.mayAtomic t.core p.home p.loc).bind fun p => s.askWrite t.core p.home (p.loc / 128),
    fun _ => s.cores.findSome? fun c => c.2.copies.findSome? (s.askCopy c.1)]

/-- Counters (R122 to R124, R351, R352). -/
def State.dueElem (s : State) : Option Run :=
  s.elems.findSome? fun e =>
    let k := e.1
    let x := e.2
    let ds := s.elemDies x
    firstOf [
      fun _ => match x.recallOf with
        | some r => (ds.find? fun d => !r.answered.contains d).map fun d => execRecallAnswer k d
        | none => none,
      fun _ => ds.findSome? fun d =>
        match x.queue d with
        | r :: _ =>
          match r.op with
          | .inc n => offer (!x.behind d && !x.lost && (x.held d || decide (ctrCap ds.length < x.allow d + n))) (execForwardedBcinc k d)
          | _ => offer (!x.held d && !x.behind d && !x.lost && decide (x.allow d < r.op.amount)) (execShortfallRequest k d)
        | [] => none,
      fun _ => match x.asked with
        | a :: _ => offer (x.recallOf.isNone && x.hq.isEmpty && !x.lost && decide (a.2 ≤ x.reserve)) (execCounterGrant k)
        | [] => none,
      fun _ => offer (x.recallOf.isNone && (!x.hq.isEmpty || x.asked.any fun a => decide (x.reserve < a.2))) (execCounterRecall k)]

/-- Engines. -/
def State.dueEngine (s : State) : Option Run :=
  s.cores.findSome? fun c =>
    let k := c.2
    firstOf [
      fun _ => k.copies.findSome? fun x =>
        match s.copyMove c.1 x, s.team? x.tk with
        | some f, _ => some fun s => .next (f s)
        | none, none => none
        | none, some t =>
          if s.copyOver t x then some (execCopyComplete c.1 x.id)
          else offer (s.partReady c.1 t x && (x.starve || k.admits (s.enginePrio x.tk x.prio) (k.cost 7))) (execCopyChunk c.1 x.id),
      fun _ => match k.mats with
        | [] => none
        | m :: _ =>
          if m.fail || decide (m.op.steps ≤ m.step) then some (execEngineCommandComplete c.1)
          else
            match s.team? m.tk with
            | none => none
            | some t =>
              offer (s.matReady c.1 t m && (!m.op.isLoop || m.starve || k.admits (s.enginePrio m.tk m.prio) (k.cost 6))) (execMatrixStep c.1)]

/-- What a unit does in this core cycle because its rate says so: a bank serves what waits for it, and an engine that is not held back
takes its step (R12, R13, R80, R377). -/
def State.unitsDue (s : State) : Bool :=
  let bank (loc : Nat) : Bool := (bankCore loc).isSome
  s.teams.any (fun e =>
      e.2.tq.any (fun x => match x.op with | .load ps _ => ps.any (fun p => bank p.loc) && (s.duePiece e.2 x ps true).isSome | .fence _ => false)
        || e.2.sq.any fun x => bank x.loc && (s.sqRun e.2 x).isSome)
    || s.cores.any fun c =>
        c.2.copies.any (fun x => (s.copyMove c.1 x).isSome
            || ((s.team? x.tk).map fun t => s.partReady c.1 t x && (x.starve || c.2.admits (s.enginePrio x.tk x.prio) (c.2.cost 7))).getD false)
          || match c.2.mats.head? with
            | some m => ((s.team? m.tk).map fun t =>
                s.matReady c.1 t m && (!m.op.isLoop || m.starve || c.2.admits (s.enginePrio m.tk m.prio) (c.2.cost 6))).getD false
            | none => false

/-- Engine commands that have started nothing for 512 cycles (R154). -/
def State.dueStarve (s : State) : Option Run :=
  s.cores.findSome? fun c =>
    firstOf [
      fun _ => offer (c.2.copies.any (s.copyLate c.1)) (execEngineStarvationStart c.1 true),
      fun _ => offer (c.2.mats.head?.any (s.matLate c.1)) (execEngineStarvationStart c.1 false)]

/-! ## Work -/

/-- Whether the ring entry at HEAD can be read (DEDUCED, assumption 46). -/
def State.entryReadable (s : State) (vf : Nat) (k : Queue) : Bool :=
  match s.readHandle k.asid vf (mkHandle (hObj k.base) (hOff k.base + 128 * (k.head % k.size))) 128 with
  | .error _ => false
  | .ok _ => true

/-- A deterministic team whose promotion waits for a slice alone (assumption 56). -/
def State.slotWanted (s : State) : Option Team :=
  (s.teams.map (·.2)).find? fun t =>
    t.pending && t.running && s.isDet t && s.mayAct t && (s.roomFor t).isNone && (s.oldest t).isSome
      && (match s.launch? t.launch with
          | some l => !l.cancel && s.ownRoom t l && (s.freeStack t.vf l.fsfr).isSome && (s.freeRegion t.vf t.lanes).isSome
          | none => false)

/-- A team of the same launch that is saved to make room for it. -/
def State.slotGiver (s : State) : Option Team :=
  s.slotWanted.bind fun t => (s.teams.map (·.2)).find? fun u =>
    u.tk != t.tk && u.launch == t.launch && u.saved.isNone && !u.ended && !(u.park.isNone && s.inRun u)

/-- The first granule of a partition to which a granule may move (R156, R353). -/
def State.moveTarget (s : State) (vf src : Nat) (p : Part) : Option Nat :=
  (p.blocks.filter fun b => s.worn src || s.coolTo vf b.1).findSome? fun b =>
    ((List.range b.2).find? fun k => s.mayMigrate vf src (b.1 + k)).map (b.1 + ·)

/-- A move that the migration engine begins: of the hottest granule of a Warm or Hot stack, or of one with a worn row (R156, R353). -/
def State.dueMigration (s : State) : Option Run :=
  s.grans.findSome? fun e =>
    let hot := match stackOf e.1 with | some k => decide (1 ≤ (s.stack k).heat) | none => false
    if !hot && !s.worn e.1 then none
    else
      (s.parts.find? fun p => s.ownsGran p.1 e.1).bind fun p =>
        (s.moveTarget p.1 e.1 p.2).bind fun dst =>
          ((s.mappings p.1 e.1).head?).map fun m => execHotGranuleMigration m.1 m.2.1 m.2.2.1 dst

/-- Items, ends of teams, packets, placement, teams to be saved and restored, moves of memory, administration. -/
def State.dueWork (s : State) : Option Run :=
  firstOf [
    fun _ => s.findTeam fun t => offer (s.mayLeaveSlot t) (execTeamLeavesSlot t.tk),
    fun _ => s.findTeam fun t =>
      match t.named with
      | some l =>
        offer (t.running && !s.isDet t && (s.core t.core).items.length < 1024
          && !(((s.launch? t.launch).map fun x => Tbl.getD x.lists l []).getD []).isEmpty) (execItemQueueFill t.core t.launch l)
      | none => none,
    fun _ => s.cores.findSome? fun c => (c.2.items.find? fun i => !s.names c.1 i.1 i.2.1).map fun i => execItemReturn c.1 i.1 i.2.1,
    fun _ => s.findLaunch fun u l => offer (!l.quiet && l.nlists != 0 && !l.done && s.quiescent u l) (execSageQuiescence u),
    fun _ => s.findTeam fun t =>
      let d := s.die t.die
      offer (t.saved.isNone && !t.ended && (s.retired.contains t.slice || d.off) && !(s.isDet t && t.park.isNone && s.inRun t)) (execPreemption t.tk),
    fun _ => s.findPart fun vf p =>
      if !s.up then none
      else (p.queues.find? fun e => e.2.waiting.isNone && e.2.head != e.2.tail && s.entryReadable vf e.2).map fun e => execLaunchPacketRead vf e.1,
    fun _ => s.findLaunch fun u l =>
      match l.gang.bind fun k => Tbl.get? s.gangs k with
      | some g => offer (!l.done && !l.cancel && !l.placed && !g.armed && !g.closed && g.count != 0
          && !(s.armGang u l).gangs.all fun e => !(e.1 == g.number && e.2.armed)) (execFleetPlacement u)
      | none => none,
    fun _ => s.findPart fun vf _ =>
      match s.nextPlacement vf with
      | some (u, s1) => offer ((s.wakes s1).all fun c => !(s.cluster c).waking) (execFleetPlacement u)
      | none => none,
    fun _ => s.slotGiver.map fun t => execPreemption t.tk,
    fun _ => s.findTeam fun t =>
      if t.saved.isSome && !t.ended && (s.slotWanted.map Team.launch) != some t.launch then (s.restoreSlice t).map fun sl => execRestore t.tk sl
      else none,
    fun _ => s.moves.head?.map fun m =>
      match m with
      | .row r => execSpareSwap r
      | .gran _ src _ => execMigrationSwap src,
    fun _ => s.dueMigration,
    fun _ => match s.parts.find? fun e => e.2.resize.isSome with
      | some (vf, p) =>
        match p.resize with
        | some (_, m, _) =>
          offer (s.resizeClear vf p m
            && (s.teams.any (fun e => e.2.vf == vf && e.2.saved.isNone && !e.2.ended && !(s.isDet e.2 && s.inRun e.2)) || s.resizeQuiet vf p)) execPresize
        | none => none
      | none => none,
    fun _ => s.jobs.findSome? fun j =>
      match j with
      | .tinval _ _ a o => offer (s.drained a o) (execTranslationInvalidationComplete a o)
      | .done _ _ _ => some execAdminCompletion
      | .stread _ vf a h n => offer (s.rangeComplete a vf h n) execAdminCompletion
      | .presize _ _ => none,
    fun _ => if !s.adminOpen || !s.jobs.isEmpty then none
      else
        match s.ring with
        | [] => none
        | (_, c) :: _ =>
          match c with
          | .pcreate _ _ _ => some execPcreate
          | .presize _ _ => some execPresize
          | .preset _ => offer (s.useful execPreset) execPreset
          | .pdestroy _ => offer (s.useful execPdestroy) execPdestroy
          | .pools _ _ _ _ _ _ _ => some execPools
          | .setlease _ _ => some execSetlease
          | .sethbi _ => some execSethbi
          | .setwdog _ _ _ => some execSetwdog
          | .qcreate _ _ _ _ _ _ _ _ _ => some execQcreate
          | .qdestroy _ _ => some execQdestroy
          | .otset _ _ _ _ => some execOtset
          | .tinval _ _ _ => some execTinval
          | .gang _ _ _ _ _ _ _ _ => some execGang
          | .hostcpy _ _ _ _ toHost => offer toHost (execHostcpy none)
          -- what comes from outside the module comes through the agenda
          | .stread _ _ _ _ _ => none
          | .stwrite _ _ _ _ _ => none
          | .bad => some execAdminCompletion]

/-- The step that the machine takes next of itself; none when only issues remain to be taken. -/
def State.policy (s : State) : Option Run :=
  firstOf [
    fun _ => offer (s.status.toNat % 256 == 0) (execBoot .good),
    fun _ => offer (s.status.toNat % 256 == 2) (execRecoveryRetry .good),
    fun _ => s.dueTime,
    fun _ => s.dueData,
    fun _ => s.dueTeam,
    fun _ => s.dueMsg,
    fun _ => s.dueElem,
    fun _ => s.dueEngine,
    fun _ => s.findTeam s.dueWait,
    fun _ => s.dueAsk,
    fun _ => s.dueWork,
    fun _ => s.dueStarve]

/-- The records of a partition that are due, and its held events. -/
def State.flush (s : State) (vf : Nat) : State := (s.flushRecords vf).flushEvents vf

/-- A partition with records or events that can be written now. -/
def State.dueFlush (s : State) : Option Nat :=
  (s.parts.find? fun e => s.mayFlush e.1 || e.2.queues.any fun k =>
    match k.2.held with
    | x :: _ => (s.writeEvent e.1 k.1 x).isSome
    | [] => false).map (·.1)

end Sys2Proof.Machine
end

