-- ==== Sys2Proof/Machine/Scene.lean ====
section
/-! DEFINITION. The load of a program from outside the machine, as far as one instruction needs it (DESIGN CHOICE, assumption 2): where no team
can fetch, a partition with an address space, a launch and one team stand in place of what a driver would have set up. -/

namespace Sys2Proof.Machine

/-! ## The objects of the scene: object n lies in physical granule n + 2 -/

/-- Write the descriptor of object n, some granules long, and its extent entry. kind and perm are Q0 bits [62:57]. -/
def sceneObject (m : Memory) (n kind perm grans : Nat) : Memory :=
  let q0 := 2 ^ 63 + kind * 2 ^ 60 + perm * 2 ^ 57 + (65536 * grans - 1)
  let q1 := 2 ^ 52 + 2 ^ 40 + (0x20000 + 64 * n) / 64
  Memory.write (Memory.write m (0x10000 + 64 * n) (leBytes 8 q0 ++ leBytes 8 q1)) (0x20000 + 64 * n) (leBytes 8 (grans * 2 ^ 40 + n + 2))

/-- Object 1 code, 2 plain, 3 a counter array, 4 frame stacks, 5 the fault queue and the parked-team list, 6 the lane-private pool. -/
def sceneMem (m : Memory) : Memory :=
  sceneObject (sceneObject (sceneObject (sceneObject (sceneObject (sceneObject m 1 3 5 1) 2 0 6 1) 3 2 6 1) 4 0 6 1) 5 0 6 1) 6 0 6 32

/-- The packet: one bound crew of one team of 32 lanes and 64 registers, with every barrier, list and scratchpad. -/
def scenePacket : List QWord :=
  [qn (2 ^ 60 + 2 ^ 53 + 7 * 2 ^ 35 + 64 * 2 ^ 28 + 4096 * 2 ^ 15 + 16 * 2 ^ 10 + 8 * 2 ^ 6), 0,
   qn (1024 * 2 ^ 29 + 512 * 2 ^ 19 + 64 * 2 ^ 3), mkHandle 1 0, mkHandle 4 0, mkHandle 2 0xF000, qn (4 * 2 ^ 48 + 2 ^ 24), 0,
   mkHandle 2 0, mkHandle 3 0, 64, 1, mkHandle 1 0, 2, 3, 0]

def sceneQueue : Queue where
  base := mkHandle 2 0x8000
  size := 16
  asid := 0
  level := true
  pmax := 7
  evb := mkHandle 2 0x9000
  evsize := 16
  head := 0
  tail := 0
  evtail := 0
  evhead := 0
  stopped := false
  held := []
  waiting := none

/-- The launch, placed. -/
def sceneLaunch : Launch :=
  { newLaunch 0 0 sceneQueue scenePacket 0 with
    next := 1, placedAt := some 0, fleets := [(0, (1, 0))], dspk := [(0, 0)] }

/-- The team. -/
def sceneTeam : Team :=
  { newTeam sceneLaunch 1 1 0 0 0 (mkHandle 4 0) with
    key := [0]
    s := (List.range 8).map (fun i => (i + 1, sceneLaunch.q' (8 + i))) ++ [(62, mkHandle 4 0)] }

/-- A running module with the scene on it. -/
def State.scene (s : State) : State :=
  let s1 := (s.setStatus 0 8 1).createPart 0 1 1000
  let s2 : State := { s1 with
    mem := sceneMem s1.mem
    nextId := s1.nextId + 2
    asids := Tbl.set s1.asids 0 ⟨0, 0x10000, 16⟩
    launches := Tbl.set s1.launches 1 sceneLaunch
    fleets := Tbl.set s1.fleets (fleetKey 1 0) ⟨1, 0, 0, freshBarriers 8 1, 1⟩
    crews := Tbl.set s1.crews (crewKey 1 0 0) ⟨1, 0, 0, 0, 0, freshBarriers 16 1, freshBarriers 64 0, 1⟩ }
  let s3 := s2.modPart 0 fun p => { p with
    lanePool := some (mkHandle 6 0, 32 * 65536)
    framePool := some (mkHandle 4 0, 65536)
    listPool := some (mkHandle 2 0xA000, 8192)
    queues := [(0, sceneQueue)]
    fqbase := mkHandle 5 0
    fqsize := 16
    pkbase := mkHandle 5 0x1000
    tvec := mkHandle 1 0x100 }
  s3.addTeam sceneTeam

/-- A team that can issue its next instruction. -/
def State.fetcher (s : State) : Option Team :=
  (s.teams.map (·.2)).find? fun t =>
    t.running && t.wait.isNone && t.late.isEmpty && t.tq.isEmpty && t.sq.isEmpty && s.owedDone t && !t.pending && !s.detDue t && s.mayAct t
      && (s.portOf t).isSome && (match s.fetchLoc t t.pc with | .ok [_] => true | _ => false)

/-- Store a word where a team fetches, in memory and in its core's instruction cache, and let the schedulers have chosen that team. -/
def State.placeWord (s : State) (t : Team) (w : Nat) : State :=
  match s.fetchLoc t t.pc with
  | .ok [p] =>
    let s1 := s.modCore t.core fun c => { c with icache := Tbl.set c.icache p.loc (BitVec.ofNat 32 w) }
    { s1 with
      mem := Memory.write s1.mem p.loc (leBytes 4 w)
      agenda := .issue t.tk :: s1.agenda
      todo := (t.tk, (s.portOf t).getD 0) :: s1.todo.filter fun e => e.1 != t.tk }
  | _ => s

/-- A module tick that is due falls later: the next one is a whole interval away. -/
def State.tickLater (s : State) : State := if s.tickDue then { s with hbBase := s.thyme, hbM := 0 } else s

/-- The first frame of the scene's stack, whose lines its core holds all tokens of, as after a use of them (R105). -/
def State.frameTokens (s : State) : State :=
  [3072, 3073].foldl (fun s line =>
    s.modDir 0 line fun d => { d with mode := 1, htok := 0, ptrs := [0], owner := some 0, toks := [(0, 64)] }) s

/-- The load of one word: at the next fetch of a team that can issue, or of the scene's team. -/
def State.loadWord (s0 : State) (w : Nat) : State :=
  let s := s0.tickLater
  match s.fetcher with
  | some t => s.placeWord t w
  | none => s.scene.frameTokens.placeWord sceneTeam w

end Sys2Proof.Machine
end

