-- ==== Sys2Proof/Machine/Step.lean ====
section
/-! DEFINITION. The step. A step is one move: the first of the agenda, or else the move that the policy names (DESIGN CHOICE, assumption 1). A
move is a whole step of Instr, or the issue of a team's next instruction: fetch, decode, exec. -/

namespace Sys2Proof.Machine

/-- Issue the next instruction of a team on a port. A promotion point at which Dill has still to wait does not issue (R53), and nothing is
charged for it. -/
def State.issueOn (s : State) (t : Team) (port : Nat) : Result :=
  match s.fetched t with
  | .bad f => .next (s.issueFault t 0 f port)
  | .word w (.error e) => .next (s.issueFault t w (illegal e) port)
  | .word w (.ok i) =>
    match exec i (s.begin t w port) with
    | .next s1 => .next (if s1.team? t.tk = (s.begin t w port).team? t.tk then s else s1.after t i port)
    | r => r

/-- Issue a team that the schedulers chose for a port. -/
def State.issuePick (s : State) (tk port : Nat) : Result :=
  match s.team? tk with
  | none => .next s
  | some t => if s.mayIssue t port then s.issueOn t port else .next s

/-- Issue a team, where the schedulers chose it in this core cycle and it is the next of its core (R153). -/
def State.issue (s : State) (tk : Nat) : Result :=
  match s.todo.find? fun e => (s.team? e.1).map Team.core == (s.team? tk).map Team.core with
  | none => .next s
  | some e => if e.1 = tk then ({ s with todo := s.todo.erase e } : State).issuePick e.1 e.2 else .next s

/-- The move that the machine takes of itself: a module tick that is due (R232), the issues chosen for this cycle, then what is due or
enabled, then the next core cycle. -/
def State.own (s : State) : Result :=
  if s.tickDue then exec .heartbeatTick s
  else
  match s.todo with
  | (tk, port) :: r => ({ s with todo := r } : State).issuePick tk port
  | [] =>
    match s.policy with
    | some f => f s
    | none =>
      match s.dueFlush with
      | some vf => .next (s.flush vf)
      | none => exec .allowanceRefill s

/-- Whether the core clock stands: an issue of this cycle, a step that falls at this Thyme, what a unit's rate asks for, or a step whose
bound is over, comes first (R377). -/
def State.clockStands (s : State) : Bool :=
  !s.todo.isEmpty || s.dueNow.isSome || s.unitsDue || (s.overdue && (s.policy.isSome || s.dueFlush.isSome))

/-- A move of the agenda. -/
def State.act (s : State) : Act → Result
  | .ev .allowanceRefill => if s.clockStands then s.own else exec .allowanceRefill s
  | .ev i => exec i s
  | .issue tk => if s.tickDue then s.own else s.issue tk
  | .fill tk => .next (s.fillWord tk)
  | .drop core loc => .next (s.dropWord core loc)
  | .flush vf => .next (s.flush vf)
  | .read core copy piece => .next (s.copyRead core copy piece)
  | .write core copy piece => .next (s.copyWrite core copy piece)
  | .leave die line => .next (s.leaveSlice die line)
  | .bar0 vf off v => s.bar0 vf off v
  | .adminRegs base size => .next (s.setAdmin base size)
  | .ethernet port on => .next (s.setEthernet port on)

/-- One step of the module. -/
def step (s : State) : Result :=
  match (match s.agenda with | a :: r => ({ s with agenda := r } : State).act a | [] => s.own) with
  | .next s1 => .next s1.watchDead
  | r => r

/-- s with a word stored where the next step fetches, so that the next step runs it; nbits is 32 for every row with a word. -/
def State.withFetchWord (s : State) (nbits w : Nat) : State := if nbits = 0 then s else s.loadWord w

end Sys2Proof.Machine
end

