-- ==== Sys2Proof/Laws/Decode.lean ====
section
/-! SUPPORT. Laws of the decoder and the encoder: fields that are packed are unpacked, selector codes are read back, and
each operand layout decodes what it encodes. -/

namespace Sys2Proof

theorem unpackLow_packLow : ∀ fs : List (Nat × Nat), (∀ f ∈ fs, f.2 < 2 ^ f.1) →
    unpackLow (fs.map (·.1)) (packLow fs) = fs.map (·.2)
  | [], _ => rfl
  | (w, v) :: r, h => by
    have hv : v < 2 ^ w := h (w, v) (by simp)
    have ih := unpackLow_packLow r fun f hf => h f (by simp [hf])
    simp only [List.map_cons, packLow, unpackLow, Nat.add_mul_mod_self_left, Nat.mod_eq_of_lt hv]
    rw [Nat.add_mul_div_left _ _ (by positivity), Nat.div_eq_of_lt hv, Nat.zero_add, ih]

theorem packLow_lt : ∀ fs : List (Nat × Nat), (∀ f ∈ fs, f.2 < 2 ^ f.1) → packLow fs < 2 ^ (fs.map (·.1)).sum
  | [], _ => by simp [packLow]
  | (w, v) :: r, h => by
    have hv : v < 2 ^ w := h (w, v) (by simp)
    have ih := packLow_lt r fun f hf => h f (by simp [hf])
    simp only [packLow, List.map_cons, List.sum_cons, Nat.pow_add]
    calc v + 2 ^ w * packLow r < 2 ^ w + 2 ^ w * packLow r := by omega
      _ = 2 ^ w * (packLow r + 1) := by ring
      _ ≤ 2 ^ w * 2 ^ (r.map (·.1)).sum := Nat.mul_le_mul_left _ ih

/-- Fields that fit their widths are read back (R1). -/
theorem unpack_pack (fs : List (Nat × Nat)) (h : ∀ f ∈ fs, f.2 < 2 ^ f.1) : unpack (fs.map (·.1)) (pack fs) = fs.map (·.2) := by
  have := unpackLow_packLow fs.reverse fun f hf => h f (by simpa using hf)
  simp only [unpack, pack, ← List.map_reverse, this]
  simp

theorem pack_lt (fs : List (Nat × Nat)) (h : ∀ f ∈ fs, f.2 < 2 ^ f.1) : pack fs < 2 ^ (fs.map (·.1)).sum := by
  have := packLow_lt fs.reverse fun f hf => h f (by simpa using hf)
  simpa [pack] using this

/-- A word gives back its opcode byte and its field bits. -/
theorem word_op (op n : Nat) (ho : op < 256) (hn : n < 2 ^ 24) : (word op n).toNat / 2 ^ 24 = op := by
  have h : (word op n).toNat = op * 2 ^ 24 + n := by
    simp only [word, BitVec.toNat_ofNat]; omega
  omega

theorem word_fields (op n : Nat) (ho : op < 256) (hn : n < 2 ^ 24) : (word op n).toNat % 2 ^ 24 = n := by
  have h : (word op n).toNat = op * 2 ^ 24 + n := by
    simp only [word, BitVec.toNat_ofNat]; omega
  omega

/-! ## Selector codes -/

@[simp] theorem Bool.toNat_beq_one (b : Bool) : (b.toNat == 1) = b := by cases b <;> rfl

theorem Src.code_lt (x : Src) : x.code < 2 ^ 7 := by
  cases x with
  | v r => have := r.isLt; simp only [Src.code]; omega
  | b k => have := k.isLt; simp only [Src.code]; omega
  | lane => decide
  | const c => have := c.isLt; simp only [Src.code]; omega

@[simp] theorem Src.ofCode_code (x : Src) : Src.ofCode x.code = .ok x := by
  cases x with
  | v r => have := r.isLt; simp only [Src.code, Src.ofCode, this, if_true, BitVec.ofNat_toNat, BitVec.setWidth_eq]
  | b k =>
    have := k.isLt
    simp [Src.code, Src.ofCode, show ¬ 64 + k.toNat < 64 by omega, show 64 + k.toNat < 68 by omega, show 64 + k.toNat - 64 = k.toNat by omega]
  | lane => rfl
  | const c =>
    have := c.isLt
    simp [Src.code, Src.ofCode, show ¬ 96 + c.toNat < 64 by omega, show ¬ 96 + c.toNat < 68 by omega,
      show ¬ 96 + c.toNat = 68 by omega, show ¬ 96 + c.toNat < 96 by omega, show 96 + c.toNat - 96 = c.toNat by omega]

theorem Cond.code_lt (x : Cond) : x.code < 2 ^ 3 := by cases x <;> decide
@[simp] theorem Cond.ofCode_code (x : Cond) : Cond.ofCode x.code = .ok x := by cases x <;> rfl
theorem V2PCond.code_lt (x : V2PCond) : x.code < 2 ^ 3 := by cases x <;> decide
@[simp] theorem V2PCond.ofCode_code (x : V2PCond) : V2PCond.ofCode x.code = .ok x := by cases x <;> rfl
theorem CvtFmt.code_lt (x : CvtFmt) : x.code < 2 ^ 3 := by cases x <;> decide
@[simp] theorem CvtFmt.ofCode_code (x : CvtFmt) : CvtFmt.ofCode x.code = .ok x := by cases x <;> rfl
theorem QFmt.code_lt (x : QFmt) : x.code < 2 ^ 3 := by cases x <;> decide
@[simp] theorem QFmt.ofCode_code (x : QFmt) : QFmt.ofCode x.code = .ok x := by cases x <;> rfl
theorem DFmt.code_lt (x : DFmt) : x.code < 2 ^ 3 := by cases x <;> decide
@[simp] theorem DFmt.ofCode_code (x : DFmt) : DFmt.ofCode x.code = .ok x := by cases x <;> rfl
theorem PackFmt.code_lt (x : PackFmt) : x.code < 2 ^ 3 := by cases x <;> decide
@[simp] theorem PackFmt.ofCode_code (x : PackFmt) : PackFmt.ofCode x.code = .ok x := by cases x <;> rfl
theorem UnpkFmt.code_lt (x : UnpkFmt) : x.code < 2 ^ 3 := by cases x <;> decide
@[simp] theorem UnpkFmt.ofCode_code (x : UnpkFmt) : UnpkFmt.ofCode x.code = .ok x := by cases x <;> rfl
theorem IntFmt.code_lt (x : IntFmt) : x.code < 2 ^ 3 := by cases x <;> decide
@[simp] theorem IntFmt.ofCode_code (x : IntFmt) : IntFmt.ofCode x.code = .ok x := by cases x <;> rfl
theorem Size.code_lt (x : Size) : x.code < 2 ^ 2 := by cases x <;> decide
@[simp] theorem Size.ofCode_code (x : Size) : Size.ofCode x.code = .ok x := by cases x <;> rfl
theorem AOp.code_lt (x : AOp) : x.code < 2 ^ 3 := by cases x <;> decide
@[simp] theorem AOp.ofCode_code (x : AOp) : AOp.ofCode x.code = .ok x := by cases x <;> rfl
theorem Wide.code_lt (x : Wide) : x.code < 2 ^ 3 := by cases x <;> decide
@[simp] theorem Wide.ofCode_code (x : Wide) : Wide.ofCode x.code = .ok x := by cases x <;> rfl
theorem AddFmt.code_lt (x : AddFmt) : x.code < 2 ^ 3 := by cases x <;> decide
@[simp] theorem AddFmt.ofCode_code (x : AddFmt) : AddFmt.ofCode x.code = .ok x := by cases x <;> rfl
theorem Scope.code_lt (x : Scope) : x.code < 2 ^ 3 := by cases x <;> decide
@[simp] theorem Scope.ofCode_code (x : Scope) : Scope.ofCode x.code = .ok x := by cases x <;> rfl
theorem WCond.code_lt (x : WCond) : x.code < 2 ^ 2 := by cases x <;> decide
@[simp] theorem WCond.ofCode_code (x : WCond) : WCond.ofCode x.code = .ok x := by cases x <;> rfl
theorem ReplMode.code_lt (x : ReplMode) : x.code < 2 ^ 2 := by cases x <;> decide
@[simp] theorem ReplMode.ofCode_code (x : ReplMode) : ReplMode.ofCode x.code = .ok x := by cases x <;> rfl
theorem StFmt.code_lt (x : StFmt) : x.code < 2 ^ 3 := by cases x <;> decide
@[simp] theorem StFmt.ofCode_code (x : StFmt) : StFmt.ofCode x.code = .ok x := by cases x <;> rfl

theorem Bar.code_lt (x : Bar) : x.code < 2 ^ 12 := by
  cases x with
  | cb n => have := n.isLt; simp only [Bar.code]; omega
  | fb n => have := n.isLt; simp only [Bar.code]; omega
  | lb n => have := n.isLt; simp only [Bar.code]; omega

theorem Bar.code_middle (x : Bar) : x.code / 16 % 64 = 0 := by
  cases x with
  | cb n => have := n.isLt; simp only [Bar.code]; omega
  | fb n => have := n.isLt; simp only [Bar.code]; omega
  | lb n => have := n.isLt; simp only [Bar.code]; omega

@[simp] theorem Bar.ofCode_code (x : Bar) : Bar.ofCode x.code = .ok x := by
  cases x with
  | cb n => revert n; decide
  | fb n => revert n; decide
  | lb n => revert n; decide

/-! ## Layouts -/

theorem VR.fits (o : VR) : ∀ f ∈ [(1, o.nw.toNat), (6, o.vd.toNat), (7, o.sa.code), (7, o.sb.code), (3, o.pg.toNat)], f.2 < 2 ^ f.1 := by
  simp only [List.forall_mem_cons, List.not_mem_nil, false_imp_iff, implies_true, and_true]
  exact ⟨Bool.toNat_lt _, BitVec.isLt _, Src.code_lt _, Src.code_lt _, BitVec.isLt _⟩

theorem VR.enc_lt (o : VR) : o.enc < 2 ^ 24 := pack_lt _ o.fits

@[simp] theorem VR.dec_enc (o : VR) : VR.dec o.enc = .ok o := by
  have e : unpack [1, 6, 7, 7, 3] o.enc = [o.nw.toNat, o.vd.toNat, o.sa.code, o.sb.code, o.pg.toNat] := unpack_pack _ o.fits
  simp [VR.dec, e]

theorem VU.fits (o : VU) : ∀ f ∈ [(1, o.nw.toNat), (6, o.vd.toNat), (7, o.sa.code), (7, 0), (3, o.pg.toNat)], f.2 < 2 ^ f.1 := by
  simp only [List.forall_mem_cons, List.not_mem_nil, false_imp_iff, implies_true, and_true]
  exact ⟨Bool.toNat_lt _, BitVec.isLt _, Src.code_lt _, by decide, BitVec.isLt _⟩

theorem VU.enc_lt (o : VU) : o.enc < 2 ^ 24 := pack_lt _ o.fits

@[simp] theorem VU.dec_enc (o : VU) : VU.dec o.enc = .ok o := by
  have e : unpack [1, 6, 7, 7, 3] o.enc = [o.nw.toNat, o.vd.toNat, o.sa.code, 0, o.pg.toNat] := unpack_pack _ o.fits
  simp [VU.dec, e]

theorem VP.fits (o : VP) : ∀ f ∈ [(1, o.nw.toNat), (6, o.vd.toNat), (14, 0), (3, o.pg.toNat)], f.2 < 2 ^ f.1 := by
  simp only [List.forall_mem_cons, List.not_mem_nil, false_imp_iff, implies_true, and_true]
  exact ⟨Bool.toNat_lt _, BitVec.isLt _, by decide, BitVec.isLt _⟩

theorem VP.enc_lt (o : VP) : o.enc < 2 ^ 24 := pack_lt _ o.fits

@[simp] theorem VP.dec_enc (o : VP) : VP.dec o.enc = .ok o := by
  have e : unpack [1, 6, 14, 3] o.enc = [o.nw.toNat, o.vd.toNat, 0, o.pg.toNat] := unpack_pack _ o.fits
  simp [VP.dec, e]

theorem VC.fits (o : VC) : ∀ f ∈ [(1, 0), (3, o.pd.toNat), (3, o.cond.code), (7, o.sa.code), (7, o.sb.code), (3, o.pg.toNat)], f.2 < 2 ^ f.1 := by
  simp only [List.forall_mem_cons, List.not_mem_nil, false_imp_iff, implies_true, and_true]
  exact ⟨by decide, BitVec.isLt _, Cond.code_lt _, Src.code_lt _, Src.code_lt _, BitVec.isLt _⟩

theorem VC.enc_lt (o : VC) : o.enc < 2 ^ 24 := pack_lt _ o.fits

@[simp] theorem VC.dec_enc (o : VC) : VC.dec o.enc = .ok o := by
  have e : unpack [1, 3, 3, 7, 7, 3] o.enc = [0, o.pd.toNat, o.cond.code, o.sa.code, o.sb.code, o.pg.toNat] := unpack_pack _ o.fits
  simp [VC.dec, e]

theorem VV.fits (o : VV) : ∀ f ∈ [(1, 0), (3, o.pd.toNat), (3, o.cond.code), (7, o.sa.code), (7, o.sb.code), (3, o.pg.toNat)], f.2 < 2 ^ f.1 := by
  simp only [List.forall_mem_cons, List.not_mem_nil, false_imp_iff, implies_true, and_true]
  exact ⟨by decide, BitVec.isLt _, V2PCond.code_lt _, Src.code_lt _, Src.code_lt _, BitVec.isLt _⟩

theorem VV.enc_lt (o : VV) : o.enc < 2 ^ 24 := pack_lt _ o.fits

@[simp] theorem VV.dec_enc (o : VV) (h : o.cond = .all → o.pd = 0 ∧ o.sb = .v 0) : VV.dec o.enc = .ok o := by
  have e : unpack [1, 3, 3, 7, 7, 3] o.enc = [0, o.pd.toNat, o.cond.code, o.sa.code, o.sb.code, o.pg.toNat] := unpack_pack _ o.fits
  obtain ⟨pd, cond, sa, sb, pg⟩ := o
  cases cond with
  | any => simp [VV.dec, e, V2PCond.code, V2PCond.ofCode]
  | none => simp [VV.dec, e, V2PCond.code, V2PCond.ofCode]
  | all =>
    obtain ⟨rfl, rfl⟩ := h rfl
    have z : (Src.v 0#6).code = 0 := rfl
    have z' : Src.ofCode 0 = .ok (.v 0#6) := rfl
    simp only [VV.dec]
    rw [e]
    simp [V2PCond.code, V2PCond.ofCode, z, z']

theorem VCvt.fits (o : VCvt) : ∀ f ∈ [(1, o.nw.toNat), (6, o.vd.toNat), (7, o.sa.code), (7, o.sb.code), (3, o.f.code)], f.2 < 2 ^ f.1 := by
  simp only [List.forall_mem_cons, List.not_mem_nil, false_imp_iff, implies_true, and_true]
  exact ⟨Bool.toNat_lt _, BitVec.isLt _, Src.code_lt _, Src.code_lt _, CvtFmt.code_lt _⟩

theorem VCvt.enc_lt (o : VCvt) : o.enc < 2 ^ 24 := pack_lt _ o.fits

@[simp] theorem VCvt.dec_enc (o : VCvt) : VCvt.dec o.enc = .ok o := by
  have e : unpack [1, 6, 7, 7, 3] o.enc = [o.nw.toNat, o.vd.toNat, o.sa.code, o.sb.code, o.f.code] := unpack_pack _ o.fits
  simp [VCvt.dec, e]

theorem VQ.fits (o : VQ) : ∀ f ∈ [(1, o.nw.toNat), (6, o.vd.toNat), (7, o.sa.code), (7, o.sb.code), (3, o.f.code)], f.2 < 2 ^ f.1 := by
  simp only [List.forall_mem_cons, List.not_mem_nil, false_imp_iff, implies_true, and_true]
  exact ⟨Bool.toNat_lt _, BitVec.isLt _, Src.code_lt _, Src.code_lt _, QFmt.code_lt _⟩

theorem VQ.enc_lt (o : VQ) : o.enc < 2 ^ 24 := pack_lt _ o.fits

@[simp] theorem VQ.dec_enc (o : VQ) : VQ.dec o.enc = .ok o := by
  have e : unpack [1, 6, 7, 7, 3] o.enc = [o.nw.toNat, o.vd.toNat, o.sa.code, o.sb.code, o.f.code] := unpack_pack _ o.fits
  simp [VQ.dec, e]

theorem VD.fits (o : VD) : ∀ f ∈ [(1, o.nw.toNat), (6, o.vd.toNat), (7, o.sa.code), (7, o.sb.code), (3, o.f.code)], f.2 < 2 ^ f.1 := by
  simp only [List.forall_mem_cons, List.not_mem_nil, false_imp_iff, implies_true, and_true]
  exact ⟨Bool.toNat_lt _, BitVec.isLt _, Src.code_lt _, Src.code_lt _, DFmt.code_lt _⟩

theorem VD.enc_lt (o : VD) : o.enc < 2 ^ 24 := pack_lt _ o.fits

@[simp] theorem VD.dec_enc (o : VD) : VD.dec o.enc = .ok o := by
  have e : unpack [1, 6, 7, 7, 3] o.enc = [o.nw.toNat, o.vd.toNat, o.sa.code, o.sb.code, o.f.code] := unpack_pack _ o.fits
  simp [VD.dec, e]

theorem VPack.fits (o : VPack) : ∀ f ∈ [(1, o.nw.toNat), (6, o.vd.toNat), (7, o.sa.code), (7, o.sb.code), (3, o.f.code)], f.2 < 2 ^ f.1 := by
  simp only [List.forall_mem_cons, List.not_mem_nil, false_imp_iff, implies_true, and_true]
  exact ⟨Bool.toNat_lt _, BitVec.isLt _, Src.code_lt _, Src.code_lt _, PackFmt.code_lt _⟩

theorem VPack.enc_lt (o : VPack) : o.enc < 2 ^ 24 := pack_lt _ o.fits

@[simp] theorem VPack.dec_enc (o : VPack) : VPack.dec o.enc = .ok o := by
  have e : unpack [1, 6, 7, 7, 3] o.enc = [o.nw.toNat, o.vd.toNat, o.sa.code, o.sb.code, o.f.code] := unpack_pack _ o.fits
  simp [VPack.dec, e]

theorem VUnpk.fits (o : VUnpk) : ∀ f ∈ [(1, o.nw.toNat), (6, o.vd.toNat), (7, o.sa.code), (7, o.sb.code), (3, o.f.code)], f.2 < 2 ^ f.1 := by
  simp only [List.forall_mem_cons, List.not_mem_nil, false_imp_iff, implies_true, and_true]
  exact ⟨Bool.toNat_lt _, BitVec.isLt _, Src.code_lt _, Src.code_lt _, UnpkFmt.code_lt _⟩

theorem VUnpk.enc_lt (o : VUnpk) : o.enc < 2 ^ 24 := pack_lt _ o.fits

@[simp] theorem VUnpk.dec_enc (o : VUnpk) : VUnpk.dec o.enc = .ok o := by
  have e : unpack [1, 6, 7, 7, 3] o.enc = [o.nw.toNat, o.vd.toNat, o.sa.code, o.sb.code, o.f.code] := unpack_pack _ o.fits
  simp [VUnpk.dec, e]

theorem VInt.fits (o : VInt) : ∀ f ∈ [(1, o.nw.toNat), (6, o.vd.toNat), (7, o.sa.code), (7, 0), (3, o.f.code)], f.2 < 2 ^ f.1 := by
  simp only [List.forall_mem_cons, List.not_mem_nil, false_imp_iff, implies_true, and_true]
  exact ⟨Bool.toNat_lt _, BitVec.isLt _, Src.code_lt _, by decide, IntFmt.code_lt _⟩

theorem VInt.enc_lt (o : VInt) : o.enc < 2 ^ 24 := pack_lt _ o.fits

@[simp] theorem VInt.dec_enc (o : VInt) : VInt.dec o.enc = .ok o := by
  have e : unpack [1, 6, 7, 7, 3] o.enc = [o.nw.toNat, o.vd.toNat, o.sa.code, 0, o.f.code] := unpack_pack _ o.fits
  simp [VInt.dec, e]

theorem VI.fits (o : VI) : ∀ f ∈ [(1, o.nw.toNat), (6, o.vd.toNat), (7, o.sa.code), (10, o.imm.toNat)], f.2 < 2 ^ f.1 := by
  simp only [List.forall_mem_cons, List.not_mem_nil, false_imp_iff, implies_true, and_true]
  exact ⟨Bool.toNat_lt _, BitVec.isLt _, Src.code_lt _, BitVec.isLt _⟩

theorem VI.enc_lt (o : VI) : o.enc < 2 ^ 24 := pack_lt _ o.fits

@[simp] theorem VI.dec_enc (o : VI) : VI.dec o.enc = .ok o := by
  have e : unpack [1, 6, 7, 10] o.enc = [o.nw.toNat, o.vd.toNat, o.sa.code, o.imm.toNat] := unpack_pack _ o.fits
  simp [VI.dec, e]

theorem VM.fits (o : VM) : ∀ f ∈ [(6, o.vt.toNat), (7, o.so.code), (6, o.sbase.toNat), (2, o.size.code), (3, o.spol.toNat)], f.2 < 2 ^ f.1 := by
  simp only [List.forall_mem_cons, List.not_mem_nil, false_imp_iff, implies_true, and_true]
  exact ⟨BitVec.isLt _, Src.code_lt _, BitVec.isLt _, Size.code_lt _, BitVec.isLt _⟩

theorem VM.enc_lt (o : VM) : o.enc < 2 ^ 24 := pack_lt _ o.fits

@[simp] theorem VM.dec_enc (o : VM) : VM.dec o.enc = .ok o := by
  have e : unpack [6, 7, 6, 2, 3] o.enc = [o.vt.toNat, o.so.code, o.sbase.toNat, o.size.code, o.spol.toNat] := unpack_pack _ o.fits
  simp [VM.dec, e]

theorem VA.fits (o : VA) : ∀ f ∈ [(6, o.vt.toNat), (7, o.so.code), (6, o.sbase.toNat), (3, o.aop.code), (2, o.spol.toNat)], f.2 < 2 ^ f.1 := by
  simp only [List.forall_mem_cons, List.not_mem_nil, false_imp_iff, implies_true, and_true]
  exact ⟨BitVec.isLt _, Src.code_lt _, BitVec.isLt _, AOp.code_lt _, BitVec.isLt _⟩

theorem VA.enc_lt (o : VA) : o.enc < 2 ^ 24 := pack_lt _ o.fits

@[simp] theorem VA.dec_enc (o : VA) : VA.dec o.enc = .ok o := by
  have e : unpack [6, 7, 6, 3, 2] o.enc = [o.vt.toNat, o.so.code, o.sbase.toNat, o.aop.code, o.spol.toNat] := unpack_pack _ o.fits
  simp [VA.dec, e]

theorem VW.fits (o : VW) : ∀ f ∈ [(6, o.vt.toNat), (7, o.so.code), (6, o.sbase.toNat), (3, o.wide.code), (2, o.spol.toNat)], f.2 < 2 ^ f.1 := by
  simp only [List.forall_mem_cons, List.not_mem_nil, false_imp_iff, implies_true, and_true]
  exact ⟨BitVec.isLt _, Src.code_lt _, BitVec.isLt _, Wide.code_lt _, BitVec.isLt _⟩

theorem VW.enc_lt (o : VW) : o.enc < 2 ^ 24 := pack_lt _ o.fits

@[simp] theorem VW.dec_enc (o : VW) : VW.dec o.enc = .ok o := by
  have e : unpack [6, 7, 6, 3, 2] o.enc = [o.vt.toNat, o.so.code, o.sbase.toNat, o.wide.code, o.spol.toNat] := unpack_pack _ o.fits
  simp [VW.dec, e]

theorem VF.fits (o : VF) : ∀ f ∈ [(6, o.vt.toNat), (7, o.so.code), (6, o.sbase.toNat), (3, o.f.code), (2, o.spol.toNat)], f.2 < 2 ^ f.1 := by
  simp only [List.forall_mem_cons, List.not_mem_nil, false_imp_iff, implies_true, and_true]
  exact ⟨BitVec.isLt _, Src.code_lt _, BitVec.isLt _, AddFmt.code_lt _, BitVec.isLt _⟩

theorem VF.enc_lt (o : VF) : o.enc < 2 ^ 24 := pack_lt _ o.fits

@[simp] theorem VF.dec_enc (o : VF) : VF.dec o.enc = .ok o := by
  have e : unpack [6, 7, 6, 3, 2] o.enc = [o.vt.toNat, o.so.code, o.sbase.toNat, o.f.code, o.spol.toNat] := unpack_pack _ o.fits
  simp [VF.dec, e]

theorem SR.fits (o : SR) : ∀ f ∈ [(6, o.sd.toNat), (6, o.sa.toNat), (6, o.sb.toNat), (6, 0)], f.2 < 2 ^ f.1 := by
  simp only [List.forall_mem_cons, List.not_mem_nil, false_imp_iff, implies_true, and_true]
  exact ⟨BitVec.isLt _, BitVec.isLt _, BitVec.isLt _, by decide⟩

theorem SR.enc_lt (o : SR) : o.enc < 2 ^ 24 := pack_lt _ o.fits

@[simp] theorem SR.dec_enc (o : SR) : SR.dec o.enc = .ok o := by
  have e : unpack [6, 6, 6, 6] o.enc = [o.sd.toNat, o.sa.toNat, o.sb.toNat, 0] := unpack_pack _ o.fits
  simp [SR.dec, e]

theorem SN.fits (o : SN) : ∀ f ∈ [(6, o.sd.toNat), (6, o.sa.toNat), (6, o.sb.toNat), (5, 0), (1, o.n.toNat)], f.2 < 2 ^ f.1 := by
  simp only [List.forall_mem_cons, List.not_mem_nil, false_imp_iff, implies_true, and_true]
  exact ⟨BitVec.isLt _, BitVec.isLt _, BitVec.isLt _, by decide, Bool.toNat_lt _⟩

theorem SN.enc_lt (o : SN) : o.enc < 2 ^ 24 := pack_lt _ o.fits

@[simp] theorem SN.dec_enc (o : SN) : SN.dec o.enc = .ok o := by
  have e : unpack [6, 6, 6, 5, 1] o.enc = [o.sd.toNat, o.sa.toNat, o.sb.toNat, 0, o.n.toNat] := unpack_pack _ o.fits
  simp [SN.dec, e]

theorem SC.fits (o : SC) : ∀ f ∈ [(6, o.sd.toNat), (6, o.sa.toNat), (6, o.sb.toNat), (3, 0), (3, o.cond.code)], f.2 < 2 ^ f.1 := by
  simp only [List.forall_mem_cons, List.not_mem_nil, false_imp_iff, implies_true, and_true]
  exact ⟨BitVec.isLt _, BitVec.isLt _, BitVec.isLt _, by decide, Cond.code_lt _⟩

theorem SC.enc_lt (o : SC) : o.enc < 2 ^ 24 := pack_lt _ o.fits

@[simp] theorem SC.dec_enc (o : SC) : SC.dec o.enc = .ok o := by
  have e : unpack [6, 6, 6, 3, 3] o.enc = [o.sd.toNat, o.sa.toNat, o.sb.toNat, 0, o.cond.code] := unpack_pack _ o.fits
  simp [SC.dec, e]

theorem SU.fits (o : SU) : ∀ f ∈ [(6, o.sd.toNat), (6, o.sa.toNat), (12, 0)], f.2 < 2 ^ f.1 := by
  simp only [List.forall_mem_cons, List.not_mem_nil, false_imp_iff, implies_true, and_true]
  exact ⟨BitVec.isLt _, BitVec.isLt _, by decide⟩

theorem SU.enc_lt (o : SU) : o.enc < 2 ^ 24 := pack_lt _ o.fits

@[simp] theorem SU.dec_enc (o : SU) : SU.dec o.enc = .ok o := by
  have e : unpack [6, 6, 12] o.enc = [o.sd.toNat, o.sa.toNat, 0] := unpack_pack _ o.fits
  simp [SU.dec, e]

theorem SI.fits (o : SI) : ∀ f ∈ [(6, o.sd.toNat), (6, o.sa.toNat), (12, o.imm.toNat)], f.2 < 2 ^ f.1 := by
  simp only [List.forall_mem_cons, List.not_mem_nil, false_imp_iff, implies_true, and_true]
  exact ⟨BitVec.isLt _, BitVec.isLt _, BitVec.isLt _⟩

theorem SI.enc_lt (o : SI) : o.enc < 2 ^ 24 := pack_lt _ o.fits

@[simp] theorem SI.dec_enc (o : SI) : SI.dec o.enc = .ok o := by
  have e : unpack [6, 6, 12] o.enc = [o.sd.toNat, o.sa.toNat, o.imm.toNat] := unpack_pack _ o.fits
  simp [SI.dec, e]

theorem SL.fits (o : SL) : ∀ f ∈ [(6, o.sd.toNat), (18, o.imm.toNat)], f.2 < 2 ^ f.1 := by
  simp only [List.forall_mem_cons, List.not_mem_nil, false_imp_iff, implies_true, and_true]
  exact ⟨BitVec.isLt _, BitVec.isLt _⟩

theorem SL.enc_lt (o : SL) : o.enc < 2 ^ 24 := pack_lt _ o.fits

@[simp] theorem SL.dec_enc (o : SL) : SL.dec o.enc = .ok o := by
  have e : unpack [6, 18] o.enc = [o.sd.toNat, o.imm.toNat] := unpack_pack _ o.fits
  simp [SL.dec, e]

theorem SRed.fits (o : SRed) : ∀ f ∈ [(6, o.sd.toNat), (6, o.va.toNat), (6, 0), (2, 0), (1, o.n.toNat), (3, o.pg.toNat)], f.2 < 2 ^ f.1 := by
  simp only [List.forall_mem_cons, List.not_mem_nil, false_imp_iff, implies_true, and_true]
  exact ⟨BitVec.isLt _, BitVec.isLt _, by decide, by decide, Bool.toNat_lt _, BitVec.isLt _⟩

theorem SRed.enc_lt (o : SRed) : o.enc < 2 ^ 24 := pack_lt _ o.fits

@[simp] theorem SRed.dec_enc (o : SRed) : SRed.dec o.enc = .ok o := by
  have e : unpack [6, 6, 6, 2, 1, 3] o.enc = [o.sd.toNat, o.va.toNat, 0, 0, o.n.toNat, o.pg.toNat] := unpack_pack _ o.fits
  simp [SRed.dec, e]

theorem SRedF.fits (o : SRedF) : ∀ f ∈ [(6, o.sd.toNat), (6, o.sa.toNat), (6, 0), (3, 0), (3, o.pn.toNat)], f.2 < 2 ^ f.1 := by
  simp only [List.forall_mem_cons, List.not_mem_nil, false_imp_iff, implies_true, and_true]
  exact ⟨BitVec.isLt _, BitVec.isLt _, by decide, by decide, BitVec.isLt _⟩

theorem SRedF.enc_lt (o : SRedF) : o.enc < 2 ^ 24 := pack_lt _ o.fits

@[simp] theorem SRedF.dec_enc (o : SRedF) : SRedF.dec o.enc = .ok o := by
  have e : unpack [6, 6, 6, 3, 3] o.enc = [o.sd.toNat, o.sa.toNat, 0, 0, o.pn.toNat] := unpack_pack _ o.fits
  simp [SRedF.dec, e]

theorem SAny.fits (o : SAny) : ∀ f ∈ [(6, o.sd.toNat), (6, 0), (6, 0), (2, 0), (1, o.all.toNat), (3, o.pn.toNat)], f.2 < 2 ^ f.1 := by
  simp only [List.forall_mem_cons, List.not_mem_nil, false_imp_iff, implies_true, and_true]
  exact ⟨BitVec.isLt _, by decide, by decide, by decide, Bool.toNat_lt _, BitVec.isLt _⟩

theorem SAny.enc_lt (o : SAny) : o.enc < 2 ^ 24 := pack_lt _ o.fits

@[simp] theorem SAny.dec_enc (o : SAny) : SAny.dec o.enc = .ok o := by
  have e : unpack [6, 6, 6, 2, 1, 3] o.enc = [o.sd.toNat, 0, 0, 0, o.all.toNat, o.pn.toNat] := unpack_pack _ o.fits
  simp [SAny.dec, e]

theorem SBcs.fits (o : SBcs) : ∀ f ∈ [(6, o.vd.toNat), (6, o.sa.toNat), (6, 0), (5, 0), (1, o.w.toNat)], f.2 < 2 ^ f.1 := by
  simp only [List.forall_mem_cons, List.not_mem_nil, false_imp_iff, implies_true, and_true]
  exact ⟨BitVec.isLt _, BitVec.isLt _, by decide, by decide, Bool.toNat_lt _⟩

theorem SBcs.enc_lt (o : SBcs) : o.enc < 2 ^ 24 := pack_lt _ o.fits

@[simp] theorem SBcs.dec_enc (o : SBcs) : SBcs.dec o.enc = .ok o := by
  have e : unpack [6, 6, 6, 5, 1] o.enc = [o.vd.toNat, o.sa.toNat, 0, 0, o.w.toNat] := unpack_pack _ o.fits
  simp [SBcs.dec, e]

theorem SLane.fits (o : SLane) : ∀ f ∈ [(6, o.d.toNat), (6, o.a.toNat), (6, o.sb.toNat), (5, 0), (1, o.w.toNat)], f.2 < 2 ^ f.1 := by
  simp only [List.forall_mem_cons, List.not_mem_nil, false_imp_iff, implies_true, and_true]
  exact ⟨BitVec.isLt _, BitVec.isLt _, BitVec.isLt _, by decide, Bool.toNat_lt _⟩

theorem SLane.enc_lt (o : SLane) : o.enc < 2 ^ 24 := pack_lt _ o.fits

@[simp] theorem SLane.dec_enc (o : SLane) : SLane.dec o.enc = .ok o := by
  have e : unpack [6, 6, 6, 5, 1] o.enc = [o.d.toNat, o.a.toNat, o.sb.toNat, 0, o.w.toNat] := unpack_pack _ o.fits
  simp [SLane.dec, e]

theorem SJ.fits (o : SJ) : ∀ f ∈ [(6, 0), (18, o.disp.toNat)], f.2 < 2 ^ f.1 := by
  simp only [List.forall_mem_cons, List.not_mem_nil, false_imp_iff, implies_true, and_true]
  exact ⟨by decide, BitVec.isLt _⟩

theorem SJ.enc_lt (o : SJ) : o.enc < 2 ^ 24 := pack_lt _ o.fits

@[simp] theorem SJ.dec_enc (o : SJ) : SJ.dec o.enc = .ok o := by
  have e : unpack [6, 18] o.enc = [0, o.disp.toNat] := unpack_pack _ o.fits
  simp [SJ.dec, e]

theorem SB.fits (o : SB) : ∀ f ∈ [(6, o.sa.toNat), (18, o.disp.toNat)], f.2 < 2 ^ f.1 := by
  simp only [List.forall_mem_cons, List.not_mem_nil, false_imp_iff, implies_true, and_true]
  exact ⟨BitVec.isLt _, BitVec.isLt _⟩

theorem SB.enc_lt (o : SB) : o.enc < 2 ^ 24 := pack_lt _ o.fits

@[simp] theorem SB.dec_enc (o : SB) : SB.dec o.enc = .ok o := by
  have e : unpack [6, 18] o.enc = [o.sa.toNat, o.disp.toNat] := unpack_pack _ o.fits
  simp [SB.dec, e]

theorem SPB.fits (o : SPB) : ∀ f ∈ [(3, 0), (3, o.pn.toNat), (18, o.disp.toNat)], f.2 < 2 ^ f.1 := by
  simp only [List.forall_mem_cons, List.not_mem_nil, false_imp_iff, implies_true, and_true]
  exact ⟨by decide, BitVec.isLt _, BitVec.isLt _⟩

theorem SPB.enc_lt (o : SPB) : o.enc < 2 ^ 24 := pack_lt _ o.fits

@[simp] theorem SPB.dec_enc (o : SPB) : SPB.dec o.enc = .ok o := by
  have e : unpack [3, 3, 18] o.enc = [0, o.pn.toNat, o.disp.toNat] := unpack_pack _ o.fits
  simp [SPB.dec, e]

theorem SP.fits (o : SP) : ∀ f ∈ [(21, 0), (3, o.pn.toNat)], f.2 < 2 ^ f.1 := by
  simp only [List.forall_mem_cons, List.not_mem_nil, false_imp_iff, implies_true, and_true]
  exact ⟨by decide, BitVec.isLt _⟩

theorem SP.enc_lt (o : SP) : o.enc < 2 ^ 24 := pack_lt _ o.fits

@[simp] theorem SP.dec_enc (o : SP) : SP.dec o.enc = .ok o := by
  have e : unpack [21, 3] o.enc = [0, o.pn.toNat] := unpack_pack _ o.fits
  simp [SP.dec, e]

theorem S1.fits (o : S1) : ∀ f ∈ [(6, 0), (6, o.sa.toNat), (12, 0)], f.2 < 2 ^ f.1 := by
  simp only [List.forall_mem_cons, List.not_mem_nil, false_imp_iff, implies_true, and_true]
  exact ⟨by decide, BitVec.isLt _, by decide⟩

theorem S1.enc_lt (o : S1) : o.enc < 2 ^ 24 := pack_lt _ o.fits

@[simp] theorem S1.dec_enc (o : S1) : S1.dec o.enc = .ok o := by
  have e : unpack [6, 6, 12] o.enc = [0, o.sa.toNat, 0] := unpack_pack _ o.fits
  simp [S1.dec, e]

theorem SBX.fits (o : SBX) : ∀ f ∈ [(6, o.sa.toNat), (6, o.sb.toNat), (12, o.disp.toNat)], f.2 < 2 ^ f.1 := by
  simp only [List.forall_mem_cons, List.not_mem_nil, false_imp_iff, implies_true, and_true]
  exact ⟨BitVec.isLt _, BitVec.isLt _, BitVec.isLt _⟩

theorem SBX.enc_lt (o : SBX) : o.enc < 2 ^ 24 := pack_lt _ o.fits

@[simp] theorem SBX.dec_enc (o : SBX) : SBX.dec o.enc = .ok o := by
  have e : unpack [6, 6, 12] o.enc = [o.sa.toNat, o.sb.toNat, o.disp.toNat] := unpack_pack _ o.fits
  simp [SBX.dec, e]

theorem SFres.fits (o : SFres) : ∀ f ∈ [(6, 0), (6, o.sa.toNat), (12, o.k.toNat)], f.2 < 2 ^ f.1 := by
  simp only [List.forall_mem_cons, List.not_mem_nil, false_imp_iff, implies_true, and_true]
  exact ⟨by decide, BitVec.isLt _, BitVec.isLt _⟩

theorem SFres.enc_lt (o : SFres) : o.enc < 2 ^ 24 := pack_lt _ o.fits

@[simp] theorem SFres.dec_enc (o : SFres) : SFres.dec o.enc = .ok o := by
  have e : unpack [6, 6, 12] o.enc = [0, o.sa.toNat, o.k.toNat] := unpack_pack _ o.fits
  simp [SFres.dec, e]

theorem SFrget.fits (o : SFrget) : ∀ f ∈ [(6, o.sd.toNat), (6, 0), (12, o.k.toNat)], f.2 < 2 ^ f.1 := by
  simp only [List.forall_mem_cons, List.not_mem_nil, false_imp_iff, implies_true, and_true]
  exact ⟨BitVec.isLt _, by decide, BitVec.isLt _⟩

theorem SFrget.enc_lt (o : SFrget) : o.enc < 2 ^ 24 := pack_lt _ o.fits

@[simp] theorem SFrget.dec_enc (o : SFrget) : SFrget.dec o.enc = .ok o := by
  have e : unpack [6, 6, 12] o.enc = [o.sd.toNat, 0, o.k.toNat] := unpack_pack _ o.fits
  simp [SFrget.dec, e]

theorem SItem.fits (o : SItem) : ∀ f ∈ [(6, o.sd.toNat), (6, o.sa.toNat), (6, o.vb.toNat), (3, 0), (3, o.pn.toNat)], f.2 < 2 ^ f.1 := by
  simp only [List.forall_mem_cons, List.not_mem_nil, false_imp_iff, implies_true, and_true]
  exact ⟨BitVec.isLt _, BitVec.isLt _, BitVec.isLt _, by decide, BitVec.isLt _⟩

theorem SItem.enc_lt (o : SItem) : o.enc < 2 ^ 24 := pack_lt _ o.fits

@[simp] theorem SItem.dec_enc (o : SItem) : SItem.dec o.enc = .ok o := by
  have e : unpack [6, 6, 6, 3, 3] o.enc = [o.sd.toNat, o.sa.toNat, o.vb.toNat, 0, o.pn.toNat] := unpack_pack _ o.fits
  simp [SItem.dec, e]

theorem SM.fits (o : SM) : ∀ f ∈ [(6, o.sd.toNat), (6, o.sbase.toNat), (6, o.soff.toNat), (1, 0), (5, o.spol.toNat)], f.2 < 2 ^ f.1 := by
  simp only [List.forall_mem_cons, List.not_mem_nil, false_imp_iff, implies_true, and_true]
  exact ⟨BitVec.isLt _, BitVec.isLt _, BitVec.isLt _, by decide, BitVec.isLt _⟩

theorem SM.enc_lt (o : SM) : o.enc < 2 ^ 24 := pack_lt _ o.fits

@[simp] theorem SM.dec_enc (o : SM) : SM.dec o.enc = .ok o := by
  have e : unpack [6, 6, 6, 1, 5] o.enc = [o.sd.toNat, o.sbase.toNat, o.soff.toNat, 0, o.spol.toNat] := unpack_pack _ o.fits
  simp [SM.dec, e]

theorem SA.fits (o : SA) : ∀ f ∈ [(6, o.sd.toNat), (6, o.sbase.toNat), (6, o.sv.toNat), (3, o.aop.code), (3, o.spol.toNat)], f.2 < 2 ^ f.1 := by
  simp only [List.forall_mem_cons, List.not_mem_nil, false_imp_iff, implies_true, and_true]
  exact ⟨BitVec.isLt _, BitVec.isLt _, BitVec.isLt _, AOp.code_lt _, BitVec.isLt _⟩

theorem SA.enc_lt (o : SA) : o.enc < 2 ^ 24 := pack_lt _ o.fits

@[simp] theorem SA.dec_enc (o : SA) : SA.dec o.enc = .ok o := by
  have e : unpack [6, 6, 6, 3, 3] o.enc = [o.sd.toNat, o.sbase.toNat, o.sv.toNat, o.aop.code, o.spol.toNat] := unpack_pack _ o.fits
  simp [SA.dec, e]

theorem SX3.fits (o : SX3) : ∀ f ∈ [(6, o.sd.toNat), (6, o.sbase.toNat), (6, o.sv.toNat), (3, 0), (3, o.spol.toNat)], f.2 < 2 ^ f.1 := by
  simp only [List.forall_mem_cons, List.not_mem_nil, false_imp_iff, implies_true, and_true]
  exact ⟨BitVec.isLt _, BitVec.isLt _, BitVec.isLt _, by decide, BitVec.isLt _⟩

theorem SX3.enc_lt (o : SX3) : o.enc < 2 ^ 24 := pack_lt _ o.fits

@[simp] theorem SX3.dec_enc (o : SX3) : SX3.dec o.enc = .ok o := by
  have e : unpack [6, 6, 6, 3, 3] o.enc = [o.sd.toNat, o.sbase.toNat, o.sv.toNat, 0, o.spol.toNat] := unpack_pack _ o.fits
  simp [SX3.dec, e]

theorem SBcset.fits (o : SBcset) : ∀ f ∈ [(6, o.sd.toNat), (6, o.sbase.toNat), (6, o.sv.toNat), (3, 0), (3, o.spol.toNat)], f.2 < 2 ^ f.1 := by
  simp only [List.forall_mem_cons, List.not_mem_nil, false_imp_iff, implies_true, and_true]
  exact ⟨BitVec.isLt _, BitVec.isLt _, BitVec.isLt _, by decide, BitVec.isLt _⟩

theorem SBcset.enc_lt (o : SBcset) : o.enc < 2 ^ 24 := pack_lt _ o.fits

@[simp] theorem SBcset.dec_enc (o : SBcset) : SBcset.dec o.enc = .ok o := by
  have e : unpack [6, 6, 6, 3, 3] o.enc = [o.sd.toNat, o.sbase.toNat, o.sv.toNat, 0, o.spol.toNat] := unpack_pack _ o.fits
  simp [SBcset.dec, e]

theorem SBcinc.fits (o : SBcinc) : ∀ f ∈ [(6, 0), (6, o.sbase.toNat), (6, o.sv.toNat), (3, 0), (3, o.spol.toNat)], f.2 < 2 ^ f.1 := by
  simp only [List.forall_mem_cons, List.not_mem_nil, false_imp_iff, implies_true, and_true]
  exact ⟨by decide, BitVec.isLt _, BitVec.isLt _, by decide, BitVec.isLt _⟩

theorem SBcinc.enc_lt (o : SBcinc) : o.enc < 2 ^ 24 := pack_lt _ o.fits

@[simp] theorem SBcinc.dec_enc (o : SBcinc) : SBcinc.dec o.enc = .ok o := by
  have e : unpack [6, 6, 6, 3, 3] o.enc = [0, o.sbase.toNat, o.sv.toNat, 0, o.spol.toNat] := unpack_pack _ o.fits
  simp [SBcinc.dec, e]

theorem SBcread.fits (o : SBcread) : ∀ f ∈ [(6, o.sd.toNat), (6, o.sbase.toNat), (6, 0), (3, 0), (3, o.spol.toNat)], f.2 < 2 ^ f.1 := by
  simp only [List.forall_mem_cons, List.not_mem_nil, false_imp_iff, implies_true, and_true]
  exact ⟨BitVec.isLt _, BitVec.isLt _, by decide, by decide, BitVec.isLt _⟩

theorem SBcread.enc_lt (o : SBcread) : o.enc < 2 ^ 24 := pack_lt _ o.fits

@[simp] theorem SBcread.dec_enc (o : SBcread) : SBcread.dec o.enc = .ok o := by
  have e : unpack [6, 6, 6, 3, 3] o.enc = [o.sd.toNat, o.sbase.toNat, 0, 0, o.spol.toNat] := unpack_pack _ o.fits
  simp [SBcread.dec, e]

theorem SFence.fits (o : SFence) : ∀ f ∈ [(18, 0), (3, 0), (3, o.scope.code)], f.2 < 2 ^ f.1 := by
  simp only [List.forall_mem_cons, List.not_mem_nil, false_imp_iff, implies_true, and_true]
  exact ⟨by decide, by decide, Scope.code_lt _⟩

theorem SFence.enc_lt (o : SFence) : o.enc < 2 ^ 24 := pack_lt _ o.fits

@[simp] theorem SFence.dec_enc (o : SFence) : SFence.dec o.enc = .ok o := by
  have e : unpack [18, 3, 3] o.enc = [0, 0, o.scope.code] := unpack_pack _ o.fits
  simp [SFence.dec, e]

theorem SIfence.fits (o : SIfence) : ∀ f ∈ [(6, 0), (6, o.sa.toNat), (6, o.sb.toNat), (6, 0)], f.2 < 2 ^ f.1 := by
  simp only [List.forall_mem_cons, List.not_mem_nil, false_imp_iff, implies_true, and_true]
  exact ⟨by decide, BitVec.isLt _, BitVec.isLt _, by decide⟩

theorem SIfence.enc_lt (o : SIfence) : o.enc < 2 ^ 24 := pack_lt _ o.fits

@[simp] theorem SIfence.dec_enc (o : SIfence) : SIfence.dec o.enc = .ok o := by
  have e : unpack [6, 6, 6, 6] o.enc = [0, o.sa.toNat, o.sb.toNat, 0] := unpack_pack _ o.fits
  simp [SIfence.dec, e]

theorem SWaitv.fits (o : SWaitv) : ∀ f ∈ [(6, o.sd.toNat), (6, o.sbase.toNat), (6, o.sv.toNat), (1, o.w32.toNat), (2, o.cond.code), (3, o.spol.toNat)], f.2 < 2 ^ f.1 := by
  simp only [List.forall_mem_cons, List.not_mem_nil, false_imp_iff, implies_true, and_true]
  exact ⟨BitVec.isLt _, BitVec.isLt _, BitVec.isLt _, Bool.toNat_lt _, WCond.code_lt _, BitVec.isLt _⟩

theorem SWaitv.enc_lt (o : SWaitv) : o.enc < 2 ^ 24 := pack_lt _ o.fits

@[simp] theorem SWaitv.dec_enc (o : SWaitv) : SWaitv.dec o.enc = .ok o := by
  have e : unpack [6, 6, 6, 1, 2, 3] o.enc = [o.sd.toNat, o.sbase.toNat, o.sv.toNat, o.w32.toNat, o.cond.code, o.spol.toNat] := unpack_pack _ o.fits
  simp [SWaitv.dec, e]

theorem SRepl.fits (o : SRepl) : ∀ f ∈ [(6, 0), (6, o.sa.toNat), (6, o.sb.toNat), (4, 0), (2, o.mode.code)], f.2 < 2 ^ f.1 := by
  simp only [List.forall_mem_cons, List.not_mem_nil, false_imp_iff, implies_true, and_true]
  exact ⟨by decide, BitVec.isLt _, BitVec.isLt _, by decide, ReplMode.code_lt _⟩

theorem SRepl.enc_lt (o : SRepl) : o.enc < 2 ^ 24 := pack_lt _ o.fits

@[simp] theorem SRepl.dec_enc (o : SRepl) : SRepl.dec o.enc = .ok o := by
  have e : unpack [6, 6, 6, 4, 2] o.enc = [0, o.sa.toNat, o.sb.toNat, 0, o.mode.code] := unpack_pack _ o.fits
  simp [SRepl.dec, e]

theorem SBar.fits (o : SBar) : ∀ f ∈ [(6, o.sd.toNat), (6, 0), (12, o.bar.code)], f.2 < 2 ^ f.1 := by
  simp only [List.forall_mem_cons, List.not_mem_nil, false_imp_iff, implies_true, and_true]
  exact ⟨BitVec.isLt _, by decide, Bar.code_lt _⟩

theorem SBar.enc_lt (o : SBar) : o.enc < 2 ^ 24 := pack_lt _ o.fits

@[simp] theorem SBar.dec_enc (o : SBar) : SBar.dec o.enc = .ok o := by
  have e : unpack [6, 6, 12] o.enc = [o.sd.toNat, 0, o.bar.code] := unpack_pack _ o.fits
  simp [SBar.dec, e, Bar.code_middle]

theorem SBarw.fits (o : SBarw) : ∀ f ∈ [(6, o.sd.toNat), (6, o.sa.toNat), (12, o.bar.code)], f.2 < 2 ^ f.1 := by
  simp only [List.forall_mem_cons, List.not_mem_nil, false_imp_iff, implies_true, and_true]
  exact ⟨BitVec.isLt _, BitVec.isLt _, Bar.code_lt _⟩

theorem SBarw.enc_lt (o : SBarw) : o.enc < 2 ^ 24 := pack_lt _ o.fits

@[simp] theorem SBarw.dec_enc (o : SBarw) : SBarw.dec o.enc = .ok o := by
  have e : unpack [6, 6, 12] o.enc = [o.sd.toNat, o.sa.toNat, o.bar.code] := unpack_pack _ o.fits
  simp [SBarw.dec, e, Bar.code_middle]

theorem STbinit.fits (o : STbinit) : ∀ f ∈ [(6, 0), (6, o.sa.toNat), (6, 0), (6, o.tb.toNat)], f.2 < 2 ^ f.1 := by
  simp only [List.forall_mem_cons, List.not_mem_nil, false_imp_iff, implies_true, and_true]
  exact ⟨by decide, BitVec.isLt _, by decide, BitVec.isLt _⟩

theorem STbinit.enc_lt (o : STbinit) : o.enc < 2 ^ 24 := pack_lt _ o.fits

@[simp] theorem STbinit.dec_enc (o : STbinit) : STbinit.dec o.enc = .ok o := by
  have e : unpack [6, 6, 6, 6] o.enc = [0, o.sa.toNat, 0, o.tb.toNat] := unpack_pack _ o.fits
  simp [STbinit.dec, e]

theorem STbarr.fits (o : STbarr) : ∀ f ∈ [(6, o.sd.toNat), (6, 0), (6, 0), (6, o.tb.toNat)], f.2 < 2 ^ f.1 := by
  simp only [List.forall_mem_cons, List.not_mem_nil, false_imp_iff, implies_true, and_true]
  exact ⟨BitVec.isLt _, by decide, by decide, BitVec.isLt _⟩

theorem STbarr.enc_lt (o : STbarr) : o.enc < 2 ^ 24 := pack_lt _ o.fits

@[simp] theorem STbarr.dec_enc (o : STbarr) : STbarr.dec o.enc = .ok o := by
  have e : unpack [6, 6, 6, 6] o.enc = [o.sd.toNat, 0, 0, o.tb.toNat] := unpack_pack _ o.fits
  simp [STbarr.dec, e]

theorem STbwait.fits (o : STbwait) : ∀ f ∈ [(6, o.sd.toNat), (6, o.sa.toNat), (6, 0), (6, o.tb.toNat)], f.2 < 2 ^ f.1 := by
  simp only [List.forall_mem_cons, List.not_mem_nil, false_imp_iff, implies_true, and_true]
  exact ⟨BitVec.isLt _, BitVec.isLt _, by decide, BitVec.isLt _⟩

theorem STbwait.enc_lt (o : STbwait) : o.enc < 2 ^ 24 := pack_lt _ o.fits

@[simp] theorem STbwait.dec_enc (o : STbwait) : STbwait.dec o.enc = .ok o := by
  have e : unpack [6, 6, 6, 6] o.enc = [o.sd.toNat, o.sa.toNat, 0, o.tb.toNat] := unpack_pack _ o.fits
  simp [STbwait.dec, e]

theorem SWaitt.fits (o : SWaitt) : ∀ f ∈ [(6, o.sd.toNat), (9, 0), (1, o.any.toNat), (8, o.mask.toNat)], f.2 < 2 ^ f.1 := by
  simp only [List.forall_mem_cons, List.not_mem_nil, false_imp_iff, implies_true, and_true]
  exact ⟨BitVec.isLt _, by decide, Bool.toNat_lt _, BitVec.isLt _⟩

theorem SWaitt.enc_lt (o : SWaitt) : o.enc < 2 ^ 24 := pack_lt _ o.fits

@[simp] theorem SWaitt.dec_enc (o : SWaitt) : SWaitt.dec o.enc = .ok o := by
  have e : unpack [6, 9, 1, 8] o.enc = [o.sd.toNat, 0, o.any.toNat, o.mask.toNat] := unpack_pack _ o.fits
  simp [SWaitt.dec, e]

theorem SE.fits (o : SE) : ∀ f ∈ [(6, o.ra.toNat), (6, o.rb.toNat), (6, o.rc.toNat), (3, o.ct.toNat), (3, o.spol.toNat)], f.2 < 2 ^ f.1 := by
  simp only [List.forall_mem_cons, List.not_mem_nil, false_imp_iff, implies_true, and_true]
  exact ⟨BitVec.isLt _, BitVec.isLt _, BitVec.isLt _, BitVec.isLt _, BitVec.isLt _⟩

theorem SE.enc_lt (o : SE) : o.enc < 2 ^ 24 := pack_lt _ o.fits

@[simp] theorem SE.dec_enc (o : SE) : SE.dec o.enc = .ok o := by
  have e : unpack [6, 6, 6, 3, 3] o.enc = [o.ra.toNat, o.rb.toNat, o.rc.toNat, o.ct.toNat, o.spol.toNat] := unpack_pack _ o.fits
  simp [SE.dec, e]

theorem SX.fits (o : SX) : ∀ f ∈ [(4, o.mt.toNat), (6, o.va.toNat), (1, o.reuse.toNat), (6, o.sb.toNat), (3, o.ct.toNat), (4, 0)], f.2 < 2 ^ f.1 := by
  simp only [List.forall_mem_cons, List.not_mem_nil, false_imp_iff, implies_true, and_true]
  exact ⟨BitVec.isLt _, BitVec.isLt _, Bool.toNat_lt _, BitVec.isLt _, BitVec.isLt _, by decide⟩

theorem SX.enc_lt (o : SX) : o.enc < 2 ^ 24 := pack_lt _ o.fits

@[simp] theorem SX.dec_enc (o : SX) : SX.dec o.enc = .ok o := by
  have e : unpack [4, 6, 1, 6, 3, 4] o.enc = [o.mt.toNat, o.va.toNat, o.reuse.toNat, o.sb.toNat, o.ct.toNat, 0] := unpack_pack _ o.fits
  simp [SX.dec, e]

theorem SMld.fits (o : SMld) : ∀ f ∈ [(6, o.ra.toNat), (6, o.rb.toNat), (2, 0), (4, o.mt.toNat), (3, o.ct.toNat), (3, 0)], f.2 < 2 ^ f.1 := by
  simp only [List.forall_mem_cons, List.not_mem_nil, false_imp_iff, implies_true, and_true]
  exact ⟨BitVec.isLt _, BitVec.isLt _, by decide, BitVec.isLt _, BitVec.isLt _, by decide⟩

theorem SMld.enc_lt (o : SMld) : o.enc < 2 ^ 24 := pack_lt _ o.fits

@[simp] theorem SMld.dec_enc (o : SMld) : SMld.dec o.enc = .ok o := by
  have e : unpack [6, 6, 2, 4, 3, 3] o.enc = [o.ra.toNat, o.rb.toNat, 0, o.mt.toNat, o.ct.toNat, 0] := unpack_pack _ o.fits
  simp [SMld.dec, e]

theorem SMst.fits (o : SMst) : ∀ f ∈ [(6, o.ra.toNat), (6, o.rb.toNat), (2, 0), (4, o.mt.toNat), (3, o.ct.toNat), (3, o.f.code)], f.2 < 2 ^ f.1 := by
  simp only [List.forall_mem_cons, List.not_mem_nil, false_imp_iff, implies_true, and_true]
  exact ⟨BitVec.isLt _, BitVec.isLt _, by decide, BitVec.isLt _, BitVec.isLt _, StFmt.code_lt _⟩

theorem SMst.enc_lt (o : SMst) : o.enc < 2 ^ 24 := pack_lt _ o.fits

@[simp] theorem SMst.dec_enc (o : SMst) : SMst.dec o.enc = .ok o := by
  have e : unpack [6, 6, 2, 4, 3, 3] o.enc = [o.ra.toNat, o.rb.toNat, 0, o.mt.toNat, o.ct.toNat, o.f.code] := unpack_pack _ o.fits
  simp [SMst.dec, e]

theorem SMzero.fits (o : SMzero) : ∀ f ∈ [(6, 0), (6, 0), (2, 0), (4, o.mt.toNat), (3, o.ct.toNat), (3, 0)], f.2 < 2 ^ f.1 := by
  simp only [List.forall_mem_cons, List.not_mem_nil, false_imp_iff, implies_true, and_true]
  exact ⟨by decide, by decide, by decide, BitVec.isLt _, BitVec.isLt _, by decide⟩

theorem SMzero.enc_lt (o : SMzero) : o.enc < 2 ^ 24 := pack_lt _ o.fits

@[simp] theorem SMzero.dec_enc (o : SMzero) : SMzero.dec o.enc = .ok o := by
  have e : unpack [6, 6, 2, 4, 3, 3] o.enc = [0, 0, 0, o.mt.toNat, o.ct.toNat, 0] := unpack_pack _ o.fits
  simp [SMzero.dec, e]

theorem SMscl.fits (o : SMscl) : ∀ f ∈ [(6, o.ra.toNat), (6, o.rb.toNat), (6, o.rc.toNat), (6, 0)], f.2 < 2 ^ f.1 := by
  simp only [List.forall_mem_cons, List.not_mem_nil, false_imp_iff, implies_true, and_true]
  exact ⟨BitVec.isLt _, BitVec.isLt _, BitVec.isLt _, by decide⟩

theorem SMscl.enc_lt (o : SMscl) : o.enc < 2 ^ 24 := pack_lt _ o.fits

@[simp] theorem SMscl.dec_enc (o : SMscl) : SMscl.dec o.enc = .ok o := by
  have e : unpack [6, 6, 6, 6] o.enc = [o.ra.toNat, o.rb.toNat, o.rc.toNat, 0] := unpack_pack _ o.fits
  simp [SMscl.dec, e]

theorem SSysr.fits (o : SSysr) : ∀ f ∈ [(6, o.sd.toNat), (6, 0), (12, o.id.toNat)], f.2 < 2 ^ f.1 := by
  simp only [List.forall_mem_cons, List.not_mem_nil, false_imp_iff, implies_true, and_true]
  exact ⟨BitVec.isLt _, by decide, BitVec.isLt _⟩

theorem SSysr.enc_lt (o : SSysr) : o.enc < 2 ^ 24 := pack_lt _ o.fits

@[simp] theorem SSysr.dec_enc (o : SSysr) : SSysr.dec o.enc = .ok o := by
  have e : unpack [6, 6, 12] o.enc = [o.sd.toNat, 0, o.id.toNat] := unpack_pack _ o.fits
  simp [SSysr.dec, e]

theorem SSysw.fits (o : SSysw) : ∀ f ∈ [(6, 0), (6, o.sa.toNat), (12, o.id.toNat)], f.2 < 2 ^ f.1 := by
  simp only [List.forall_mem_cons, List.not_mem_nil, false_imp_iff, implies_true, and_true]
  exact ⟨by decide, BitVec.isLt _, BitVec.isLt _⟩

theorem SSysw.enc_lt (o : SSysw) : o.enc < 2 ^ 24 := pack_lt _ o.fits

@[simp] theorem SSysw.dec_enc (o : SSysw) : SSysw.dec o.enc = .ok o := by
  have e : unpack [6, 6, 12] o.enc = [0, o.sa.toNat, o.id.toNat] := unpack_pack _ o.fits
  simp [SSysw.dec, e]

theorem SRm.fits (o : SRm) : ∀ f ∈ [(6, o.sd.toNat), (6, o.sa.toNat), (1, o.reg.toNat), (7, 0), (4, o.value.toNat)], f.2 < 2 ^ f.1 := by
  simp only [List.forall_mem_cons, List.not_mem_nil, false_imp_iff, implies_true, and_true]
  exact ⟨BitVec.isLt _, BitVec.isLt _, Bool.toNat_lt _, by decide, BitVec.isLt _⟩

theorem SRm.enc_lt (o : SRm) : o.enc < 2 ^ 24 := pack_lt _ o.fits

@[simp] theorem SRm.dec_enc (o : SRm) : SRm.dec o.enc = .ok o := by
  have e : unpack [6, 6, 1, 7, 4] o.enc = [o.sd.toNat, o.sa.toNat, o.reg.toNat, 0, o.value.toNat] := unpack_pack _ o.fits
  simp [SRm.dec, e]

theorem SPr.fits (o : SPr) : ∀ f ∈ [(6, o.sd.toNat), (6, o.sa.toNat), (1, o.reg.toNat), (7, 0), (1, 0), (3, o.value.toNat)], f.2 < 2 ^ f.1 := by
  simp only [List.forall_mem_cons, List.not_mem_nil, false_imp_iff, implies_true, and_true]
  exact ⟨BitVec.isLt _, BitVec.isLt _, Bool.toNat_lt _, by decide, by decide, BitVec.isLt _⟩

theorem SPr.enc_lt (o : SPr) : o.enc < 2 ^ 24 := pack_lt _ o.fits

@[simp] theorem SPr.dec_enc (o : SPr) : SPr.dec o.enc = .ok o := by
  have e : unpack [6, 6, 1, 7, 1, 3] o.enc = [o.sd.toNat, o.sa.toNat, o.reg.toNat, 0, 0, o.value.toNat] := unpack_pack _ o.fits
  simp [SPr.dec, e]

theorem SCode.fits (o : SCode) : ∀ f ∈ [(12, 0), (12, o.code.toNat)], f.2 < 2 ^ f.1 := by
  simp only [List.forall_mem_cons, List.not_mem_nil, false_imp_iff, implies_true, and_true]
  exact ⟨by decide, BitVec.isLt _⟩

theorem SCode.enc_lt (o : SCode) : o.enc < 2 ^ 24 := pack_lt _ o.fits

@[simp] theorem SCode.dec_enc (o : SCode) : SCode.dec o.enc = .ok o := by
  have e : unpack [12, 12] o.enc = [0, o.code.toNat] := unpack_pack _ o.fits
  simp [SCode.dec, e]

/-! ## Modifiers that stand inside a layout's zero bits -/

theorem SR.enc_mod (o : SR) : o.enc % 64 = 0 := by
  simp only [SR.enc, pack, packLow, List.reverse_cons, List.reverse_nil, List.nil_append, List.cons_append]
  omega

theorem SU.enc_mod (o : SU) : o.enc % 64 = 0 := by
  simp only [SU.enc, pack, packLow, List.reverse_cons, List.reverse_nil, List.nil_append, List.cons_append]
  omega

theorem SBcset.enc_mod (o : SBcset) : o.enc / 8 % 8 = 0 := by
  have := o.spol.isLt
  simp only [SBcset.enc, pack, packLow, List.reverse_cons, List.reverse_nil, List.nil_append, List.cons_append]
  omega

theorem QFmt.code_low (x : QFmt) : x.code / 4 % 2 = 0 := by cases x <;> decide

theorem DFmt.code_high (x : DFmt) : x.code / 4 % 2 = 1 := by cases x <;> decide

theorem VQ.enc_form (o : VQ) : o.enc / 4 % 2 = 0 := by
  have h := o.f.code_low
  have := o.f.code_lt
  simp only [VQ.enc, pack, packLow, List.reverse_cons, List.reverse_nil, List.nil_append, List.cons_append]
  omega

theorem VD.enc_form (o : VD) : o.enc / 4 % 2 = 1 := by
  have h := o.f.code_high
  have := o.f.code_lt
  simp only [VD.enc, pack, packLow, List.reverse_cons, List.reverse_nil, List.nil_append, List.cons_append]
  omega

end Sys2Proof
end

