-- ==== Sys2Proof/Laws/PerInstr.lean ====
section
/-! SUPPORT. Facts about every instruction as syntax, one lemma per constructor. RoundTrip: the word of a well-formed
instruction decodes to that instruction; a step without an encoding has no word. -/

namespace Sys2Proof

/-- A word decodes to the instruction that its opcode's layout gives, when that breaks no constraint. -/
theorem decodeWord_word {i : Instr} {op n : Nat} (ho : op < 256) (hn : n < 2 ^ 24) (hd : decodeFields op n = .ok i)
    (hi : i.WellFormed) : decodeWord (word op n) = .ok i := by
  have hi' : i.constraint = none := hi
  rw [decodeWord, word_op op n ho hn, word_fields op n ho hn, hd]
  simp only [checkFields, hi']

/-- The step from an instruction's encoding to its round trip. -/
theorem roundTrip_word {i : Instr} {op n : Nat} (he : encode i = some (word op n)) (ho : op < 256) (hn : n < 2 ^ 24)
    (hd : i.WellFormed → decodeFields op n = .ok i) (w : Word) (hi : i.WellFormed) (h : encode i = some w) :
    decodeWord w = .ok i := by
  rw [he] at h
  cases h
  exact decodeWord_word ho hn (hd hi) hi

theorem roundTrip_none {i : Instr} (he : encode i = none) (w : Word) (_ : i.WellFormed) (h : encode i = some w) :
    decodeWord w = .ok i := by
  rw [he] at h
  cases h

/-- The word of a well-formed instruction decodes to it, with every operand. -/
def Laws.RoundTrip.Statement (i : Instr) : Prop := ∀ w : Word, i.WellFormed → encode i = some w → decodeWord w = .ok i

theorem Laws.RoundTrip.vadd (o : VR) : Statement (.vadd o) :=
  roundTrip_word rfl (by decide) o.enc_lt fun _ => congrArg (Except.map Instr.vadd) (VR.dec_enc o)

theorem Laws.RoundTrip.vsub (o : VR) : Statement (.vsub o) :=
  roundTrip_word rfl (by decide) o.enc_lt fun _ => congrArg (Except.map Instr.vsub) (VR.dec_enc o)

theorem Laws.RoundTrip.vmul (o : VR) : Statement (.vmul o) :=
  roundTrip_word rfl (by decide) o.enc_lt fun _ => congrArg (Except.map Instr.vmul) (VR.dec_enc o)

theorem Laws.RoundTrip.vmulh (o : VR) : Statement (.vmulh o) :=
  roundTrip_word rfl (by decide) o.enc_lt fun _ => congrArg (Except.map Instr.vmulh) (VR.dec_enc o)

theorem Laws.RoundTrip.vmulhn (o : VR) : Statement (.vmulhn o) :=
  roundTrip_word rfl (by decide) o.enc_lt fun _ => congrArg (Except.map Instr.vmulhn) (VR.dec_enc o)

theorem Laws.RoundTrip.vmad (o : VR) : Statement (.vmad o) :=
  roundTrip_word rfl (by decide) o.enc_lt fun _ => congrArg (Except.map Instr.vmad) (VR.dec_enc o)

theorem Laws.RoundTrip.vmin (o : VR) : Statement (.vmin o) :=
  roundTrip_word rfl (by decide) o.enc_lt fun _ => congrArg (Except.map Instr.vmin) (VR.dec_enc o)

theorem Laws.RoundTrip.vmax (o : VR) : Statement (.vmax o) :=
  roundTrip_word rfl (by decide) o.enc_lt fun _ => congrArg (Except.map Instr.vmax) (VR.dec_enc o)

theorem Laws.RoundTrip.vminn (o : VR) : Statement (.vminn o) :=
  roundTrip_word rfl (by decide) o.enc_lt fun _ => congrArg (Except.map Instr.vminn) (VR.dec_enc o)

theorem Laws.RoundTrip.vmaxn (o : VR) : Statement (.vmaxn o) :=
  roundTrip_word rfl (by decide) o.enc_lt fun _ => congrArg (Except.map Instr.vmaxn) (VR.dec_enc o)

theorem Laws.RoundTrip.vand (o : VR) : Statement (.vand o) :=
  roundTrip_word rfl (by decide) o.enc_lt fun _ => congrArg (Except.map Instr.vand) (VR.dec_enc o)

theorem Laws.RoundTrip.vor (o : VR) : Statement (.vor o) :=
  roundTrip_word rfl (by decide) o.enc_lt fun _ => congrArg (Except.map Instr.vor) (VR.dec_enc o)

theorem Laws.RoundTrip.vxor (o : VR) : Statement (.vxor o) :=
  roundTrip_word rfl (by decide) o.enc_lt fun _ => congrArg (Except.map Instr.vxor) (VR.dec_enc o)

theorem Laws.RoundTrip.vandn (o : VR) : Statement (.vandn o) :=
  roundTrip_word rfl (by decide) o.enc_lt fun _ => congrArg (Except.map Instr.vandn) (VR.dec_enc o)

theorem Laws.RoundTrip.vshl (o : VR) : Statement (.vshl o) :=
  roundTrip_word rfl (by decide) o.enc_lt fun _ => congrArg (Except.map Instr.vshl) (VR.dec_enc o)

theorem Laws.RoundTrip.vshr (o : VR) : Statement (.vshr o) :=
  roundTrip_word rfl (by decide) o.enc_lt fun _ => congrArg (Except.map Instr.vshr) (VR.dec_enc o)

theorem Laws.RoundTrip.vsar (o : VR) : Statement (.vsar o) :=
  roundTrip_word rfl (by decide) o.enc_lt fun _ => congrArg (Except.map Instr.vsar) (VR.dec_enc o)

theorem Laws.RoundTrip.vrot (o : VR) : Statement (.vrot o) :=
  roundTrip_word rfl (by decide) o.enc_lt fun _ => congrArg (Except.map Instr.vrot) (VR.dec_enc o)

theorem Laws.RoundTrip.vaddc (o : VR) : Statement (.vaddc o) :=
  roundTrip_word rfl (by decide) o.enc_lt fun _ => congrArg (Except.map Instr.vaddc) (VR.dec_enc o)

theorem Laws.RoundTrip.vsubb (o : VR) : Statement (.vsubb o) :=
  roundTrip_word rfl (by decide) o.enc_lt fun _ => congrArg (Except.map Instr.vsubb) (VR.dec_enc o)

theorem Laws.RoundTrip.vabsd (o : VR) : Statement (.vabsd o) :=
  roundTrip_word rfl (by decide) o.enc_lt fun _ => congrArg (Except.map Instr.vabsd) (VR.dec_enc o)

theorem Laws.RoundTrip.vclz (o : VU) : Statement (.vclz o) :=
  roundTrip_word rfl (by decide) o.enc_lt fun _ => congrArg (Except.map Instr.vclz) (VU.dec_enc o)

theorem Laws.RoundTrip.vpopc (o : VU) : Statement (.vpopc o) :=
  roundTrip_word rfl (by decide) o.enc_lt fun _ => congrArg (Except.map Instr.vpopc) (VU.dec_enc o)

theorem Laws.RoundTrip.vbrev (o : VU) : Statement (.vbrev o) :=
  roundTrip_word rfl (by decide) o.enc_lt fun _ => congrArg (Except.map Instr.vbrev) (VU.dec_enc o)

theorem Laws.RoundTrip.vsel (o : VR) : Statement (.vsel o) :=
  roundTrip_word rfl (by decide) o.enc_lt fun _ => congrArg (Except.map Instr.vsel) (VR.dec_enc o)

theorem Laws.RoundTrip.vmov (o : VU) : Statement (.vmov o) :=
  roundTrip_word rfl (by decide) o.enc_lt fun _ => congrArg (Except.map Instr.vmov) (VU.dec_enc o)

theorem Laws.RoundTrip.vbfx (o : VR) : Statement (.vbfx o) :=
  roundTrip_word rfl (by decide) o.enc_lt fun _ => congrArg (Except.map Instr.vbfx) (VR.dec_enc o)

theorem Laws.RoundTrip.vbfi (o : VR) : Statement (.vbfi o) :=
  roundTrip_word rfl (by decide) o.enc_lt fun _ => congrArg (Except.map Instr.vbfi) (VR.dec_enc o)

theorem Laws.RoundTrip.vadds (o : VR) : Statement (.vadds o) :=
  roundTrip_word rfl (by decide) o.enc_lt fun _ => congrArg (Except.map Instr.vadds) (VR.dec_enc o)

theorem Laws.RoundTrip.vsubs (o : VR) : Statement (.vsubs o) :=
  roundTrip_word rfl (by decide) o.enc_lt fun _ => congrArg (Except.map Instr.vsubs) (VR.dec_enc o)

theorem Laws.RoundTrip.vdiv (o : VR) : Statement (.vdiv o) :=
  roundTrip_word rfl (by decide) o.enc_lt fun _ => congrArg (Except.map Instr.vdiv) (VR.dec_enc o)

theorem Laws.RoundTrip.vrem (o : VR) : Statement (.vrem o) :=
  roundTrip_word rfl (by decide) o.enc_lt fun _ => congrArg (Except.map Instr.vrem) (VR.dec_enc o)

theorem Laws.RoundTrip.vcmp (o : VC) : Statement (.vcmp o) :=
  roundTrip_word rfl (by decide) o.enc_lt fun _ => congrArg (Except.map Instr.vcmp) (VC.dec_enc o)

theorem Laws.RoundTrip.vcmpf (o : VC) : Statement (.vcmpf o) :=
  roundTrip_word rfl (by decide) o.enc_lt fun _ => congrArg (Except.map Instr.vcmpf) (VC.dec_enc o)

theorem Laws.RoundTrip.vpop (o : VU) : Statement (.vpop o) :=
  roundTrip_word rfl (by decide) o.enc_lt fun _ => congrArg (Except.map Instr.vpop) (VU.dec_enc o)

theorem Laws.RoundTrip.vp2v (o : VP) : Statement (.vp2v o) :=
  roundTrip_word rfl (by decide) o.enc_lt fun _ => congrArg (Except.map Instr.vp2v) (VP.dec_enc o)

theorem Laws.RoundTrip.vv2p (o : VV) : Statement (.vv2p o) :=
  roundTrip_word rfl (by decide) o.enc_lt fun h => congrArg (Except.map Instr.vv2p) (VV.dec_enc o fun ha => by
    simpa [Instr.WellFormed, Instr.constraint, ha] using h)

theorem Laws.RoundTrip.vfcls (o : VU) : Statement (.vfcls o) :=
  roundTrip_word rfl (by decide) o.enc_lt fun _ => congrArg (Except.map Instr.vfcls) (VU.dec_enc o)

theorem Laws.RoundTrip.fadd (o : VR) : Statement (.fadd o) :=
  roundTrip_word rfl (by decide) o.enc_lt fun _ => congrArg (Except.map Instr.fadd) (VR.dec_enc o)

theorem Laws.RoundTrip.fsub (o : VR) : Statement (.fsub o) :=
  roundTrip_word rfl (by decide) o.enc_lt fun _ => congrArg (Except.map Instr.fsub) (VR.dec_enc o)

theorem Laws.RoundTrip.fmul (o : VR) : Statement (.fmul o) :=
  roundTrip_word rfl (by decide) o.enc_lt fun _ => congrArg (Except.map Instr.fmul) (VR.dec_enc o)

theorem Laws.RoundTrip.ffma (o : VR) : Statement (.ffma o) :=
  roundTrip_word rfl (by decide) o.enc_lt fun _ => congrArg (Except.map Instr.ffma) (VR.dec_enc o)

theorem Laws.RoundTrip.fnma (o : VR) : Statement (.fnma o) :=
  roundTrip_word rfl (by decide) o.enc_lt fun _ => congrArg (Except.map Instr.fnma) (VR.dec_enc o)

theorem Laws.RoundTrip.fmin (o : VR) : Statement (.fmin o) :=
  roundTrip_word rfl (by decide) o.enc_lt fun _ => congrArg (Except.map Instr.fmin) (VR.dec_enc o)

theorem Laws.RoundTrip.fmax (o : VR) : Statement (.fmax o) :=
  roundTrip_word rfl (by decide) o.enc_lt fun _ => congrArg (Except.map Instr.fmax) (VR.dec_enc o)

theorem Laws.RoundTrip.fneg (o : VU) : Statement (.fneg o) :=
  roundTrip_word rfl (by decide) o.enc_lt fun _ => congrArg (Except.map Instr.fneg) (VU.dec_enc o)

theorem Laws.RoundTrip.fabs (o : VU) : Statement (.fabs o) :=
  roundTrip_word rfl (by decide) o.enc_lt fun _ => congrArg (Except.map Instr.fabs) (VU.dec_enc o)

theorem Laws.RoundTrip.frcp (o : VU) : Statement (.frcp o) :=
  roundTrip_word rfl (by decide) o.enc_lt fun _ => congrArg (Except.map Instr.frcp) (VU.dec_enc o)

theorem Laws.RoundTrip.frsq (o : VU) : Statement (.frsq o) :=
  roundTrip_word rfl (by decide) o.enc_lt fun _ => congrArg (Except.map Instr.frsq) (VU.dec_enc o)

theorem Laws.RoundTrip.fsqrt (o : VU) : Statement (.fsqrt o) :=
  roundTrip_word rfl (by decide) o.enc_lt fun _ => congrArg (Except.map Instr.fsqrt) (VU.dec_enc o)

theorem Laws.RoundTrip.fexp2 (o : VU) : Statement (.fexp2 o) :=
  roundTrip_word rfl (by decide) o.enc_lt fun _ => congrArg (Except.map Instr.fexp2) (VU.dec_enc o)

theorem Laws.RoundTrip.flog2 (o : VU) : Statement (.flog2 o) :=
  roundTrip_word rfl (by decide) o.enc_lt fun _ => congrArg (Except.map Instr.flog2) (VU.dec_enc o)

theorem Laws.RoundTrip.frint (o : VU) : Statement (.frint o) :=
  roundTrip_word rfl (by decide) o.enc_lt fun _ => congrArg (Except.map Instr.frint) (VU.dec_enc o)

theorem Laws.RoundTrip.fscale (o : VR) : Statement (.fscale o) :=
  roundTrip_word rfl (by decide) o.enc_lt fun _ => congrArg (Except.map Instr.fscale) (VR.dec_enc o)

theorem Laws.RoundTrip.hadd2 (o : VR) : Statement (.hadd2 o) :=
  roundTrip_word rfl (by decide) o.enc_lt fun _ => congrArg (Except.map Instr.hadd2) (VR.dec_enc o)

theorem Laws.RoundTrip.hmul2 (o : VR) : Statement (.hmul2 o) :=
  roundTrip_word rfl (by decide) o.enc_lt fun _ => congrArg (Except.map Instr.hmul2) (VR.dec_enc o)

theorem Laws.RoundTrip.hfma2 (o : VR) : Statement (.hfma2 o) :=
  roundTrip_word rfl (by decide) o.enc_lt fun _ => congrArg (Except.map Instr.hfma2) (VR.dec_enc o)

theorem Laws.RoundTrip.badd2 (o : VR) : Statement (.badd2 o) :=
  roundTrip_word rfl (by decide) o.enc_lt fun _ => congrArg (Except.map Instr.badd2) (VR.dec_enc o)

theorem Laws.RoundTrip.bmul2 (o : VR) : Statement (.bmul2 o) :=
  roundTrip_word rfl (by decide) o.enc_lt fun _ => congrArg (Except.map Instr.bmul2) (VR.dec_enc o)

theorem Laws.RoundTrip.bfma2 (o : VR) : Statement (.bfma2 o) :=
  roundTrip_word rfl (by decide) o.enc_lt fun _ => congrArg (Except.map Instr.bfma2) (VR.dec_enc o)

theorem Laws.RoundTrip.fdiv (o : VR) : Statement (.fdiv o) :=
  roundTrip_word rfl (by decide) o.enc_lt fun _ => congrArg (Except.map Instr.fdiv) (VR.dec_enc o)

theorem Laws.RoundTrip.cvt (o : VCvt) : Statement (.cvt o) :=
  roundTrip_word rfl (by decide) o.enc_lt fun _ => congrArg (Except.map Instr.cvt) (VCvt.dec_enc o)

theorem Laws.RoundTrip.cvtscQ (o : VQ) : Statement (.cvtscQ o) :=
  roundTrip_word rfl (by decide) o.enc_lt fun _ => by
    show decodeCvtsc o.enc = _
    simp [decodeCvtsc, VQ.enc_form o, Except.map]

theorem Laws.RoundTrip.cvtscD (o : VD) : Statement (.cvtscD o) :=
  roundTrip_word rfl (by decide) o.enc_lt fun _ => by
    show decodeCvtsc o.enc = _
    simp [decodeCvtsc, VD.enc_form o, Except.map]

theorem Laws.RoundTrip.pack (o : VPack) : Statement (.pack o) :=
  roundTrip_word rfl (by decide) o.enc_lt fun _ => congrArg (Except.map Instr.pack) (VPack.dec_enc o)

theorem Laws.RoundTrip.unpk (o : VUnpk) : Statement (.unpk o) :=
  roundTrip_word rfl (by decide) o.enc_lt fun _ => congrArg (Except.map Instr.unpk) (VUnpk.dec_enc o)

theorem Laws.RoundTrip.dot4i8 (o : VR) : Statement (.dot4i8 o) :=
  roundTrip_word rfl (by decide) o.enc_lt fun _ => congrArg (Except.map Instr.dot4i8) (VR.dec_enc o)

theorem Laws.RoundTrip.dot4n8 (o : VR) : Statement (.dot4n8 o) :=
  roundTrip_word rfl (by decide) o.enc_lt fun _ => congrArg (Except.map Instr.dot4n8) (VR.dec_enc o)

theorem Laws.RoundTrip.dot8i4 (o : VR) : Statement (.dot8i4 o) :=
  roundTrip_word rfl (by decide) o.enc_lt fun _ => congrArg (Except.map Instr.dot8i4) (VR.dec_enc o)

theorem Laws.RoundTrip.dot4e4 (o : VR) : Statement (.dot4e4 o) :=
  roundTrip_word rfl (by decide) o.enc_lt fun _ => congrArg (Except.map Instr.dot4e4) (VR.dec_enc o)

theorem Laws.RoundTrip.dot4e5 (o : VR) : Statement (.dot4e5 o) :=
  roundTrip_word rfl (by decide) o.enc_lt fun _ => congrArg (Except.map Instr.dot4e5) (VR.dec_enc o)

theorem Laws.RoundTrip.dot8f4 (o : VR) : Statement (.dot8f4 o) :=
  roundTrip_word rfl (by decide) o.enc_lt fun _ => congrArg (Except.map Instr.dot8f4) (VR.dec_enc o)

theorem Laws.RoundTrip.qscale (o : VQ) : Statement (.qscale o) :=
  roundTrip_word rfl (by decide) o.enc_lt fun _ => congrArg (Except.map Instr.qscale) (VQ.dec_enc o)

theorem Laws.RoundTrip.i2f (o : VInt) : Statement (.i2f o) :=
  roundTrip_word rfl (by decide) o.enc_lt fun _ => congrArg (Except.map Instr.i2f) (VInt.dec_enc o)

theorem Laws.RoundTrip.f2i (o : VInt) : Statement (.f2i o) :=
  roundTrip_word rfl (by decide) o.enc_lt fun _ => congrArg (Except.map Instr.f2i) (VInt.dec_enc o)

theorem Laws.RoundTrip.xshfl (o : VR) : Statement (.xshfl o) :=
  roundTrip_word rfl (by decide) o.enc_lt fun _ => congrArg (Except.map Instr.xshfl) (VR.dec_enc o)

theorem Laws.RoundTrip.xup (o : VR) : Statement (.xup o) :=
  roundTrip_word rfl (by decide) o.enc_lt fun _ => congrArg (Except.map Instr.xup) (VR.dec_enc o)

theorem Laws.RoundTrip.xdn (o : VR) : Statement (.xdn o) :=
  roundTrip_word rfl (by decide) o.enc_lt fun _ => congrArg (Except.map Instr.xdn) (VR.dec_enc o)

theorem Laws.RoundTrip.xbfly (o : VR) : Statement (.xbfly o) :=
  roundTrip_word rfl (by decide) o.enc_lt fun _ => congrArg (Except.map Instr.xbfly) (VR.dec_enc o)

theorem Laws.RoundTrip.xbcast (o : VR) : Statement (.xbcast o) :=
  roundTrip_word rfl (by decide) o.enc_lt fun _ => congrArg (Except.map Instr.xbcast) (VR.dec_enc o)

theorem Laws.RoundTrip.xscan (o : VR) : Statement (.xscan o) :=
  roundTrip_word rfl (by decide) o.enc_lt fun _ => congrArg (Except.map Instr.xscan) (VR.dec_enc o)

theorem Laws.RoundTrip.vaddi (o : VI) : Statement (.vaddi o) :=
  roundTrip_word rfl (by decide) o.enc_lt fun _ => congrArg (Except.map Instr.vaddi) (VI.dec_enc o)

theorem Laws.RoundTrip.vandi (o : VI) : Statement (.vandi o) :=
  roundTrip_word rfl (by decide) o.enc_lt fun _ => congrArg (Except.map Instr.vandi) (VI.dec_enc o)

theorem Laws.RoundTrip.vori (o : VI) : Statement (.vori o) :=
  roundTrip_word rfl (by decide) o.enc_lt fun _ => congrArg (Except.map Instr.vori) (VI.dec_enc o)

theorem Laws.RoundTrip.vxori (o : VI) : Statement (.vxori o) :=
  roundTrip_word rfl (by decide) o.enc_lt fun _ => congrArg (Except.map Instr.vxori) (VI.dec_enc o)

theorem Laws.RoundTrip.vshli (o : VI) : Statement (.vshli o) :=
  roundTrip_word rfl (by decide) o.enc_lt fun _ => congrArg (Except.map Instr.vshli) (VI.dec_enc o)

theorem Laws.RoundTrip.vshri (o : VI) : Statement (.vshri o) :=
  roundTrip_word rfl (by decide) o.enc_lt fun _ => congrArg (Except.map Instr.vshri) (VI.dec_enc o)

theorem Laws.RoundTrip.vsari (o : VI) : Statement (.vsari o) :=
  roundTrip_word rfl (by decide) o.enc_lt fun _ => congrArg (Except.map Instr.vsari) (VI.dec_enc o)

theorem Laws.RoundTrip.vldi (o : VI) : Statement (.vldi o) :=
  roundTrip_word rfl (by decide) o.enc_lt fun _ => congrArg (Except.map Instr.vldi) (VI.dec_enc o)

theorem Laws.RoundTrip.ldl (o : VM) : Statement (.ldl o) :=
  roundTrip_word rfl (by decide) o.enc_lt fun _ => congrArg (Except.map Instr.ldl) (VM.dec_enc o)

theorem Laws.RoundTrip.stl (o : VM) : Statement (.stl o) :=
  roundTrip_word rfl (by decide) o.enc_lt fun _ => congrArg (Except.map Instr.stl) (VM.dec_enc o)

theorem Laws.RoundTrip.ldc (o : VM) : Statement (.ldc o) :=
  roundTrip_word rfl (by decide) o.enc_lt fun _ => congrArg (Except.map Instr.ldc) (VM.dec_enc o)

theorem Laws.RoundTrip.stc (o : VM) : Statement (.stc o) :=
  roundTrip_word rfl (by decide) o.enc_lt fun _ => congrArg (Except.map Instr.stc) (VM.dec_enc o)

theorem Laws.RoundTrip.ldf (o : VM) : Statement (.ldf o) :=
  roundTrip_word rfl (by decide) o.enc_lt fun _ => congrArg (Except.map Instr.ldf) (VM.dec_enc o)

theorem Laws.RoundTrip.stf (o : VM) : Statement (.stf o) :=
  roundTrip_word rfl (by decide) o.enc_lt fun _ => congrArg (Except.map Instr.stf) (VM.dec_enc o)

theorem Laws.RoundTrip.ldd (o : VM) : Statement (.ldd o) :=
  roundTrip_word rfl (by decide) o.enc_lt fun _ => congrArg (Except.map Instr.ldd) (VM.dec_enc o)

theorem Laws.RoundTrip.std (o : VM) : Statement (.std o) :=
  roundTrip_word rfl (by decide) o.enc_lt fun _ => congrArg (Except.map Instr.std) (VM.dec_enc o)

theorem Laws.RoundTrip.ldg (o : VM) : Statement (.ldg o) :=
  roundTrip_word rfl (by decide) o.enc_lt fun _ => congrArg (Except.map Instr.ldg) (VM.dec_enc o)

theorem Laws.RoundTrip.stg (o : VM) : Statement (.stg o) :=
  roundTrip_word rfl (by decide) o.enc_lt fun _ => congrArg (Except.map Instr.stg) (VM.dec_enc o)

theorem Laws.RoundTrip.atomg (o : VA) : Statement (.atomg o) :=
  roundTrip_word rfl (by decide) o.enc_lt fun _ => congrArg (Except.map Instr.atomg) (VA.dec_enc o)

theorem Laws.RoundTrip.atomgn (o : VA) : Statement (.atomgn o) :=
  roundTrip_word rfl (by decide) o.enc_lt fun _ => congrArg (Except.map Instr.atomgn) (VA.dec_enc o)

theorem Laws.RoundTrip.casg (o : VW) : Statement (.casg o) :=
  roundTrip_word rfl (by decide) o.enc_lt fun _ => congrArg (Except.map Instr.casg) (VW.dec_enc o)

theorem Laws.RoundTrip.xchg (o : VW) : Statement (.xchg o) :=
  roundTrip_word rfl (by decide) o.enc_lt fun _ => congrArg (Except.map Instr.xchg) (VW.dec_enc o)

theorem Laws.RoundTrip.faddg (o : VF) : Statement (.faddg o) :=
  roundTrip_word rfl (by decide) o.enc_lt fun _ => congrArg (Except.map Instr.faddg) (VF.dec_enc o)

theorem Laws.RoundTrip.atomc (o : VA) : Statement (.atomc o) :=
  roundTrip_word rfl (by decide) o.enc_lt fun _ => congrArg (Except.map Instr.atomc) (VA.dec_enc o)

theorem Laws.RoundTrip.sadd (o : SR) : Statement (.sadd o) :=
  roundTrip_word rfl (by decide) o.enc_lt fun _ => congrArg (Except.map Instr.sadd) (SR.dec_enc o)

theorem Laws.RoundTrip.ssub (o : SR) : Statement (.ssub o) :=
  roundTrip_word rfl (by decide) o.enc_lt fun _ => congrArg (Except.map Instr.ssub) (SR.dec_enc o)

theorem Laws.RoundTrip.smul (o : SR) : Statement (.smul o) :=
  roundTrip_word rfl (by decide) o.enc_lt fun _ => congrArg (Except.map Instr.smul) (SR.dec_enc o)

theorem Laws.RoundTrip.smulh (o : SN) : Statement (.smulh o) :=
  roundTrip_word rfl (by decide) o.enc_lt fun _ => congrArg (Except.map Instr.smulh) (SN.dec_enc o)

theorem Laws.RoundTrip.sand (o : SR) : Statement (.sand o) :=
  roundTrip_word rfl (by decide) o.enc_lt fun _ => congrArg (Except.map Instr.sand) (SR.dec_enc o)

theorem Laws.RoundTrip.sor (o : SR) : Statement (.sor o) :=
  roundTrip_word rfl (by decide) o.enc_lt fun _ => congrArg (Except.map Instr.sor) (SR.dec_enc o)

theorem Laws.RoundTrip.sxor (o : SR) : Statement (.sxor o) :=
  roundTrip_word rfl (by decide) o.enc_lt fun _ => congrArg (Except.map Instr.sxor) (SR.dec_enc o)

theorem Laws.RoundTrip.sshl (o : SR) : Statement (.sshl o) :=
  roundTrip_word rfl (by decide) o.enc_lt fun _ => congrArg (Except.map Instr.sshl) (SR.dec_enc o)

theorem Laws.RoundTrip.sshr (o : SR) : Statement (.sshr o) :=
  roundTrip_word rfl (by decide) o.enc_lt fun _ => congrArg (Except.map Instr.sshr) (SR.dec_enc o)

theorem Laws.RoundTrip.ssar (o : SR) : Statement (.ssar o) :=
  roundTrip_word rfl (by decide) o.enc_lt fun _ => congrArg (Except.map Instr.ssar) (SR.dec_enc o)

theorem Laws.RoundTrip.smin (o : SN) : Statement (.smin o) :=
  roundTrip_word rfl (by decide) o.enc_lt fun _ => congrArg (Except.map Instr.smin) (SN.dec_enc o)

theorem Laws.RoundTrip.smax (o : SN) : Statement (.smax o) :=
  roundTrip_word rfl (by decide) o.enc_lt fun _ => congrArg (Except.map Instr.smax) (SN.dec_enc o)

theorem Laws.RoundTrip.scmp (o : SC) : Statement (.scmp o) :=
  roundTrip_word rfl (by decide) o.enc_lt fun _ => congrArg (Except.map Instr.scmp) (SC.dec_enc o)

theorem Laws.RoundTrip.spopc (o : SU) : Statement (.spopc o) :=
  roundTrip_word rfl (by decide) o.enc_lt fun _ => congrArg (Except.map Instr.spopc) (SU.dec_enc o)

theorem Laws.RoundTrip.sclz (o : SU) : Statement (.sclz o) :=
  roundTrip_word rfl (by decide) o.enc_lt fun _ => congrArg (Except.map Instr.sclz) (SU.dec_enc o)

theorem Laws.RoundTrip.smov (o : SU) : Statement (.smov o) :=
  roundTrip_word rfl (by decide) o.enc_lt fun _ => congrArg (Except.map Instr.smov) (SU.dec_enc o)

theorem Laws.RoundTrip.saddi (o : SI) : Statement (.saddi o) :=
  roundTrip_word rfl (by decide) o.enc_lt fun _ => congrArg (Except.map Instr.saddi) (SI.dec_enc o)

theorem Laws.RoundTrip.sandi (o : SI) : Statement (.sandi o) :=
  roundTrip_word rfl (by decide) o.enc_lt fun _ => congrArg (Except.map Instr.sandi) (SI.dec_enc o)

theorem Laws.RoundTrip.sori (o : SI) : Statement (.sori o) :=
  roundTrip_word rfl (by decide) o.enc_lt fun _ => congrArg (Except.map Instr.sori) (SI.dec_enc o)

theorem Laws.RoundTrip.sxori (o : SI) : Statement (.sxori o) :=
  roundTrip_word rfl (by decide) o.enc_lt fun _ => congrArg (Except.map Instr.sxori) (SI.dec_enc o)

theorem Laws.RoundTrip.sshli (o : SI) : Statement (.sshli o) :=
  roundTrip_word rfl (by decide) o.enc_lt fun _ => congrArg (Except.map Instr.sshli) (SI.dec_enc o)

theorem Laws.RoundTrip.sshri (o : SI) : Statement (.sshri o) :=
  roundTrip_word rfl (by decide) o.enc_lt fun _ => congrArg (Except.map Instr.sshri) (SI.dec_enc o)

theorem Laws.RoundTrip.sldi (o : SL) : Statement (.sldi o) :=
  roundTrip_word rfl (by decide) o.enc_lt fun _ => congrArg (Except.map Instr.sldi) (SL.dec_enc o)

theorem Laws.RoundTrip.sldu (o : SL) : Statement (.sldu o) :=
  roundTrip_word rfl (by decide) o.enc_lt fun _ => congrArg (Except.map Instr.sldu) (SL.dec_enc o)

theorem Laws.RoundTrip.hmake (o : SR) : Statement (.hmake o) :=
  roundTrip_word rfl (by decide) o.enc_lt fun _ => congrArg (Except.map Instr.hmake) (SR.dec_enc o)

theorem Laws.RoundTrip.haddo (o : SR) : Statement (.haddo o) :=
  roundTrip_word rfl (by decide) o.enc_lt fun _ => congrArg (Except.map Instr.haddo) (SR.dec_enc o)

theorem Laws.RoundTrip.redadd (o : SRed) : Statement (.redadd o) :=
  roundTrip_word rfl (by decide) o.enc_lt fun _ => congrArg (Except.map Instr.redadd) (SRed.dec_enc o)

theorem Laws.RoundTrip.redmin (o : SRed) : Statement (.redmin o) :=
  roundTrip_word rfl (by decide) o.enc_lt fun _ => congrArg (Except.map Instr.redmin) (SRed.dec_enc o)

theorem Laws.RoundTrip.redmax (o : SRed) : Statement (.redmax o) :=
  roundTrip_word rfl (by decide) o.enc_lt fun _ => congrArg (Except.map Instr.redmax) (SRed.dec_enc o)

theorem Laws.RoundTrip.redfadd (o : SRedF) : Statement (.redfadd o) :=
  roundTrip_word rfl (by decide) o.enc_lt fun _ => congrArg (Except.map Instr.redfadd) (SRedF.dec_enc o)

theorem Laws.RoundTrip.ballot (o : SRedF) : Statement (.ballot o) :=
  roundTrip_word rfl (by decide) o.enc_lt fun _ => congrArg (Except.map Instr.ballot) (SRedF.dec_enc o)

theorem Laws.RoundTrip.anyl (o : SAny) : Statement (.anyl o) :=
  roundTrip_word rfl (by decide) o.enc_lt fun _ => congrArg (Except.map Instr.anyl) (SAny.dec_enc o)

theorem Laws.RoundTrip.vbcs (o : SBcs) : Statement (.vbcs o) :=
  roundTrip_word rfl (by decide) o.enc_lt fun _ => congrArg (Except.map Instr.vbcs) (SBcs.dec_enc o)

theorem Laws.RoundTrip.vgetl (o : SLane) : Statement (.vgetl o) :=
  roundTrip_word rfl (by decide) o.enc_lt fun _ => congrArg (Except.map Instr.vgetl) (SLane.dec_enc o)

theorem Laws.RoundTrip.vsetl (o : SLane) : Statement (.vsetl o) :=
  roundTrip_word rfl (by decide) o.enc_lt fun _ => congrArg (Except.map Instr.vsetl) (SLane.dec_enc o)

theorem Laws.RoundTrip.bra (o : SJ) : Statement (.bra o) :=
  roundTrip_word rfl (by decide) o.enc_lt fun _ => congrArg (Except.map Instr.bra) (SJ.dec_enc o)

theorem Laws.RoundTrip.bz (o : SB) : Statement (.bz o) :=
  roundTrip_word rfl (by decide) o.enc_lt fun _ => congrArg (Except.map Instr.bz) (SB.dec_enc o)

theorem Laws.RoundTrip.bnz (o : SB) : Statement (.bnz o) :=
  roundTrip_word rfl (by decide) o.enc_lt fun _ => congrArg (Except.map Instr.bnz) (SB.dec_enc o)

theorem Laws.RoundTrip.call (o : SJ) : Statement (.call o) :=
  roundTrip_word rfl (by decide) o.enc_lt fun _ => congrArg (Except.map Instr.call) (SJ.dec_enc o)

theorem Laws.RoundTrip.ret (o : S1) : Statement (.ret o) :=
  roundTrip_word rfl (by decide) o.enc_lt fun _ => congrArg (Except.map Instr.ret) (S1.dec_enc o)

theorem Laws.RoundTrip.jmpi (o : SU) : Statement (.jmpi o) :=
  roundTrip_word rfl (by decide) o.enc_lt fun _ => congrArg (Except.map Instr.jmpi) (SU.dec_enc o)

theorem Laws.RoundTrip.rpush (o : SJ) : Statement (.rpush o) :=
  roundTrip_word rfl (by decide) o.enc_lt fun _ => congrArg (Except.map Instr.rpush) (SJ.dec_enc o)

theorem Laws.RoundTrip.brv (o : SPB) : Statement (.brv o) :=
  roundTrip_word rfl (by decide) o.enc_lt fun _ => congrArg (Except.map Instr.brv) (SPB.dec_enc o)

theorem Laws.RoundTrip.rjoin : Statement .rjoin :=
  roundTrip_word rfl (by decide) (by decide) fun _ => rfl

theorem Laws.RoundTrip.lpush (o : SJ) : Statement (.lpush o) :=
  roundTrip_word rfl (by decide) o.enc_lt fun _ => congrArg (Except.map Instr.lpush) (SJ.dec_enc o)

theorem Laws.RoundTrip.brk (o : SP) : Statement (.brk o) :=
  roundTrip_word rfl (by decide) o.enc_lt fun _ => congrArg (Except.map Instr.brk) (SP.dec_enc o)

theorem Laws.RoundTrip.cont (o : SP) : Statement (.cont o) :=
  roundTrip_word rfl (by decide) o.enc_lt fun _ => congrArg (Except.map Instr.cont) (SP.dec_enc o)

theorem Laws.RoundTrip.bloop (o : SPB) : Statement (.bloop o) :=
  roundTrip_word rfl (by decide) o.enc_lt fun _ => congrArg (Except.map Instr.bloop) (SPB.dec_enc o)

theorem Laws.RoundTrip.tend : Statement .tend :=
  roundTrip_word rfl (by decide) (by decide) fun _ => rfl

theorem Laws.RoundTrip.yield : Statement .yield :=
  roundTrip_word rfl (by decide) (by decide) fun _ => rfl

theorem Laws.RoundTrip.nop : Statement .nop :=
  roundTrip_word rfl (by decide) (by decide) fun _ => rfl

theorem Laws.RoundTrip.fork (o : SJ) : Statement (.fork o) :=
  roundTrip_word rfl (by decide) o.enc_lt fun _ => congrArg (Except.map Instr.fork) (SJ.dec_enc o)

theorem Laws.RoundTrip.forkv (o : SJ) : Statement (.forkv o) :=
  roundTrip_word rfl (by decide) o.enc_lt fun _ => congrArg (Except.map Instr.forkv) (SJ.dec_enc o)

theorem Laws.RoundTrip.forkl (o : SBX) : Statement (.forkl o) :=
  roundTrip_word rfl (by decide) o.enc_lt fun _ => congrArg (Except.map Instr.forkl) (SBX.dec_enc o)

theorem Laws.RoundTrip.join : Statement .join :=
  roundTrip_word rfl (by decide) (by decide) fun _ => rfl

theorem Laws.RoundTrip.take (o : SU) : Statement (.take o) :=
  roundTrip_word rfl (by decide) o.enc_lt fun _ => congrArg (Except.map Instr.take) (SU.dec_enc o)

theorem Laws.RoundTrip.ppt : Statement .ppt :=
  roundTrip_word rfl (by decide) (by decide) fun _ => rfl

theorem Laws.RoundTrip.fres (o : SFres) : Statement (.fres o) :=
  roundTrip_word rfl (by decide) o.enc_lt fun _ => congrArg (Except.map Instr.fres) (SFres.dec_enc o)

theorem Laws.RoundTrip.frget (o : SFrget) : Statement (.frget o) :=
  roundTrip_word rfl (by decide) o.enc_lt fun _ => congrArg (Except.map Instr.frget) (SFrget.dec_enc o)

theorem Laws.RoundTrip.enq (o : SItem) : Statement (.enq o) :=
  roundTrip_word rfl (by decide) o.enc_lt fun _ => congrArg (Except.map Instr.enq) (SItem.dec_enc o)

theorem Laws.RoundTrip.refill (o : SItem) : Statement (.refill o) :=
  roundTrip_word rfl (by decide) o.enc_lt fun _ => congrArg (Except.map Instr.refill) (SItem.dec_enc o)

theorem Laws.RoundTrip.waitq (o : SU) : Statement (.waitq o) :=
  roundTrip_word rfl (by decide) o.enc_lt fun _ => congrArg (Except.map Instr.waitq) (SU.dec_enc o)

theorem Laws.RoundTrip.trig : Statement .trig :=
  roundTrip_word rfl (by decide) (by decide) fun _ => rfl

theorem Laws.RoundTrip.waitdep : Statement .waitdep :=
  roundTrip_word rfl (by decide) (by decide) fun _ => rfl

theorem Laws.RoundTrip.sldg (o : SM) : Statement (.sldg o) :=
  roundTrip_word rfl (by decide) o.enc_lt fun _ => congrArg (Except.map Instr.sldg) (SM.dec_enc o)

theorem Laws.RoundTrip.sstg (o : SM) : Statement (.sstg o) :=
  roundTrip_word rfl (by decide) o.enc_lt fun _ => congrArg (Except.map Instr.sstg) (SM.dec_enc o)

theorem Laws.RoundTrip.sldc (o : SM) : Statement (.sldc o) :=
  roundTrip_word rfl (by decide) o.enc_lt fun _ => congrArg (Except.map Instr.sldc) (SM.dec_enc o)

theorem Laws.RoundTrip.sstc (o : SM) : Statement (.sstc o) :=
  roundTrip_word rfl (by decide) o.enc_lt fun _ => congrArg (Except.map Instr.sstc) (SM.dec_enc o)

theorem Laws.RoundTrip.sldf (o : SM) : Statement (.sldf o) :=
  roundTrip_word rfl (by decide) o.enc_lt fun _ => congrArg (Except.map Instr.sldf) (SM.dec_enc o)

theorem Laws.RoundTrip.sstf (o : SM) : Statement (.sstf o) :=
  roundTrip_word rfl (by decide) o.enc_lt fun _ => congrArg (Except.map Instr.sstf) (SM.dec_enc o)

theorem Laws.RoundTrip.sldd (o : SM) : Statement (.sldd o) :=
  roundTrip_word rfl (by decide) o.enc_lt fun _ => congrArg (Except.map Instr.sldd) (SM.dec_enc o)

theorem Laws.RoundTrip.sstd (o : SM) : Statement (.sstd o) :=
  roundTrip_word rfl (by decide) o.enc_lt fun _ => congrArg (Except.map Instr.sstd) (SM.dec_enc o)

theorem Laws.RoundTrip.satom (o : SA) : Statement (.satom o) :=
  roundTrip_word rfl (by decide) o.enc_lt fun _ => congrArg (Except.map Instr.satom) (SA.dec_enc o)

theorem Laws.RoundTrip.scas (o : SX3) : Statement (.scas o) :=
  roundTrip_word rfl (by decide) o.enc_lt fun _ => congrArg (Except.map Instr.scas) (SX3.dec_enc o)

theorem Laws.RoundTrip.sxch (o : SX3) : Statement (.sxch o) :=
  roundTrip_word rfl (by decide) o.enc_lt fun _ => congrArg (Except.map Instr.sxch) (SX3.dec_enc o)

theorem Laws.RoundTrip.bcdecAll (o : SBcset) : Statement (.bcdecAll o) :=
  roundTrip_word rfl (by decide) o.enc_lt fun _ => by
    show decodeBcdec o.enc = _
    simp [decodeBcdec, (by have := o.enc_mod; omega : o.enc / 8 % 8 = 0), Except.map]

theorem Laws.RoundTrip.bcdecPart (o : SBcset) : Statement (.bcdecPart o) :=
  roundTrip_word rfl (by decide) (by have := o.enc_lt; have := o.enc_mod; omega) fun _ => by
    show decodeBcdec (o.enc + 8) = _
    simp only [decodeBcdec, (by have := o.enc_mod; omega : (o.enc + 8) / 8 % 8 = 1)]
    exact congrArg (Except.map Instr.bcdecPart) (SBcset.dec_enc o)

theorem Laws.RoundTrip.bcinc (o : SBcinc) : Statement (.bcinc o) :=
  roundTrip_word rfl (by decide) o.enc_lt fun _ => congrArg (Except.map Instr.bcinc) (SBcinc.dec_enc o)

theorem Laws.RoundTrip.bcread (o : SBcread) : Statement (.bcread o) :=
  roundTrip_word rfl (by decide) o.enc_lt fun _ => congrArg (Except.map Instr.bcread) (SBcread.dec_enc o)

theorem Laws.RoundTrip.bcset (o : SBcset) : Statement (.bcset o) :=
  roundTrip_word rfl (by decide) o.enc_lt fun _ => congrArg (Except.map Instr.bcset) (SBcset.dec_enc o)

theorem Laws.RoundTrip.fence (o : SFence) : Statement (.fence o) :=
  roundTrip_word rfl (by decide) o.enc_lt fun _ => congrArg (Except.map Instr.fence) (SFence.dec_enc o)

theorem Laws.RoundTrip.ifence (o : SIfence) : Statement (.ifence o) :=
  roundTrip_word rfl (by decide) o.enc_lt fun _ => congrArg (Except.map Instr.ifence) (SIfence.dec_enc o)

theorem Laws.RoundTrip.waitv (o : SWaitv) : Statement (.waitv o) :=
  roundTrip_word rfl (by decide) o.enc_lt fun _ => congrArg (Except.map Instr.waitv) (SWaitv.dec_enc o)

theorem Laws.RoundTrip.pfetch (o : SM) : Statement (.pfetch o) :=
  roundTrip_word rfl (by decide) o.enc_lt fun _ => congrArg (Except.map Instr.pfetch) (SM.dec_enc o)

theorem Laws.RoundTrip.repl (o : SRepl) : Statement (.repl o) :=
  roundTrip_word rfl (by decide) o.enc_lt fun _ => congrArg (Except.map Instr.repl) (SRepl.dec_enc o)

theorem Laws.RoundTrip.bara (o : SBar) : Statement (.bara o) :=
  roundTrip_word rfl (by decide) o.enc_lt fun _ => congrArg (Except.map Instr.bara) (SBar.dec_enc o)

theorem Laws.RoundTrip.barw (o : SBarw) : Statement (.barw o) :=
  roundTrip_word rfl (by decide) o.enc_lt fun _ => congrArg (Except.map Instr.barw) (SBarw.dec_enc o)

theorem Laws.RoundTrip.baraw (o : SBar) : Statement (.baraw o) :=
  roundTrip_word rfl (by decide) o.enc_lt fun _ => congrArg (Except.map Instr.baraw) (SBar.dec_enc o)

theorem Laws.RoundTrip.tbinit (o : STbinit) : Statement (.tbinit o) :=
  roundTrip_word rfl (by decide) o.enc_lt fun _ => congrArg (Except.map Instr.tbinit) (STbinit.dec_enc o)

theorem Laws.RoundTrip.tbarr (o : STbarr) : Statement (.tbarr o) :=
  roundTrip_word rfl (by decide) o.enc_lt fun _ => congrArg (Except.map Instr.tbarr) (STbarr.dec_enc o)

theorem Laws.RoundTrip.tbwait (o : STbwait) : Statement (.tbwait o) :=
  roundTrip_word rfl (by decide) o.enc_lt fun _ => congrArg (Except.map Instr.tbwait) (STbwait.dec_enc o)

theorem Laws.RoundTrip.waitt (o : SWaitt) : Statement (.waitt o) :=
  roundTrip_word rfl (by decide) o.enc_lt fun _ => congrArg (Except.map Instr.waitt) (SWaitt.dec_enc o)

theorem Laws.RoundTrip.cpy (o : SE) : Statement (.cpy o) :=
  roundTrip_word rfl (by decide) o.enc_lt fun _ => congrArg (Except.map Instr.cpy) (SE.dec_enc o)

theorem Laws.RoundTrip.cpyt (o : SE) : Statement (.cpyt o) :=
  roundTrip_word rfl (by decide) o.enc_lt fun _ => congrArg (Except.map Instr.cpyt) (SE.dec_enc o)

theorem Laws.RoundTrip.mloop (o : SX) : Statement (.mloop o) :=
  roundTrip_word rfl (by decide) o.enc_lt fun _ => congrArg (Except.map Instr.mloop) (SX.dec_enc o)

theorem Laws.RoundTrip.mld (o : SMld) : Statement (.mld o) :=
  roundTrip_word rfl (by decide) o.enc_lt fun _ => congrArg (Except.map Instr.mld) (SMld.dec_enc o)

theorem Laws.RoundTrip.mst (o : SMst) : Statement (.mst o) :=
  roundTrip_word rfl (by decide) o.enc_lt fun _ => congrArg (Except.map Instr.mst) (SMst.dec_enc o)

theorem Laws.RoundTrip.mzero (o : SMzero) : Statement (.mzero o) :=
  roundTrip_word rfl (by decide) o.enc_lt fun _ => congrArg (Except.map Instr.mzero) (SMzero.dec_enc o)

theorem Laws.RoundTrip.mscl (o : SMscl) : Statement (.mscl o) :=
  roundTrip_word rfl (by decide) o.enc_lt fun _ => congrArg (Except.map Instr.mscl) (SMscl.dec_enc o)

theorem Laws.RoundTrip.sysr (o : SSysr) : Statement (.sysr o) :=
  roundTrip_word rfl (by decide) o.enc_lt fun _ => congrArg (Except.map Instr.sysr) (SSysr.dec_enc o)

theorem Laws.RoundTrip.sysw (o : SSysw) : Statement (.sysw o) :=
  roundTrip_word rfl (by decide) o.enc_lt fun _ => congrArg (Except.map Instr.sysw) (SSysw.dec_enc o)

theorem Laws.RoundTrip.rmset (o : SRm) : Statement (.rmset o) :=
  roundTrip_word rfl (by decide) o.enc_lt fun _ => congrArg (Except.map Instr.rmset) (SRm.dec_enc o)

theorem Laws.RoundTrip.prio (o : SPr) : Statement (.prio o) :=
  roundTrip_word rfl (by decide) o.enc_lt fun _ => congrArg (Except.map Instr.prio) (SPr.dec_enc o)

theorem Laws.RoundTrip.trap (o : SCode) : Statement (.trap o) :=
  roundTrip_word rfl (by decide) o.enc_lt fun _ => congrArg (Except.map Instr.trap) (SCode.dec_enc o)

theorem Laws.RoundTrip.brkpt (o : SCode) : Statement (.brkpt o) :=
  roundTrip_word rfl (by decide) o.enc_lt fun _ => congrArg (Except.map Instr.brkpt) (SCode.dec_enc o)

theorem Laws.RoundTrip.eret (o : S1) : Statement (.eret o) :=
  roundTrip_word rfl (by decide) o.enc_lt fun _ => congrArg (Except.map Instr.eret) (S1.dec_enc o)

theorem Laws.RoundTrip.tctlState (o : SR) : Statement (.tctlState o) :=
  roundTrip_word rfl (by decide) o.enc_lt fun _ => by
    show decodeTctl o.enc = _
    simp [decodeTctl, (by have := o.enc_mod; omega : o.enc % 64 = 0), Except.map]

theorem Laws.RoundTrip.tctlPark (o : SR) : Statement (.tctlPark o) :=
  roundTrip_word rfl (by decide) (by have := o.enc_lt; have := o.enc_mod; omega) fun _ => by
    show decodeTctl (o.enc + 1) = _
    simp [decodeTctl, (by have := o.enc_mod; omega : (o.enc + 1) % 64 = 1), Except.map]

theorem Laws.RoundTrip.tctlResume (o : SR) : Statement (.tctlResume o) :=
  roundTrip_word rfl (by decide) (by have := o.enc_lt; have := o.enc_mod; omega) fun _ => by
    show decodeTctl (o.enc + 2) = _
    simp [decodeTctl, (by have := o.enc_mod; omega : (o.enc + 2) % 64 = 2), Except.map]

theorem Laws.RoundTrip.tctlKill (o : SR) : Statement (.tctlKill o) :=
  roundTrip_word rfl (by decide) (by have := o.enc_lt; have := o.enc_mod; omega) fun _ => by
    show decodeTctl (o.enc + 3) = _
    simp [decodeTctl, (by have := o.enc_mod; omega : (o.enc + 3) % 64 = 3), Except.map]

theorem Laws.RoundTrip.tctlAbort (o : SR) : Statement (.tctlAbort o) :=
  roundTrip_word rfl (by decide) (by have := o.enc_lt; have := o.enc_mod; omega) fun _ => by
    show decodeTctl (o.enc + 4) = _
    simp [decodeTctl, (by have := o.enc_mod; omega : (o.enc + 4) % 64 = 4), Except.map]

theorem Laws.RoundTrip.tctlDbg (o : SR) : Statement (.tctlDbg o) :=
  roundTrip_word rfl (by decide) (by have := o.enc_lt; have := o.enc_mod; omega) fun _ => by
    show decodeTctl (o.enc + 5) = _
    simp [decodeTctl, (by have := o.enc_mod; omega : (o.enc + 5) % 64 = 5), Except.map]

theorem Laws.RoundTrip.haltStop (o : SU) : Statement (.haltStop o) :=
  roundTrip_word rfl (by decide) o.enc_lt fun _ => by
    show decodeHalt o.enc = _
    simp [decodeHalt, (by have := o.enc_mod; omega : o.enc % 64 = 0), Except.map]

theorem Laws.RoundTrip.haltGo (o : SU) : Statement (.haltGo o) :=
  roundTrip_word rfl (by decide) (by have := o.enc_lt; have := o.enc_mod; omega) fun _ => by
    show decodeHalt (o.enc + 1) = _
    simp [decodeHalt, (by have := o.enc_mod; omega : (o.enc + 1) % 64 = 1), Except.map]

theorem Laws.RoundTrip.cancelLaunch (o : SU) : Statement (.cancelLaunch o) :=
  roundTrip_word rfl (by decide) o.enc_lt fun _ => by
    show decodeCancel o.enc = _
    simp [decodeCancel, (by have := o.enc_mod; omega : o.enc % 64 = 0), Except.map]

theorem Laws.RoundTrip.cancelPhase (o : SU) : Statement (.cancelPhase o) :=
  roundTrip_word rfl (by decide) (by have := o.enc_lt; have := o.enc_mod; omega) fun _ => by
    show decodeCancel (o.enc + 1) = _
    simp [decodeCancel, (by have := o.enc_mod; omega : (o.enc + 1) % 64 = 1), Except.map]

theorem Laws.RoundTrip.cancelJob (o : SU) : Statement (.cancelJob o) :=
  roundTrip_word rfl (by decide) (by have := o.enc_lt; have := o.enc_mod; omega) fun _ => by
    show decodeCancel (o.enc + 2) = _
    simp [decodeCancel, (by have := o.enc_mod; omega : (o.enc + 2) % 64 = 2), Except.map]

theorem Laws.RoundTrip.impreciseFault (tk : Nat) : Statement (.impreciseFault tk) := roundTrip_none rfl

theorem Laws.RoundTrip.satisfyLoad (tk id piece : Nat) (grant : Bool) : Statement (.satisfyLoad tk id piece grant) := roundTrip_none rfl

theorem Laws.RoundTrip.replicaCollapse (die line : Nat) : Statement (.replicaCollapse die line) := roundTrip_none rfl

theorem Laws.RoundTrip.leaseExpiry (die line : Nat) : Statement (.leaseExpiry die line) := roundTrip_none rfl

theorem Laws.RoundTrip.leaveStoreQueue (tk id : Nat) : Statement (.leaveStoreQueue tk id) := roundTrip_none rfl

theorem Laws.RoundTrip.perform (core id : Nat) : Statement (.perform core id) := roundTrip_none rfl

theorem Laws.RoundTrip.atomicPerform (tk id : Nat) : Statement (.atomicPerform tk id) := roundTrip_none rfl

theorem Laws.RoundTrip.fenceComplete (tk id : Nat) : Statement (.fenceComplete tk id) := roundTrip_none rfl

theorem Laws.RoundTrip.tlbWalk (cluster asid obj gran : Nat) : Statement (.tlbWalk cluster asid obj gran) := roundTrip_none rfl

theorem Laws.RoundTrip.gets (core line : Nat) : Statement (.gets core line) := roundTrip_none rfl

theorem Laws.RoundTrip.getx (core line : Nat) : Statement (.getx core line) := roundTrip_none rfl

theorem Laws.RoundTrip.data (core line : Nat) : Statement (.data core line) := roundTrip_none rfl

theorem Laws.RoundTrip.down (core line : Nat) : Statement (.down core line) := roundTrip_none rfl

theorem Laws.RoundTrip.recall (core line : Nat) : Statement (.recall core line) := roundTrip_none rfl

theorem Laws.RoundTrip.tack (core line : Nat) : Statement (.tack core line) := roundTrip_none rfl

theorem Laws.RoundTrip.evict (core line : Nat) : Statement (.evict core line) := roundTrip_none rfl

theorem Laws.RoundTrip.nack (core line : Nat) : Statement (.nack core line) := roundTrip_none rfl

theorem Laws.RoundTrip.pers (core line : Nat) (write : Bool) : Statement (.pers core line write) := roundTrip_none rfl

theorem Laws.RoundTrip.collapse (die line : Nat) : Statement (.collapse die line) := roundTrip_none rfl

theorem Laws.RoundTrip.cack (die line : Nat) : Statement (.cack die line) := roundTrip_none rfl

theorem Laws.RoundTrip.fennelWindowEnd : Statement .fennelWindowEnd := roundTrip_none rfl

theorem Laws.RoundTrip.shortfallRequest (elem die : Nat) : Statement (.shortfallRequest elem die) := roundTrip_none rfl

theorem Laws.RoundTrip.counterGrant (elem : Nat) : Statement (.counterGrant elem) := roundTrip_none rfl

theorem Laws.RoundTrip.counterRecall (elem : Nat) : Statement (.counterRecall elem) := roundTrip_none rfl

theorem Laws.RoundTrip.recallAnswer (elem die : Nat) : Statement (.recallAnswer elem die) := roundTrip_none rfl

theorem Laws.RoundTrip.forwardedBcinc (elem die : Nat) : Statement (.forwardedBcinc elem die) := roundTrip_none rfl

theorem Laws.RoundTrip.counterRecallTimeout (elem die : Nat) : Statement (.counterRecallTimeout elem die) := roundTrip_none rfl

theorem Laws.RoundTrip.persistentRequestTimeout (core line silent : Nat) : Statement (.persistentRequestTimeout core line silent) := roundTrip_none rfl

theorem Laws.RoundTrip.recallTimeout (core line : Nat) : Statement (.recallTimeout core line) := roundTrip_none rfl

theorem Laws.RoundTrip.copyChunk (core id : Nat) : Statement (.copyChunk core id) := roundTrip_none rfl

theorem Laws.RoundTrip.copyComplete (core id : Nat) : Statement (.copyComplete core id) := roundTrip_none rfl

theorem Laws.RoundTrip.matrixStep (core : Nat) : Statement (.matrixStep core) := roundTrip_none rfl

theorem Laws.RoundTrip.engineCommandComplete (core : Nat) : Statement (.engineCommandComplete core) := roundTrip_none rfl

theorem Laws.RoundTrip.engineStarvationStart (core : Nat) (copy : Bool) : Statement (.engineStarvationStart core copy) := roundTrip_none rfl

theorem Laws.RoundTrip.launchQueueDoorbell (vf q tail : Nat) : Statement (.launchQueueDoorbell vf q tail) := roundTrip_none rfl

theorem Laws.RoundTrip.eventHeadDoorbell (vf q head : Nat) : Statement (.eventHeadDoorbell vf q head) := roundTrip_none rfl

theorem Laws.RoundTrip.adminDoorbell (cmds : List (List (BitVec 64))) : Statement (.adminDoorbell cmds) := roundTrip_none rfl

theorem Laws.RoundTrip.launchPacketRead (vf q : Nat) : Statement (.launchPacketRead vf q) := roundTrip_none rfl

theorem Laws.RoundTrip.fleetPlacement (launch : Nat) : Statement (.fleetPlacement launch) := roundTrip_none rfl

theorem Laws.RoundTrip.launchReservation (launch : Nat) : Statement (.launchReservation launch) := roundTrip_none rfl

theorem Laws.RoundTrip.teamLeavesSlot (tk : Nat) : Statement (.teamLeavesSlot tk) := roundTrip_none rfl

theorem Laws.RoundTrip.itemsEnterList (tk id : Nat) : Statement (.itemsEnterList tk id) := roundTrip_none rfl

theorem Laws.RoundTrip.itemQueueFill (core launch list : Nat) : Statement (.itemQueueFill core launch list) := roundTrip_none rfl

theorem Laws.RoundTrip.itemReturn (core launch list : Nat) : Statement (.itemReturn core launch list) := roundTrip_none rfl

theorem Laws.RoundTrip.sageQuiescence (launch : Nat) : Statement (.sageQuiescence launch) := roundTrip_none rfl

theorem Laws.RoundTrip.waitReturn (tk : Nat) : Statement (.waitReturn tk) := roundTrip_none rfl

theorem Laws.RoundTrip.waitvTest (tk : Nat) (grant : Bool) : Statement (.waitvTest tk grant) := roundTrip_none rfl

theorem Laws.RoundTrip.heartbeatTick : Statement .heartbeatTick := roundTrip_none rfl

theorem Laws.RoundTrip.deterministicHeartbeat (tk : Nat) : Statement (.deterministicHeartbeat tk) := roundTrip_none rfl

theorem Laws.RoundTrip.floorDue (slice : Nat) : Statement (.floorDue slice) := roundTrip_none rfl

theorem Laws.RoundTrip.preemption (tk : Nat) : Statement (.preemption tk) := roundTrip_none rfl

theorem Laws.RoundTrip.restore (tk slice : Nat) : Statement (.restore tk slice) := roundTrip_none rfl

theorem Laws.RoundTrip.clusterPowerGate (cluster : Nat) : Statement (.clusterPowerGate cluster) := roundTrip_none rfl

theorem Laws.RoundTrip.clusterWake (cluster : Nat) : Statement (.clusterWake cluster) := roundTrip_none rfl

theorem Laws.RoundTrip.stackTemperatureSample (temps dieTemps : List Nat) : Statement (.stackTemperatureSample temps dieTemps) := roundTrip_none rfl

theorem Laws.RoundTrip.thermalLimitStep (stack : Nat) : Statement (.thermalLimitStep stack) := roundTrip_none rfl

theorem Laws.RoundTrip.hotGranuleMigration (asid obj gran dst : Nat) : Statement (.hotGranuleMigration asid obj gran dst) := roundTrip_none rfl

theorem Laws.RoundTrip.migrationSwap (src : Nat) : Statement (.migrationSwap src) := roundTrip_none rfl

theorem Laws.RoundTrip.coolantFlowLow : Statement .coolantFlowLow := roundTrip_none rfl

theorem Laws.RoundTrip.t2SelfRefreshEnd : Statement .t2SelfRefreshEnd := roundTrip_none rfl

theorem Laws.RoundTrip.railCurrentSample (amps millivolts : List Nat) : Statement (.railCurrentSample amps millivolts) := roundTrip_none rfl

theorem Laws.RoundTrip.currentLimitStep (die : Nat) : Statement (.currentLimitStep die) := roundTrip_none rfl

theorem Laws.RoundTrip.coreRailRestore (die : Nat) : Statement (.coreRailRestore die) := roundTrip_none rfl

theorem Laws.RoundTrip.correctedError (site : ErrSite) : Statement (.correctedError site) := roundTrip_none rfl

theorem Laws.RoundTrip.spareSwap (row : MemRow) : Statement (.spareSwap row) := roundTrip_none rfl

theorem Laws.RoundTrip.uncorrectableError (unit : LostUnit) : Statement (.uncorrectableError unit) := roundTrip_none rfl

theorem Laws.RoundTrip.regfileError (tk detail lane : Nat) : Statement (.regfileError tk detail lane) := roundTrip_none rfl

theorem Laws.RoundTrip.dieThymeDeparture (die : Nat) : Statement (.dieThymeDeparture die) := roundTrip_none rfl

theorem Laws.RoundTrip.thymeResync (die : Nat) : Statement (.thymeResync die) := roundTrip_none rfl

theorem Laws.RoundTrip.moduleThymeDeparture : Statement .moduleThymeDeparture := roundTrip_none rfl

theorem Laws.RoundTrip.watchdogWaitlim (tk : Nat) : Statement (.watchdogWaitlim tk) := roundTrip_none rfl

theorem Laws.RoundTrip.watchdogRunlim (launch : Nat) : Statement (.watchdogRunlim launch) := roundTrip_none rfl

theorem Laws.RoundTrip.deadlockDetection (launch : Nat) : Statement (.deadlockDetection launch) := roundTrip_none rfl

theorem Laws.RoundTrip.translationInvalidationComplete (asid obj : Nat) : Statement (.translationInvalidationComplete asid obj) := roundTrip_none rfl

theorem Laws.RoundTrip.hostBar2Write (vf off : Nat) (data : List Byte) (poisoned : Bool) : Statement (.hostBar2Write vf off data poisoned) := roundTrip_none rfl

theorem Laws.RoundTrip.hostBar2Read (vf off n : Nat) : Statement (.hostBar2Read vf off n) := roundTrip_none rfl

theorem Laws.RoundTrip.pcreate : Statement .pcreate := roundTrip_none rfl

theorem Laws.RoundTrip.presize : Statement .presize := roundTrip_none rfl

theorem Laws.RoundTrip.presizeTimeout (vf : Nat) : Statement (.presizeTimeout vf) := roundTrip_none rfl

theorem Laws.RoundTrip.preset : Statement .preset := roundTrip_none rfl

theorem Laws.RoundTrip.pdestroy : Statement .pdestroy := roundTrip_none rfl

theorem Laws.RoundTrip.pools : Statement .pools := roundTrip_none rfl

theorem Laws.RoundTrip.setlease : Statement .setlease := roundTrip_none rfl

theorem Laws.RoundTrip.sethbi : Statement .sethbi := roundTrip_none rfl

theorem Laws.RoundTrip.setwdog : Statement .setwdog := roundTrip_none rfl

theorem Laws.RoundTrip.qcreate : Statement .qcreate := roundTrip_none rfl

theorem Laws.RoundTrip.qdestroy : Statement .qdestroy := roundTrip_none rfl

theorem Laws.RoundTrip.otset : Statement .otset := roundTrip_none rfl

theorem Laws.RoundTrip.tinval : Statement .tinval := roundTrip_none rfl

theorem Laws.RoundTrip.gang : Statement .gang := roundTrip_none rfl

theorem Laws.RoundTrip.stread (data : Option (List Byte)) : Statement (.stread data) := roundTrip_none rfl

theorem Laws.RoundTrip.stwrite (ok : Bool) : Statement (.stwrite ok) := roundTrip_none rfl

theorem Laws.RoundTrip.hostcpy (data : Option (List Byte)) : Statement (.hostcpy data) := roundTrip_none rfl

theorem Laws.RoundTrip.adminCompletion : Statement .adminCompletion := roundTrip_none rfl

theorem Laws.RoundTrip.arm (gang member : Nat) : Statement (.arm gang member) := roundTrip_none rfl

theorem Laws.RoundTrip.go (gang t0 : Nat) : Statement (.go gang t0) := roundTrip_none rfl

theorem Laws.RoundTrip.gangStart (gang : Nat) : Statement (.gangStart gang) := roundTrip_none rfl

theorem Laws.RoundTrip.abort (gang member : Nat) : Statement (.abort gang member) := roundTrip_none rfl

theorem Laws.RoundTrip.gangMemberCompletion (gang member : Nat) : Statement (.gangMemberCompletion gang member) := roundTrip_none rfl

theorem Laws.RoundTrip.gangTimerExpiry (gang : Nat) : Statement (.gangTimerExpiry gang) := roundTrip_none rfl

theorem Laws.RoundTrip.eagerGangTimeout (gang : Nat) : Statement (.eagerGangTimeout gang) := roundTrip_none rfl

theorem Laws.RoundTrip.remoteRequest (r : RemoteReq) : Statement (.remoteRequest r) := roundTrip_none rfl

theorem Laws.RoundTrip.remoteReply (id : Nat) (a : RemoteAns) : Statement (.remoteReply id a) := roundTrip_none rfl

theorem Laws.RoundTrip.remoteNoRoute (id : Nat) : Statement (.remoteNoRoute id) := roundTrip_none rfl

theorem Laws.RoundTrip.flitRetry (port : Nat) (ok : Bool) : Statement (.flitRetry port ok) := roundTrip_none rfl

theorem Laws.RoundTrip.pcieLinkDown : Statement .pcieLinkDown := roundTrip_none rfl

theorem Laws.RoundTrip.pcieLinkUp : Statement .pcieLinkUp := roundTrip_none rfl

theorem Laws.RoundTrip.hotReset : Statement .hotReset := roundTrip_none rfl

theorem Laws.RoundTrip.pfFunctionLevelReset : Statement .pfFunctionLevelReset := roundTrip_none rfl

theorem Laws.RoundTrip.vfFunctionLevelReset (vf : Nat) : Statement (.vfFunctionLevelReset vf) := roundTrip_none rfl

theorem Laws.RoundTrip.boot (image : ImageCheck) : Statement (.boot image) := roundTrip_none rfl

theorem Laws.RoundTrip.recoveryRetry (image : ImageCheck) : Statement (.recoveryRetry image) := roundTrip_none rfl

theorem Laws.RoundTrip.getVersion : Statement .getVersion := roundTrip_none rfl

theorem Laws.RoundTrip.getCapabilities : Statement .getCapabilities := roundTrip_none rfl

theorem Laws.RoundTrip.negotiateAlgorithms (offered : List SpdmAlgorithm) : Statement (.negotiateAlgorithms offered) := roundTrip_none rfl

theorem Laws.RoundTrip.getDigests : Statement .getDigests := roundTrip_none rfl

theorem Laws.RoundTrip.getCertificate (off len : Nat) : Statement (.getCertificate off len) := roundTrip_none rfl

theorem Laws.RoundTrip.challenge (nonce : List Byte) : Statement (.challenge nonce) := roundTrip_none rfl

theorem Laws.RoundTrip.getMeasurements : Statement .getMeasurements := roundTrip_none rfl

theorem Laws.RoundTrip.redfishRequest (item : RedfishItem) : Statement (.redfishRequest item) := roundTrip_none rfl

theorem Laws.RoundTrip.allowanceRefill : Statement .allowanceRefill := roundTrip_none rfl

theorem Laws.RoundTrip.moduleThymeResync : Statement .moduleThymeResync := roundTrip_none rfl

theorem Laws.RoundTrip.routesRecomputed (reach : List Nat) : Statement (.routesRecomputed reach) := roundTrip_none rfl

end Sys2Proof
end

