-- ==== Sys2Proof/Safety.lean ====
section
/-! DEFINITION. What counts as a safe state and a safe run, and the words in which statements about one instruction are made: the
team that runs, the lanes that act, a step that changes one team alone, an exception taken. -/

namespace Sys2Proof.Machine

/-! ## Safe states and runs -/

/-- Memory stands in its canonical form. -/
abbrev State.Canonical (s : State) : Prop := Memory.wf s.mem = true

/-- Every team stands under its own key, and the keys rise. -/
abbrev State.Keyed (s : State) : Prop := (∀ e ∈ s.teams, e.1 = e.2.tk) ∧ (s.teams.map Prod.fst).Pairwise (· < ·)

/-- A state that statements about runs assume. -/
abbrev State.Safe (s : State) : Prop := s.Canonical ∧ s.Keyed

/-- A step stops when it gives no next state. -/
def Stops : Result → Prop
  | .next _ => False
  | .fault _ => True
  | .refused _ => True

/-- n steps from s, none of which stops, lead to s'. -/
def Reaches (s : State) : Nat → State → Prop
  | 0, s' => s = s'
  | n + 1, s' => ∃ m, step s = .next m ∧ Reaches m n s'

/-- The next move of s is the issue of team tk on a port for which the schedulers chose it: no module tick is due (R232), and the agenda
names the team, whose issue is the next one of its core (R153), or its issue is the first of this core cycle. s0 is s without that move. -/
def Chosen (s s0 : State) (tk port : Nat) : Prop :=
  s.tickDue = false ∧
    ((∃ r, s.agenda = .issue tk :: r
        ∧ s.todo.find? (fun e => (s.team? e.1).map Team.core == (s.team? tk).map Team.core) = some (tk, port)
        ∧ s0 = { s with agenda := r, todo := s.todo.erase (tk, port) })
      ∨ (s.agenda = [] ∧ ∃ r, s.todo = (tk, port) :: r ∧ s0 = { s with todo := r }))

/-! ## One instruction of one team -/

/-- t is the team whose instruction runs, and it stands under its own key. -/
abbrev Runs (s : State) (t : Team) : Prop := s.cur.map Cur.tk = some t.tk ∧ s.team? t.tk = some t

/-- A lane in which the instruction acts: active, or unfinished in a replay, and with the guard true (R182, R329). -/
abbrev Acts (s : State) (t : Team) (pg L : Nat) : Prop := (s.activeLanes t).getLsbD L = true ∧ t.pred pg L = true

/-- s' differs from s in the team of t alone, which is t' in it; every byte of memory reads as before. -/
structure OneTeam (s s' : State) (t t' : Team) : Prop where
  rest   : s' = { s with teams := s'.teams }
  self   : s'.team? t.tk = some t'
  others : ∀ k, k ≠ t.tk → s'.team? k = s.team? k
  bytes  : ∀ a, Memory.get s'.mem a = Memory.get s.mem a

/-- A lane instruction that writes val to vd in the lanes where it acts: it retires and every other register of every lane, every
predicate, uniform register, flag, byte of memory and other team is as before; a latch entry holds the result, or what vd holds
where it did not act (R16, R182, R184). -/
def LaneRun (i : Instr) (nw : Bool) (vd : BitVec 6) (pg : Nat) (val : State → Team → Nat → Word) : Prop :=
  ∀ (s : State) (t : Team), Runs s t → i.highReg t.regs = none →
    ∃ s' t', exec i s = .next s' ∧ OneTeam s s' t t'
      ∧ t' = { t with v := t'.v, lat := t'.lat, pc := t.nextPc, clock := t.clock + 1 }
      ∧ (∀ L, L < t.lanes → t'.vreg vd.toNat L = if nw = false ∧ Acts s t pg L then val s t L else t.vreg vd.toNat L)
      ∧ (∀ r L, r ≠ vd.toNat → t'.vreg r L = t.vreg r L)
      ∧ (∀ L, L < t.lanes → t'.latch 0 L = (if Acts s t pg L then val s t L else t.vreg vd.toNat L).setWidth 64)
      ∧ (∀ k L, k < 3 → t'.latch (k + 1) L = t.latch k L)

/-- The same of an instruction that writes 64-bit results to the pair vd, vd + 1 (R168, R190). -/
def PairRun (i : Instr) (nw : Bool) (vd : BitVec 6) (pg : Nat) (val : State → Team → Nat → QWord) : Prop :=
  ∀ (s : State) (t : Team), Runs s t → i.highReg t.regs = none →
    ∃ s' t', exec i s = .next s' ∧ OneTeam s s' t t'
      ∧ t' = { t with v := t'.v, lat := t'.lat, pc := t.nextPc, clock := t.clock + 1 }
      ∧ (∀ L, L < t.lanes → t'.vpair vd.toNat L = if nw = false ∧ Acts s t pg L then val s t L else t.vpair vd.toNat L)
      ∧ (∀ r L, r ≠ vd.toNat → r ≠ vd.toNat + 1 → t'.vreg r L = t.vreg r L)
      ∧ (∀ L, L < t.lanes → t'.latch 0 L = if Acts s t pg L then val s t L else t.vpair vd.toNat L)
      ∧ (∀ k L, k < 3 → t'.latch (k + 1) L = t.latch k L)

/-- An instruction that writes the predicates pds, each with val, in the lanes where it acts: it makes no latch entry and every
other predicate, register and byte of memory is as before (R191). -/
def PredRun (i : Instr) (pds : List Nat) (pg : Nat) (val : Team → Nat → Nat → Bool) : Prop :=
  ∀ (s : State) (t : Team), Runs s t → i.highReg t.regs = none →
    ∃ s' t', exec i s = .next s' ∧ OneTeam s s' t t'
      ∧ t' = { t with p := t'.p, pc := t.nextPc, clock := t.clock + 1 }
      ∧ (∀ n L, L < t.lanes → L < 1024 → n ∈ pds → n ≠ 0 → t'.pred n L = if Acts s t pg L then val t n L else t.pred n L)
      ∧ (∀ n L, n ∉ pds ∨ n = 0 → t'.pred n L = t.pred n L)

/-- An instruction that writes val to uniform register sd and goes on at pc: every other register and byte of memory is as
before, and a write to s0 is discarded (R20, R212). -/
def UniRun (i : Instr) (sd : BitVec 6) (val pc : Team → QWord) : Prop :=
  ∀ (s : State) (t : Team), Runs s t → i.highReg t.regs = none →
    ∃ s' t', exec i s = .next s' ∧ OneTeam s s' t t'
      ∧ t' = { t with s := t'.s, pc := pc t, clock := t.clock + 1 }
      ∧ (∀ r, t'.sreg r = if r = sd.toNat ∧ r ≠ 0 then val t else t.sreg r)

/-- Instructions of the VR shape: the result from both sources, read as k, and the old destination. -/
def VrRun (c : VR → Instr) (k : ReadAs) (f : Team → Word → Word → Word → Word) : Prop :=
  ∀ o : VR, LaneRun (c o) o.nw o.vd o.pg.toNat fun _ t L => f t (t.src k o.sa L) (t.src k o.sb L) (t.vreg o.vd.toNat L)

/-- Instructions of the unary shape (R185). -/
def VuRun (c : VU → Instr) (k : ReadAs) (f : Team → Word → Word) : Prop :=
  ∀ o : VU, LaneRun (c o) o.nw o.vd o.pg.toNat fun _ t L => f t (t.src k o.sa L)

/-- Instructions of the immediate shape: every active lane (R171, R210). -/
def ViRun (c : VI → Instr) (f : Word → BitVec 10 → Word) : Prop :=
  ∀ o : VI, LaneRun (c o) o.nw o.vd 0 fun _ t L => f (t.src .int o.sa L) o.imm

/-- Uniform instructions of two sources (R212). -/
def SrRun (c : SR → Instr) (f : QWord → QWord → QWord) : Prop :=
  ∀ o : SR, UniRun (c o) o.sd (fun t => f (t.rs o.sa) (t.rs o.sb)) Team.nextPc

/-- Uniform instructions of a source and an immediate. -/
def SiRun (c : SI → Instr) (f : QWord → BitVec 12 → QWord) : Prop :=
  ∀ o : SI, UniRun (c o) o.sd (fun t => f (t.rs o.sa) o.imm) Team.nextPc

/-- Uniform instructions of one source. -/
def SuRun (c : SU → Instr) (f : QWord → QWord) : Prop :=
  ∀ o : SU, UniRun (c o) o.sd (fun t => f (t.rs o.sa)) Team.nextPc

/-- Uniform instructions with a natural form. -/
def SnRun (c : SN → Instr) (f : Bool → QWord → QWord → QWord) : Prop :=
  ∀ o : SN, UniRun (c o) o.sd (fun t => f o.n (t.rs o.sa) (t.rs o.sb)) Team.nextPc

/-! ## Lanes, branches and tokens -/

/-- The lanes that contribute to a team reduction: active, and with the predicate true (R216). -/
def Contributes (t : Team) (pn : BitVec 3) (L : Nat) : Prop := t.mask.getLsbD L = true ∧ t.pred pn.toNat L = true

/-- A move from a uniform register to lanes: the register, or the pair, holds val in the lanes of dest and is as before elsewhere;
everything else is as before but the PC and the count. -/
def LaneMove (i : Instr) (w : Bool) (vd : BitVec 6) (dest : Team → Nat → Prop) (val : Team → QWord) : Prop :=
  ∀ (s : State) (t : Team), Runs s t → i.highReg t.regs = none →
    ∃ s' t', exec i s = .next s' ∧ OneTeam s s' t t'
      ∧ t' = { t with v := t'.v, pc := t.nextPc, clock := t.clock + 1 }
      ∧ (∀ L, L < t.lanes → dest t L → t'.vreg vd.toNat L = (val t).setWidth 32)
      ∧ (∀ L, L < t.lanes → dest t L → w = true → t'.vreg (vd.toNat + 1) L = ((val t) >>> 32).setWidth 32)
      ∧ (∀ r L, L < t.lanes → ¬ dest t L → t'.vreg r L = t.vreg r L)
      ∧ (∀ r L, r ≠ vd.toNat → ¬ (w = true ∧ r = vd.toNat + 1) → t'.vreg r L = t.vreg r L)

/-- The target of a displacement: its own object, and the offset moved by four bytes a unit within its 40 bits (R173). -/
def branchTarget {w : Nat} (t : Team) (d : BitVec w) : QWord :=
  BitVec.ofNat 64 (t.pc.toNat / 2 ^ 40 * 2 ^ 40 + (((t.pc.toNat % 2 ^ 40 : Nat) + 4 * d.toInt) % 2 ^ 40).toNat)

/-- The record of the token at depth d in lane L: its place in the lane-private pool (R221). -/
def recordAt (s : State) (t : Team) (d L : Nat) : Nat := s.laneAt t.vf (t.region + 65536 * L + 0xF000 + 32 * (d - 33))

/-- No two records of a team's spilled tokens share a byte. -/
def RecordsApart (s : State) (t : Team) : Prop :=
  ∀ d e L M, 33 ≤ d → d ≤ 160 → 33 ≤ e → e ≤ 160 → L < t.lanes → M < t.lanes → (d, L) ≠ (e, M) →
    overlap (recordAt s t d L) 32 (recordAt s t e M) 32 = false

/-- A token stack below its limit: with no token spilled, or with their records each at its own place and no unit lost (R221). -/
def Stacks (s : State) (t : Team) : Prop :=
  t.toks.length < 32 ∨ (t.toks.length < 160 ∧ s.lost = [] ∧ s.Canonical ∧ RecordsApart s t)

/-- s' differs from s in the team of t, which is t' in it, and in memory, where every token of t' at a depth from 33 has its record in
every lane (Table 12.2); every other byte reads as before (R221). -/
structure Spills (s s' : State) (t t' : Team) : Prop where
  rest    : s' = { s with teams := s'.teams, mem := s'.mem }
  self    : s'.team? t.tk = some t'
  others  : ∀ k, k ≠ t.tk → s'.team? k = s.team? k
  records : ∀ (d L : Nat) (x : Token), 33 ≤ d → t'.toks.reverse[d - 1]? = some x → L < t'.lanes →
    leNat (Memory.read s'.mem (recordAt s t d L) 8) = x.a.toNat ∧ leNat (Memory.read s'.mem (recordAt s t d L + 8) 8) = 0
      ∧ leNat (Memory.read s'.mem (recordAt s t d L + 16) 8) =
          (match x.kind with | .reconv => 0 | .diverg => 1 | .loop => 2) * 2 ^ 62 + (if x.kind = .loop ∧ x.mb.getLsbD L = true then 2 else 0)
            + (if x.ma.getLsbD L = true then 1 else 0)
      ∧ leNat (Memory.read s'.mem (recordAt s t d L + 24) 8) = 0
  bytes   : ∀ a, (∀ d L, 33 ≤ d → d ≤ t'.toks.length → L < t'.lanes → a < recordAt s t d L ∨ recordAt s t d L + 32 ≤ a) →
    Memory.get s'.mem a = Memory.get s.mem a

/-- The lanes with pn true in a team's mask, and those without it. -/
def LanesIn (t : Team) (pn : BitVec 3) (m : Mask) : Prop :=
  ∀ L, L < 1024 → (m.getLsbD L = true ↔ L < t.lanes ∧ Contributes t pn L)

/-! ## Memory accesses at their issue -/

/-- s' differs from s in the team of t, in the ids given out and in what Fennel noted of granules; every byte of memory reads as
before. -/
structure Issued (s s' : State) (t t' : Team) : Prop where
  rest   : s' = { s with teams := s'.teams, nextId := s'.nextId, grans := s'.grans }
  self   : s'.team? t.tk = some t'
  others : ∀ k, k ≠ t.tk → s'.team? k = s.team? k
  bytes  : ∀ a, Memory.get s'.mem a = Memory.get s.mem a

/-- The accesses of a vector instruction, one for each active lane, lanes ascending (R63, R233, R342). -/
def State.laneAccs (s : State) (t : Team) (sp : Space) (need : Need) (so : Src) (sbase : BitVec 6) (size align : Nat) : List LaneAcc :=
  (lanesOf t.lanes (s.activeLanes t)).map fun L => s.access t sp need (t.rs sbase) (t.src .int so L).toNat size align 1 L

/-- The loads that enter the team queue: one per lane, ids rising from the next one (R84, R86). -/
def loadEntries (s : State) (t : Team) (pol : Nat) (dest : LaneAcc → Dest) (acc : List LaneAcc) : List TqEntry :=
  acc.zipIdx.map fun e =>
    ⟨s.nextId + e.2, s.nextId, .load e.1.pieces 0, decide (polOrd pol = 1 ∨ polOrd pol = 3), effRepl e.1.repl (polRepl pol), [], dest e.1,
      t.pc, t.rpcHere, s.curWord, e.1.addr, e.1.space == .lane⟩

/-- The stores that enter the store queue: one per piece of each lane, with the bytes of the lane's value that it takes (R81, R86). -/
def storeEntries (s : State) (t : Team) (pol : Nat) (val : Nat → QWord) (acc : List LaneAcc) : List SqEntry :=
  (acc.flatMap fun a => a.pieces.map fun p => (a, p)).zipIdx.map fun e =>
    ⟨s.nextId + e.2, s.nextId, e.1.1.space, e.1.2.loc, e.1.2.len, e.1.2.home,
      .store (qn ((val e.1.1.lane).toNat / 2 ^ (8 * e.1.2.off) % 2 ^ (8 * e.1.2.len))), false, polRel .store e.1.1.space pol, false,
      .lane e.1.1.lane 0, t.pc, t.rpcHere, s.curWord, e.1.1.addr⟩

/-- The atomics that enter the store queue: one per lane (R94, R239). -/
def atomEntries (s : State) (t : Team) (pol : Nat) (op : Nat → SqOp) (returns : Bool) (dest : LaneAcc → Dest) (acc : List LaneAcc) :
    List SqEntry :=
  acc.zipIdx.map fun e =>
    ⟨s.nextId + e.2, s.nextId, e.1.space, (e.1.pieces.headD ⟨0, 0, 0, 0⟩).loc, (e.1.pieces.headD ⟨0, 0, 0, 0⟩).len,
      (e.1.pieces.headD ⟨0, 0, 0, 0⟩).home, op e.1.lane, decide (polOrd pol = 1 ∨ polOrd pol = 3), polRel .atomic e.1.space pol, returns,
      dest e.1, t.pc, t.rpcHere, s.curWord, e.1.addr⟩

/-- What a policy word meets of each detail of POLICY (R334, Table 22.2). -/
def PolicyBad (k : AccKind) (w : Nat) : Nat → Prop
  | 1 => 5 ≤ w / 2 ^ 28
  | 2 => 6 ≤ w / 2 ^ 25 % 8
  | 3 => w / 2 ^ 23 % 4 = 3
  | 4 => w / 2 ^ 22 % 2 = 1
  | 5 => w / 2 ^ 28 = 1 ∧ k = .store
  | 6 => w / 2 ^ 28 = 2 ∧ k = .load
  | _ => False

/-- The lowest detail of POLICY that a word meets (R322). -/
def PolicyMeets (k : AccKind) (w d : Nat) : Prop := PolicyBad k w d ∧ ∀ e, e < d → ¬ PolicyBad k w e

/-- The fault that a record carries of those that the lanes of an access meet: the lowest cause, then detail, then lane (R322, R342). -/
def LowestOf (fs : List FInfo) (f : FInfo) : Prop :=
  ∃ l r, fs = l ++ f :: r ∧ (∀ g ∈ l, f.cause < g.cause ∨ f.cause = g.cause ∧ f.detail < g.detail)
    ∧ ∀ g ∈ r, f.cause < g.cause ∨ f.cause = g.cause ∧ f.detail ≤ g.detail

/-- A partition that takes fault records: its fault queue exists, and the launch of t is not being cancelled. -/
abbrev Reports (s : State) (t : Team) : Prop :=
  (∃ p, s.part? t.vf = some p ∧ p.fqsize ≠ 0 ∧ p.fqbase ≠ 0) ∧ ((s.launch? t.launch).map Launch.cancel).getD false = false

/-- What a vector access does. A policy word that fails faults POLICY (R334). A check at issue that fails in some lane stops every lane: the
instruction faults, and no access enters the machine (R341, R342). A lane that meets a later cause is unfinished: the others enter the
machine, the team parks, and UMASK holds the unfinished lanes where some lane is finished (R342). Otherwise it retires: its accesses enter
the team's queues behind those there, and registers, predicates, flags, memory and other teams are as before; one that returns a value
makes a latch entry, which holds vt as it stands until the values come (R16, R184, R233). -/
def VecRun (i : Instr) (kind : AccKind) (sp : Space) (need : Need) (so : Src) (sbase : BitVec 6) (spol size align : Nat)
    (latch : Option (BitVec 6)) (tq : State → Team → List LaneAcc → List TqEntry) (sq : State → Team → List LaneAcc → List SqEntry) :
    Prop :=
  ∀ (s : State) (t : Team) (acc : List LaneAcc), Runs s t → i.highReg t.regs = none → acc = s.laneAccs t sp need so sbase size align →
    (∀ d, PolicyMeets kind (t.policy spol) d → exec i s = .next (s.fault t ⟨0x04, d, qn (t.policy spol), qn spol⟩))
    ∧ (policyFault kind (t.policy spol) spol = none →
      (∀ f, LowestOf (acc.filterMap LaneAcc.err) f → f.cause < 0x45 → exec i s = .next (s.fault t f))
      ∧ (∀ f, LowestOf (acc.filterMap LaneAcc.err) f → 0x45 ≤ f.cause → Reports s t → t.replay = [] → s.cur.bind Cur.lanes = none →
          t.lanes ≤ 1024 →
          ∃ s' u k, exec i s = .next s' ∧ s'.team? t.tk = some u ∧ u.park = some k ∧ k.cause = f.cause ∧ k.detail = f.detail ∧ k.pc = t.pc
            ∧ u.v = t.v ∧ u.s = t.s ∧ u.p = t.p ∧ u.lat = []
            ∧ u.tq = t.tq ++ tq s t (acc.filter fun a => a.err.isNone) ∧ u.sq = t.sq ++ sq s t (acc.filter fun a => a.err.isNone)
            ∧ (∀ L, L < 1024 → (k.umask.getLsbD L = true ↔ (∃ a ∈ acc, a.lane = L ∧ a.err ≠ none) ∧ ∃ a ∈ acc, a.err = none))
            ∧ (∀ k, k ≠ t.tk → s'.team? k = s.team? k) ∧ ∀ a, Memory.get s'.mem a = Memory.get s.mem a)
      ∧ ((∀ a ∈ acc, a.err = none) →
          ∃ s' t', exec i s = .next s' ∧ Issued s s' t t'
            ∧ t' = { t with
                tq := t.tq ++ tq s t acc, sq := t.sq ++ sq s t acc, lat := t'.lat, pc := t.nextPc, clock := t.clock + 1 }
            ∧ (latch = none → t'.lat = t.lat)
            ∧ (∀ vt, latch = some vt →
                (∀ L, L < t.lanes → t'.latch 0 L = if size = 8 then t.vpair vt.toNat L else (t.vreg vt.toNat L).setWidth 64)
                ∧ ∀ k L, k < 3 → t'.latch (k + 1) L = t.latch k L)))

/-- A vector load (R233, R234). -/
def LoadRun (c : VM → Instr) (sp : Space) : Prop :=
  ∀ o : VM, VecRun (c o) .load sp .load o.so o.sbase o.spol.toNat (sizeBytes o.size) 0 (some o.vt)
    (fun s t acc => loadEntries s t (t.policy o.spol.toNat)
      (fun a => .vec o.vt.toNat a.lane (sizeBytes o.size) s.nextId (s.laneCount t)) acc)
    (fun _ _ _ => [])

/-- A vector store (R233, R235). -/
def StoreRun (c : VM → Instr) (sp : Space) : Prop :=
  ∀ o : VM, VecRun (c o) .store sp .store o.so o.sbase o.spol.toNat (sizeBytes o.size) 0 none (fun _ _ _ => [])
    (fun s t acc => storeEntries s t (t.policy o.spol.toNat)
      (fun L => if o.size = .b8 then t.vpair o.vt.toNat L else (t.vreg o.vt.toNat L).setWidth 64) acc)

/-- A vector atomic of w bytes that returns the old value to vt (R239, R240). -/
def AtomRun (i : Instr) (sp : Space) (vt : BitVec 6) (so : Src) (sbase : BitVec 6) (spol : BitVec 2) (w : Nat)
    (op : Team → Nat → SqOp) : Prop :=
  VecRun i .atomic sp .atomic so sbase spol.toNat w w (some vt) (fun _ _ _ => [])
    (fun s t acc => atomEntries s t (t.policy spol.toNat) (op t) true (fun a => .vec vt.toNat a.lane w s.nextId (s.laneCount t)) acc)

/-- What an access of the whole team does: a policy word that fails and an address that fails a check fault, with nothing in the team's
queues (R334, R341); otherwise it retires, and enters the team's queues (R238, R241). -/
def TeamAccRun (i : Instr) (kind : AccKind) (sp : Space) (need : Need) (base : Team → QWord) (off : Team → Nat) (spol size align : Nat)
    (tq : State → Team → List LaneAcc → List TqEntry) (sq : State → Team → List LaneAcc → List SqEntry) : Prop :=
  ∀ (s : State) (t : Team) (a : LaneAcc), Runs s t → a = s.access t sp need (base t) (off t) size align 2 0 →
    (∀ d, PolicyMeets kind (t.policy spol) d → exec i s = .next (s.fault t ⟨0x04, d, qn (t.policy spol), qn spol⟩))
    ∧ (policyFault kind (t.policy spol) spol = none →
      (∀ f, a.err = some f → exec i s = .next (s.fault t f))
      ∧ (a.err = none →
          ∃ s' t', exec i s = .next s' ∧ Issued s s' t t'
            ∧ t' = { t with tq := t.tq ++ tq s t [a], sq := t.sq ++ sq s t [a], pc := t.nextPc, clock := t.clock + 1 }))

/-- What a counter operation does: a policy word, an address or an amount that fails its check faults, the amount with COUNTER 1 (R242);
otherwise it enters the store queue (R243). -/
def CounterRun (i : Instr) (sbase : BitVec 6) (spol : Nat) (n : Team → Nat) (fixed : Bool) (dest : Dest) (op : Nat → CtrOp) : Prop :=
  ∀ (s : State) (t : Team) (a : LaneAcc), Runs s t → a = s.access t .global .counter (t.rs sbase) 0 8 8 2 0 →
    (∀ d, PolicyMeets .atomic (t.policy spol) d → exec i s = .next (s.fault t ⟨0x04, d, qn (t.policy spol), qn spol⟩))
    ∧ (policyFault .atomic (t.policy spol) spol = none →
      (∀ f, a.err = some f → exec i s = .next (s.fault t f))
      ∧ (a.err = none → 2 ^ 63 ≤ n t → exec i s = .next (s.fault t ⟨0x46, 1, t.rs sbase, qn (n t)⟩))
      ∧ (a.err = none → n t < 2 ^ 63 →
          ∃ s' t', exec i s = .next s' ∧ Issued s s' t t'
            ∧ t' = { t with
                sq := t.sq ++ atomEntries s t (if fixed then 3 * 2 ^ 28 + 4 * 2 ^ 25 else t.policy spol)
                  (fun _ => .ctr ((s.asidOf t * 2 ^ 24 + hObj (t.rs sbase)) * 2 ^ 37 + hOff (t.rs sbase) / 8) (op (n t)))
                  (dest != .none) (fun _ => dest) [a]
                pc := t.nextPc, clock := t.clock + 1 }))

/-! ## Frames -/

/-- The stores of a frame write: one per piece of the access, at team scope, with the bytes that lie there (R226). -/
def frameEntries (s : State) (t : Team) (h : QWord) (off : Nat) (bytes : List Byte) : List SqEntry :=
  let a := s.access t .global .store h off bytes.length 0 0 0
  a.pieces.zipIdx.map fun e =>
    ⟨s.nextId + e.2, s.nextId, .global, e.1.loc, e.1.len, e.1.home, .store (qn (leNat ((bytes.drop e.1.off).take e.1.len))), false, none,
      false, .none, t.pc, t.pc, s.curWord, a.addr⟩

/-- A promotion point i may act: its team runs, its frame reads may be satisfied (R87, R105, R226), and Dill, where the flag is set, has
acted before its own effect, which goes on from s1 and t1 (R51). With no flag these are s and t. -/
def AtFrame (i : Instr) (s : State) (t : Team) (s1 : State) (t1 : Team) : Prop :=
  Runs s t ∧ s.frameOpen t (t.frameNeeds i) = true ∧ s.dill t = .go s1 t1

/-- The oldest promotable frame of a team whose flag is set, with its 256 bytes, and the room for a team that Dill finds: the launch goes on,
the parent's release at partition scope holds, and no other core holds the lines that Dill writes (R51 to R53, R105). -/
structure Promotes (s : State) (t : Team) (l : Launch) (h : QWord) (r : Room) (bs : List Byte) : Prop where
  flag   : t.pending = true
  launch : s.launch? t.launch = some l ∧ l.cancel = false ∧ (l.det = false ∨ s.ownRoom t l = true)
  frame  : ∃ f, s.oldest t = some (h, f)
  room   : s.roomFor t = some r ∧ s.team? (teamKey t.vf (s.nextTid t.vf)) = none
  order  : s.releaseOk t s.nextId .partition = true ∧ s.dillOpen t h = true ∧ s.dillOpen t r.fsb = true
  bytes  : s.readHandle (s.asidOf t) t.vf h 256 = .ok bs

/-- A team as its promotion leaves it (R27, R52): the frame's PC, mask and slots, its parent's lanes, registers, RMODE, PRIO, level and
indices, and nothing else of it but the top of its frame stack. -/
structure Forked (s : State) (t : Team) (h : QWord) (f : FrameHead) (bs : List Byte) (r : Room) (u : Team) : Prop where
  ids    : u.vf = t.vf ∧ u.tid = s.nextTid t.vf ∧ u.launch = t.launch ∧ u.forked = true ∧ u.parent = t.tid ∧ u.origin = some h
             ∧ u.slice = r.slice ∧ u.key = t.key ++ [t.children]
  as     : u.lanes = t.lanes ∧ u.regs = t.regs ∧ u.rmode = t.rmode ∧ u.prio = t.prio ∧ u.level = t.level ∧ u.teamid = t.teamid
             ∧ u.crewid = t.crewid ∧ u.fleetid = t.fleetid ∧ u.lgx = t.lgx ∧ u.lgy = t.lgy ∧ u.lgz = t.lgz
  start  : u.pc = f.resume ∧ u.mask = BitVec.ofNat 1024 (leNat ((bs.drop 32).take 128)) ∧ u.fsb = r.fsb ∧ u.region = r.region
  args   : ∀ x, u.sreg x = if 1 ≤ x ∧ x ≤ 12 then qn (leNat ((bs.drop (160 + 8 * (x - 1))).take 8))
             else if x = 62 then (if f.kind = 2 then pcPlus r.fsb 256 else r.fsb) else 0
  zero   : (∀ x L, u.vreg x L = 0) ∧ (∀ n L, u.pred n L = decide (n = 0)) ∧ u.lat = [] ∧ u.toks = [] ∧ (∀ k, (u.token k).busy = 0)
             ∧ u.tq = [] ∧ u.sq = [] ∧ u.wait = none ∧ u.park = none ∧ u.saved = none ∧ u.ended = false ∧ u.pending = false ∧ u.clock = 0

/-- The first 32 bytes that Dill gives the promoted frame (R51): STATE promoted, the child's identifier, JCELL one higher, and of a loop
frame the lower half of its range. -/
def promotedHead (s : State) (t : Team) (f : FrameHead) (mid : Nat) : List Byte :=
  leBytes 8 f.resume.toNat
    ++ leBytes 8 (2 ^ 62 + f.kind * 2 ^ 60 + (if f.root = true then 2 ^ 59 else 0) + s.nextTid t.vf * 2 ^ 32 + (f.jcell + 1) % 2 ^ 32)
    ++ if f.kind = 2 then leBytes 8 f.lo.toNat ++ leBytes 8 mid else []

/-- The loop frame of the child: the upper half of the range, a root (R51). -/
def childFrame (f : FrameHead) (bs : List Byte) (mid : Nat) : List Byte :=
  leBytes 8 f.resume.toNat ++ leBytes 8 (2 * 2 ^ 60 + 2 ^ 59) ++ leBytes 8 mid ++ leBytes 8 f.hi.toNat ++ bs.drop 32

/-- A frame write whose address passes every check. -/
abbrev CanWrite (s : State) (t : Team) (h : QWord) (off n : Nat) : Prop := (s.access t .global .store h off n 0 0 0).err = none

/-- The fields of a frame (Table 4.1): RESUME, KIND and STATE, ROOT, JCELL, LO and HI, the lane mask, and slots 0 to 11. -/
def FrameIs (b : List Byte) (resume q1 lo hi : QWord) (mask : Mask) (slots : Nat → QWord) : Prop :=
  b.length = 256 ∧ leNat (b.take 8) = resume.toNat ∧ leNat ((b.drop 8).take 8) = q1.toNat ∧ leNat ((b.drop 16).take 8) = lo.toNat
    ∧ leNat ((b.drop 24).take 8) = hi.toNat ∧ leNat ((b.drop 32).take 128) = mask.toNat
    ∧ ∀ k, k < 12 → leNat ((b.drop (160 + 8 * k)).take 8) = (slots k).toNat

/-- A push of a frame of a kind, from where Dill has left the team: its 256 bytes enter the store queue at the top of the stack, s62 passes
it, and the team goes on; registers but s62, masks, memory and other teams are as Dill has left them (R48, R51). -/
def PushRun (i : Instr) (kind : Nat) (resume : Team → QWord) (mask : Team → Mask) (lo hi : Team → QWord) : Prop :=
  ∀ (s s1 : State) (t t1 : Team), AtFrame i s t s1 t1 → (t.sreg 62).toNat + 256 ≤ t.fsl.toNat → CanWrite s t (t.sreg 62) 0 256 →
    CanWrite s1 t1 (t.sreg 62) 0 256 →
    ∃ s' t' b, exec i s = .next s' ∧ Issued s1 s' t1 t'
      ∧ FrameIs b (resume t) (BitVec.ofNat 64 (kind * 2 ^ 60)) (lo t) (hi t) (mask t) (fun k => t.sreg (k + 1))
      ∧ t' = { t1 with s := t'.s, sq := t.sq ++ frameEntries s1 t1 (t.sreg 62) 0 b, pc := t.nextPc, clock := t.clock + 1 }
      ∧ ∀ r, t'.sreg r = if r = 62 then pcPlus (t.sreg 62) 256 else t.sreg r

/-- s' has the same memory as s, and the same teams but the one of t. -/
structure TeamAlone (s s' : State) (t t' : Team) : Prop where
  self   : s'.team? t.tk = some t'
  others : ∀ k, k ≠ t.tk → s'.team? k = s.team? k
  bytes  : ∀ a, Memory.get s'.mem a = Memory.get s.mem a

/-- A team that is not on its partition's list of parked teams (R325). -/
abbrev Unlisted (s : State) (t : Team) : Prop := ∀ p, s.part? t.vf = some p → t.tk ∉ p.parked

/-! ## Exceptions -/

/-- The team of t is parked in s' with a cause and a detail, at a recorded PC, and its registers, predicates, mask and tokens are as in t
(R319, R320). -/
def Parks (s' : State) (t : Team) (cause detail : Nat) (pc : QWord) : Prop :=
  ∃ u k, s'.team? t.tk = some u ∧ u.park = some k ∧ k.cause = cause ∧ k.detail = detail ∧ k.pc = pc
    ∧ u.v = t.v ∧ u.p = t.p ∧ u.s = t.s ∧ u.mask = t.mask ∧ u.toks = t.toks

/-- The list that an item instruction names, below LISTS of the team's launch. -/
abbrev NamesList (s : State) (t : Team) (h : QWord) : Prop :=
  ∃ la, s.launch? t.launch = some la ∧ h.toNat < la.nlists

/-! ## Barriers and waits -/

/-- The barrier that a team may name: cb and fb below the counts of its bound, unforked crew and fleet, lb in a launch with COR = 1
(R23, R24, R31, R251). -/
def NamesBar (s : State) (t : Team) (b : Bar) (k : BarKey) : Prop :=
  t.forked = false ∧ ∃ l, s.launch? t.launch = some l ∧
    match b with
    | .cb n => l.bound = true ∧ n.toNat < l.cbars ∧ k = .cb t.crewKey n.toNat
    | .fb n => l.bound = true ∧ n.toNat < l.fbars ∧ k = .fb t.fleetKey n.toNat
    | .lb n => l.cor = true ∧ k = .lb t.launch n.toNat

/-- The transfer barrier that a team may name: below TBARS of its crew, and not forked (R23, R252). -/
def NamesTb (s : State) (t : Team) (n : BitVec 6) : Prop :=
  t.forked = false ∧ ∃ l, s.launch? t.launch = some l ∧ n.toNat < l.tbars

/-- The entry of an arrival in the store queue: a release at the barrier's scope (R251, R252). -/
def arrivalEntry (s : State) (t : Team) (k : BarKey) (dest : Dest) : SqEntry :=
  ⟨s.nextId, s.nextId, .core, 0, 0, 0, .arrive k, false, some k.scope, false, dest, t.pc, t.pc, s.curWord, 0⟩

/-- An instruction that returns val to sd when cond holds and otherwise waits for on, at the same PC and with nothing retired. -/
def ReturnsOrWaits (i : Instr) (s : State) (t : Team) (cond : Prop) (sd : BitVec 6) (val : QWord) (on : WaitOn) : Prop :=
  ∃ s' t', exec i s = .next s' ∧ OneTeam s s' t t'
    ∧ (cond → t' = { t with s := t'.s, pc := t.nextPc, clock := t.clock + 1 }
        ∧ ∀ r, t'.sreg r = if r = sd.toNat ∧ r ≠ 0 then val else t.sreg r)
    ∧ (¬ cond → t' = { t with wait := some ⟨on, s.curWord, s.thyme, s.thyme, 0⟩ })

/-- Phase q of a barrier is complete: PH lies 1 to 32,768 phases past it, modulo 2^16 (R250). -/
def PhaseComplete (b : Barrier) (q : Nat) : Prop := ∃ d, 1 ≤ d ∧ d ≤ 32768 ∧ (q + d) % 65536 = b.ph % 65536

/-! ## Engine commands -/

/-- A command's token is busier by one, its failure mark clears where it was idle, and every other token is as before (R253, R346). -/
def TokenTaken (t t' : Team) (k : Nat) : Prop :=
  (t'.token k).busy = (t.token k).busy + 1 ∧ (t'.token k).failed = ((t.token k).failed && (t.token k).busy != 0)
    ∧ ∀ j, j ≠ k → t'.token j = t.token j

/-- s' differs from s in the team of t, the ids given out and the core of t; every byte of memory reads as before. -/
structure Commanded (s s' : State) (t t' : Team) : Prop where
  rest   : s' = { s with teams := s'.teams, nextId := s'.nextId, cores := s'.cores }
  self   : s'.team? t.tk = some t'
  others : ∀ k, k ≠ t.tk → s'.team? k = s.team? k
  cores  : ∀ c, c ≠ t.core → s'.core c = s.core c
  team   : t' = { t with ct := t'.ct, pc := t.nextPc, clock := t.clock + 1 }

/-- A copy joins the copy queue of its team's core and its token is busy; the team goes on (R253, R256). -/
def CopyRun (i : Instr) (s : State) (t : Team) (ct : Nat) (src dst : CopyEnd) (len : Nat) (win : Option Window) (geo : Desc)
    (arr : Option Nat) : Prop :=
  ∃ s' t' c, exec i s = .next s' ∧ Commanded s s' t t' ∧ TokenTaken t t' ct
    ∧ s'.core t.core = { s.core t.core with copies := (s.core t.core).copies ++ [c] }
    ∧ c = { c with
        id := s.nextId, tk := t.tk, ct := ct, src := src, dst := dst, len := len, win := win, rmode := t.rmode, geo := geo
        chunk := 0, part := 0, reads := [], puts := [], buf := [], writes := [], seen := [], remote := 0, arr := arr, held := false
        fail := false, away := s.endRemote t dst, crew := t.crewKey, prio := t.prio }

/-- A command joins the matrix engine's queue, with the operands op, and its token is busy; the team goes on. -/
def MatRun (i : Instr) (s : State) (t : Team) (ct : Nat) (op : MatOp) : Prop :=
  ∃ s' t' c, exec i s = .next s' ∧ Commanded s s' t t' ∧ TokenTaken t t' ct
    ∧ s'.core t.core = { s.core t.core with mats := (s.core t.core).mats ++ [c] }
    ∧ c = { c with id := s.nextId, tk := t.tk, ct := ct, op := op, step := 0, fail := false, prio := t.prio }

/-- A byte of an object may be read by a copy of the team. -/
def CopyReads (s : State) (t : Team) (base : QWord) (x : Nat) : Prop :=
  ∃ d, s.checkGlobal (coreCluster t.core) (s.asidOf t) .copyRead base x 1 0 0 = .ok d

/-- One end of a CPY passes its checks: its space code is not reserved and its range lies within the space (R257, R258). -/
def EndOk (s : State) (t : Team) (code : Nat) (reg : QWord) (n : Nat) (need : Need) : Prop :=
  ∃ sp, copySpace code = some sp ∧ s.endFault t sp reg n need = none

/-- TBARS of the team's launch. -/
def State.tbarsOf (s : State) (t : Team) : Nat := ((s.launch? t.launch).map Launch.tbars).getD 0

/-- A CPYT's window passes every check against its tensor d: its source bytes, its scales where it dequantises, its format, its
destination (R259, R260). -/
def WindowOk (s : State) (t : Team) (d : Desc) (rb : QWord) (w : Window) : Prop :=
  d.kind = 1 ∧ w.bad d.tfmt = false ∧ s.extFault (coreCluster t.core) (s.asidOf t) rb d = none ∧ d.admits .copyRead rb = none
    ∧ (w.dq = true → d.smode = 1 ∧ 3 ≤ d.tfmt ∧ d.tfmt ≤ 5
        ∧ ∃ sd, s.desc (coreCluster t.core) (s.asidOf t) d.sbase = .ok sd ∧ sd.kind = 1
          ∧ s.extFault (coreCluster t.core) (s.asidOf t) d.sbase sd = none ∧ sd.admits .copyRead d.sbase = none)
    ∧ (w.i0 < d.dim 0 ∧ w.i1 < d.dim 1 ∧ w.i2 < d.dim 2 ∧ w.i3 < d.dim 3 →
        ∀ hi0 hi1, hi0 = min (w.i0 + w.w0 - 1) (d.dim 0 - 1) → hi1 = min (w.i1 + w.w1 - 1) (d.dim 1 - 1) →
          CopyReads s t (mkHandle (hObj rb) 0) (d.elemOff w.i0 w.i1 w.i2 w.i3)
          ∧ CopyReads s t (mkHandle (hObj rb) 0) (d.elemOff hi0 hi1 w.i2 w.i3 + (tfBits d.tfmt - 1) / 8)
          ∧ (w.dq = true → CopyReads s t d.sbase (d.scaleOff w.i0 w.i1 w.i2 w.i3) ∧ CopyReads s t d.sbase (d.scaleOff hi0 hi1 w.i2 w.i3)))

/-! ## System instructions -/

/-- What follows a fault in a partition that takes records: the team is parked as the fault says, at its restart point, its latches
discarded; it has retired nothing, and in a deterministic launch its count is that of the restart point (R178, R319, R320). Every other
team and every byte of memory is as before. -/
def Excepted (s s' : State) (t : Team) (cause detail : Nat) (pc : QWord) : Prop :=
  Parks s' t cause detail pc
    ∧ (∀ u, s'.team? t.tk = some u → u.pc = s.rpc t ∧ u.lat = [] ∧ u.level = t.level
      ∧ u.clock = if s.isDet t = true ∧ s.inRun t = true ∧ t.runStart.isSome = true then t.runClock else t.clock)
    ∧ (∀ k, k ≠ t.tk → s'.team? k = s.team? k) ∧ ∀ a, Memory.get s'.mem a = Memory.get s.mem a

/-- An instruction that sets sd to val and changes its own team otherwise only as f says, whatever else it does to others. -/
def SetsTeam (s' : State) (t : Team) (sd : BitVec 6) (val : QWord) (f : Team → Team) : Prop :=
  ∃ t', s'.team? t.tk = some t' ∧ t' = { f t with s := t'.s, pc := t.nextPc, clock := t.clock + 1 }
    ∧ ∀ r, t'.sreg r = if r = sd.toNat ∧ r ≠ 0 then val else t.sreg r

/-- The pieces to which the device stores n bytes at a handle, whose checks pass (R323). -/
def PutAt (s : State) (asid vf : Nat) (h : QWord) (n : Nat) (ps : List Piece) : Prop :=
  s.lost = [] ∧ ∃ d, s.checkGlobal 999 asid .store h 0 n 0 0 = .ok d ∧ d.kind ≠ 4
    ∧ s.globalPieces 999 asid vf d (hObj h) (hOff h) n = .ok ps

/-- The 256 bytes of a team's entry in the parked-team list (Table 22.3). -/
def EntryIs (b : List Byte) (u : Team) (k : ParkInfo) : Prop :=
  b.length = 256
    ∧ leNat (b.take 8) = (k.cause * 2 ^ 56 + k.detail * 2 ^ 48 + (if k.fromWait = true then 2 ^ 24 else 0) + u.tid) % 2 ^ 64
    ∧ leNat ((b.drop 8).take 8) = k.seq % 2 ^ 64 ∧ leNat ((b.drop 16).take 8) = k.pc.toNat ∧ leNat ((b.drop 24).take 8) = 0
    ∧ leNat ((b.drop 32).take 128) = k.umask.toNat ∧ leNat ((b.drop 160).take 96) = 0

/-- The 64 bytes of fault record number n (Table 22.1). -/
def RecordIs (b : List Byte) (r : Record) (n : Nat) : Prop :=
  b.length = 64
    ∧ leNat (b.take 8) = (r.cause * 2 ^ 56 + r.detail * 2 ^ 48 + (if r.prec = true then 2 ^ 47 else 0) + (if r.level = true then 2 ^ 46 else 0)
        + (if r.set = true then 2 ^ 45 else 0) + (if r.det = true then 2 ^ 44 else 0) + r.tk % 2 ^ 24) % 2 ^ 64
    ∧ leNat ((b.drop 8).take 8) = r.pc.toNat ∧ leNat ((b.drop 16).take 8) = r.rpc.toNat
    ∧ leNat ((b.drop 24).take 8) = (r.word.toNat * 2 ^ 32 + r.lid) % 2 ^ 64 ∧ leNat ((b.drop 32).take 8) = r.addr.toNat
    ∧ leNat ((b.drop 40).take 8) = r.aux.toNat ∧ leNat ((b.drop 48).take 8) = r.thyme % 2 ^ 64
    ∧ leNat ((b.drop 56).take 8) = (r.usum * 2 ^ 32 + (n + 1) % 2 ^ 32) % 2 ^ 64

/-- What a value written to a register with a RW field meets of details 3 and 4 of SYSREG (R323, R336, Tables 9.1, 14.8 and 22.2): FQSIZE,
CAP and CEIL out of range; FQBASE and FQSIZE while records stand in the queue, FQHEAD outside FQHEAD to FQTAIL, PKBASE while PKCNT ≠ 0. -/
def SysBad (p : Part) (id : Nat) (v : QWord) : Nat → Prop
  | 3 => (id = 0x101 ∧ v.toNat ≠ 0 ∧ ¬ ∃ k, 4 ≤ k ∧ k ≤ 16 ∧ v.toNat = 2 ^ k)
      ∨ (id = 0x121 ∧ (fld v 31 16 < 256 ∨ 32767 < fld v 31 16))
      ∨ (id = 0x123 ∧ ∃ i, i < 6 ∧ (v.toNat / 16 ^ i % 16 = 0 ∨ 9 ≤ v.toNat / 16 ^ i % 16))
  | 4 => ((id = 0x100 ∨ id = 0x101) ∧ p.fqhead ≠ p.fqtail)
      ∨ (id = 0x102 ∧ (2 ^ 32 ≤ v.toNat ∨ (p.fqtail + 2 ^ 32 - p.fqhead) % 2 ^ 32 < (v.toNat + 2 ^ 32 - p.fqhead) % 2 ^ 32))
      ∨ (id = 0x104 ∧ p.parked ≠ [])
  | _ => False

/-- The state TCTL reads of the team it names: 0 Ready, 1 Waiting, 2 Parked, 3 Saved, 4 ended or no such team (R272). -/
def StateIs (s : State) (vf tid code : Nat) : Prop :=
  match s.team? (teamKey vf tid) with
  | none => code = 4
  | some u =>
    (u.ended = true ∧ code = 4) ∨ (u.ended = false ∧ u.saved.isSome = true ∧ code = 3)
    ∨ (u.ended = false ∧ u.saved = none ∧ u.park.isSome = true ∧ code = 2)
    ∨ (u.ended = false ∧ u.saved = none ∧ u.park = none ∧ u.wait.isSome = true ∧ code = 1)
    ∨ (u.ended = false ∧ u.saved = none ∧ u.park = none ∧ u.wait = none ∧ code = 0)

/-- The record of a precise fault of t's current instruction (Table 22.1). -/
def faultRecord (s : State) (t : Team) (f : FInfo) : Record :=
  ⟨t.tk, f.cause, f.detail, true, t.level, s.curWord.getLsbD 31, ((s.launch? t.launch).map Launch.det).getD false, t.pc, s.rpc t,
    s.curWord, ((s.launch? t.launch).map Launch.lid).getD 0, f.addr, f.aux, s.thyme, 0, s.nextId, s.cycle, 16 * t.slice + t.slot,
    false, t.launch⟩

/-! ## Steps of the ordering machine -/

/-- What a delivered value changes: nothing; a uniform register; or one lane of a register or pair, and that lane of the latch entry
that the instruction made at its issue (R16, R87, R95). -/
def Delivered (t t' : Team) (d : Dest) (v : Nat) : Prop :=
  match d with
  | .none | .lane _ _ => t'.s = t.s ∧ t'.v = t.v ∧ t'.lat = t.lat
  | .uni r => t'.v = t.v ∧ t'.lat = t.lat ∧ ∀ x, t'.sreg x = if x = r ∧ r ≠ 0 then BitVec.ofNat 64 v else t.sreg x
  | .vec r L n tag _ => t'.s = t.s
      ∧ (L < t.lanes → if n = 8 then t'.vpair r L = BitVec.ofNat 64 v else t'.vreg r L = BitVec.ofNat 32 v)
      ∧ (∀ x M, M < t.lanes → M ≠ L ∨ (x ≠ r ∧ ¬ (n = 8 ∧ x = r + 1)) → t'.vreg x M = t.vreg x M)
      ∧ t'.lat = t.lat.map fun e => if e.tag = tag then { e with vals := e.vals.set L (BitVec.ofNat 64 v) } else e

/-- t' is t but for its registers and latches, its queues, what it has observed, its wait and its TRIG. -/
def QueuesOnly (t t' : Team) : Prop :=
  t' = { t with
    v := t'.v, s := t'.s, lat := t'.lat, tq := t'.tq, sq := t'.sq, observed := t'.observed, wait := t'.wait, trig := t'.trig }

/-- What R87 and R91 ask before a load of n bytes at loc, with an id, of the instruction of id base, may be satisfied: no older acquire
or fence of its team, no older load and no older atomic of an overlapping byte. -/
def MaySatisfy (t : Team) (id base loc n : Nat) : Prop :=
  (∀ x ∈ t.tq, x.id < base → x.acq = false ∧ x.isFence = false) ∧ (∀ x ∈ t.sq, x.id < base → x.acq = false)
    ∧ (∀ x ∈ t.tq, x.id < id → x.overlaps loc n = false)
    ∧ ∀ x ∈ t.sq, x.id < id → x.op.isAtomic = true → overlap x.loc x.len loc n = false

/-- An entry of the team queue after a load e of its team has taken bytes of piece p from the line's home: the loads of that instruction
have reached the line (R282). -/
def State.reached (s : State) (t : Team) (e : TqEntry) (p : Piece) (x : TqEntry) : TqEntry :=
  if (s.loadBytes t e.id p.loc p.len).2.2 = true ∧ p.loc / 128 ∉ e.lines ∧ x.base = e.base then { x with lines := x.lines ++ [p.loc / 128] }
  else x

/-- What R90 to R92 ask before an entry of SQ(T) may leave it: no older store or atomic and no older load of an overlapping byte, no older
acquire or fence, and the levels of a release. -/
def MayLeave (s : State) (t : Team) (e : SqEntry) : Prop :=
  (∀ x ∈ t.sq, x.id < e.id → x.op.isStore = true ∨ x.op.isAtomic = true → overlap x.loc x.len e.loc e.len = false)
    ∧ (∀ x ∈ t.tq, x.id < e.base → x.overlaps e.loc e.len = false)
    ∧ (∀ x ∈ t.tq, x.id < e.base → x.acq = false ∧ x.isFence = false) ∧ (∀ x ∈ t.sq, x.id < e.base → x.acq = false)
    ∧ ∀ sc, e.rel = some sc → s.releaseOk t e.base sc = true

/-- Memory after n bytes of v at loc, little end first (R2): those bytes hold it and every other byte is as before. -/
def Wrote (s s' : State) (loc n v : Nat) : Prop :=
  (∀ i, i < n → (Memory.get s'.mem (loc + i)).toNat = v / 2 ^ (8 * i) % 256)
    ∧ ∀ a, a < loc ∨ loc + n ≤ a → Memory.get s'.mem a = Memory.get s.mem a

/-- Every byte of memory reads as before. -/
abbrev SameBytes (s s' : State) : Prop := ∀ a, Memory.get s'.mem a = Memory.get s.mem a

/-! ## Tokens, replication and counters -/

/-- The tokens of a line on a die: those of its home, of the cores, and in flight (R105). -/
def State.tokensOf (s : State) (die line : Nat) : Nat :=
  (s.dir die line).htok + ((s.dir die line).toks.map Prod.snd).sum
    + (s.msgs.map fun m =>
        match m with
        | .data d _ l n _ => if d = die ∧ l = line then n else 0
        | .tack d _ l n _ => if d = die ∧ l = line then n else 0
        | .evict d _ l n _ => if d = die ∧ l = line then n else 0
        | _ => 0).sum

/-- A line's directory entry is in order on every die: its holders stand under rising keys. -/
def State.LineOk (s : State) (line : Nat) : Prop := ∀ die, Tbl.wf (s.dir die line).toks = true

/-- A core has been isolated: it is fused off, and every launch with a team on it is cancelled with STATUS 4 (R364). -/
def Isolated (s s' : State) (core : Nat) : Prop :=
  core ∈ s'.fused ∧ ∀ k u l, s.team? k = some u → u.core = core → u.saved = none → s.launch? u.launch = some l → l.done = false →
    l.cancel = false → ∃ l', s'.launch? u.launch = some l' ∧ l'.cancel = true ∧ l'.status = 4

/-- A line whose tokens are 64 on every die (R105). -/
def State.Tokens64 (s : State) (line : Nat) : Prop := ∀ die, s.tokensOf die line = 64

/-- The message m, a request of a core for a line, is the first in flight; the core can reach the line, and its die has the line's data: it
is the home die, or holds a live replica. -/
def Arrives (s : State) (m : Msg) (r : List Msg) (core line vf home : Nat) : Prop :=
  s.msgs = m :: r ∧ s.lineHome core line = some (vf, home)
    ∧ (coreDie core = l2Die home ∨ (s.replica? (coreDie core) line).isSome = true)

/-- An element that can be served: not lost, no recall open, nothing waiting anywhere. -/
def Quiet (e : Elem) : Prop := e.lost = false ∧ e.recallOf = none ∧ e.asked = [] ∧ e.hq = [] ∧ ∀ x ∈ e.q, x.2 = []

/-- The result of an operation served at the fourth step of a recall against pool P, and the pool after it (R124). -/
def homeServes (op : CtrOp) (P : Nat) : Nat × Nat :=
  match op with
  | .read => (P, P)
  | .set v => (P, v)
  | .decAll n => if n ≤ P then (1, P - n) else (0, P)
  | .decPart n => (min n P, P - min n P)
  | .inc n => (0, P + n)

/-- s' differs from s in the counter elements and in the team t, to which an operation of id gave val. -/
def CounterServed (s s' : State) (t : Team) (id : Nat) (d : Dest) (val : Nat) : Prop :=
  s' = { s with teams := s'.teams, elems := s'.elems } ∧ (∀ k, k ≠ t.tk → s'.team? k = s.team? k)
    ∧ ∃ t', s'.team? t.tk = some t' ∧ QueuesOnly t t' ∧ t'.sq = t.sq.filter (fun x => x.id != id) ∧ t'.tq = t.tq
      ∧ t'.observed = t.observed ∧ t'.wait = t.wait ∧ Delivered t t' d val

/-! ## Engines at work -/

/-- Bytes written over disjoint pieces: each piece holds its part of data, and every other byte is as before. -/
def WrotePieces (s s' : State) (ps : List Piece) (data : List Byte) : Prop :=
  (∀ p ∈ ps, ∀ i, i < p.len → Memory.get s'.mem (p.loc + i) = data.getD (p.off + i) 0)
    ∧ ∀ a, (∀ p ∈ ps, a < p.loc ∨ p.loc + p.len ≤ a) → Memory.get s'.mem a = Memory.get s.mem a

/-- Pieces that do not overlap and lie inside their data. -/
def Apart (ps : List Piece) (n : Nat) : Prop :=
  ps.Pairwise (fun p q => overlap p.loc p.len q.loc q.len = false) ∧ ∀ p ∈ ps, p.off + p.len ≤ n

/-- A copy of a core, the team that issued it, and no other copy of its id. -/
def CopyIs (s : State) (core : Nat) (t : Team) (c : Copy) : Prop :=
  (s.core core).copies.find? (fun x => x.id == c.id) = some c ∧ c.tk = t.tk ∧ s.team? t.tk = some t
    ∧ ((s.core core).copies.filter fun x => x.id == c.id) = [c]

/-- After the start of 256 bytes of a copy, which is c once its chunk is translated: it has started those bytes, or the rest of its data, in
this cycle; its core's allowance is lower by C7, its streamer has moved them, and nothing else has changed. -/
def ChunkDone (s s' : State) (core : Nat) (c : Copy) : Prop :=
  s' = { s with cores := s'.cores } ∧ (∀ k, k ≠ core → s'.core k = s.core k)
    ∧ s'.core core = { s.core core with
        allow := (s.core core).allow - ((s.core core).cost 7 : Nat)
        streamed := (s.core core).streamed + min 256 (c.size - c.begun)
        copies := (s'.core core).copies }
    ∧ ∃ c', (s'.core core).copies.find? (fun x => x.id == c.id) = some c'
      ∧ c' = { c with chunk := c'.chunk, part := c'.part, last := s.cycle, starve := false }
      ∧ min c.size c'.begun = min c.size (c.begun + 256)

/-- The command at the head of a core's matrix engine, and its team. -/
def HeadIs (s : State) (core : Nat) (t : Team) (c : MatCmd) (r : List MatCmd) : Prop :=
  (s.core core).mats = c :: r ∧ c.tk = t.tk ∧ s.team? t.tk = some t ∧ ∀ x ∈ r, x.id ≠ c.id

/-- After a step of the head command: it has taken one more, the engine takes no other in this core cycle (R13), and teams are as before. -/
def StepDone (s s' : State) (core : Nat) (c : MatCmd) (r : List MatCmd) (cost : Nat) : Prop :=
  s'.teams = s.teams ∧ (s'.core core).allow = (s.core core).allow - (cost : Nat) ∧ (s'.core core).copies = (s.core core).copies
    ∧ (s'.core core).stepped = true
    ∧ ∃ c', (s'.core core).mats = c' :: r ∧ c' = { c with step := c.step + 1, last := s.cycle, starve := false, cols := c'.cols }

/-- A command of token k completes: the token is less busy by one, and marks whether the command was dropped (R253, R346). -/
def TokenFreed (t t' : Team) (k : Nat) (failed : Bool) : Prop :=
  t' = { t with ct := t'.ct } ∧ (t'.token k).busy = (t.token k).busy - 1 ∧ (t'.token k).failed = failed
    ∧ ∀ j, j ≠ k → t'.token j = t.token j

/-! ## Launches and teams -/

/-- The sixteen qwords of a packet's 128 bytes. -/
def packetOf (bs : List Byte) : List QWord := (List.range 16).map fun i => BitVec.ofNat 64 (leNat ((bs.drop (8 * i)).take 8))

/-- A queue at whose HEAD a packet stands that the distributor may read: the firmware runs, no launch waits before it, and its bytes can
be read (R309). -/
def PacketAt (s : State) (vf q : Nat) (p : Part) (k : Queue) (bs : List Byte) : Prop :=
  s.status.toNat % 256 = 1 ∧ s.part? vf = some p ∧ s.queue? vf q = some k ∧ k.waiting = none ∧ k.head ≠ k.tail ∧ s.gangs = []
    ∧ s.readHandle k.asid vf (mkHandle (hObj k.base) (hOff k.base + 128 * (k.head % k.size))) 128 = .ok bs

/-- A team as it is placed (R25, R26, R30, R36, R132, R253, R261): its indices and coordinates, its lanes all active, its registers zero but
the packet's arguments and the top of its frame stack, level and priority its launch's. -/
structure Placed (s s' : State) (uid : Nat) (l : Launch) (fid cid tid slice : Nat) (t : Team) : Prop where
  there   : s'.team? t.tk = some t
  ids     : t.vf = l.vf ∧ t.tid = s.nextTid l.vf ∧ t.launch = uid ∧ t.teamid = tid ∧ t.crewid = cid ∧ t.fleetid = fid ∧ t.slice = slice
  coords  : t.lgx = fid % l.gx ∧ t.lgy = fid / l.gx % l.gy ∧ t.lgz = fid / l.gx / l.gy
  shape   : t.lanes = l.lanes ∧ t.regs = l.regs ∧ t.forked = false ∧ t.level = l.level ∧ t.prio = l.prio ∧ t.pc = l.entry
  key     : t.key = [(fid * l.ncrews + cid) * l.nteamsCrew + tid]
  frames  : t.fsb = pcPlus l.fstack (256 * l.fsfr * ((fid * l.ncrews + cid) * l.nteamsCrew + tid) : Nat)
              ∧ t.fsl = mkHandle (hObj t.fsb) (hOff t.fsb + 256 * l.fsfr)
  mask    : ∀ L, L < 1024 → t.mask.getLsbD L = decide (L < l.lanes)
  vectors : ∀ r L, t.vreg r L = 0
  preds   : ∀ n L, t.pred n L = decide (n = 0)
  args    : ∀ r, t.sreg r = if 1 ≤ r ∧ r ≤ 8 then l.q' (7 + r) else if r = 62 then t.fsb else 0
  rest    : t.rmode = 0 ∧ t.clock = 0 ∧ t.epc = 0 ∧ t.ecode = 0 ∧ t.toks = [] ∧ t.lat = [] ∧ t.tq = [] ∧ t.sq = [] ∧ t.wait = none
              ∧ t.park = none ∧ t.saved = none ∧ t.pending = false ∧ t.dbg = false ∧ t.mst.afmt = 3 ∧ t.mst.bfmt = 3
              ∧ (∀ k, (t.token k).busy = 0) ∧ ∀ k L, t.latch k L = 0

/-- A wait of t that returned in u: the team is Ready at the next instruction, which counts once; where that one reads a latch, it begins a
run at the instruction waited in (R175). -/
def Returned (s' : State) (t u : Team) : Prop :=
  u = { t with
    s := u.s, observed := u.observed, wait := none, pc := t.nextPc, clock := t.clock + 1
    runStart := if s'.inRun u = true then some t.pc else none, runClock := if s'.inRun u = true then t.clock else t.runClock }

/-- A wait that returns val to sd; another team and memory are as before. -/
def WaitReturned (s s' : State) (t : Team) (sd : BitVec 6) (val : QWord) : Prop :=
  ∃ t', OneTeam s s' t t' ∧ Returned s' t t' ∧ t'.observed = t.observed
    ∧ ∀ r, t'.sreg r = if r = sd.toNat ∧ r ≠ 0 then val else t.sreg r

/-- A running team that waits, in a launch that is not deterministic. -/
def Waits (s : State) (t : Team) (w : Wait) : Prop :=
  s.team? t.tk = some t ∧ t.wait = some w ∧ t.running = true ∧ s.isDet t = false

/-- The value of WAITT (R253): its low bits tell the named tokens that are idle, bit 63 whether a command of one of them failed. -/
def TokenResult (t : Team) (m : BitVec 8) (v : QWord) : Prop :=
  (∀ k, k < 63 → (v.getLsbD k = true ↔ k < 8 ∧ m.getLsbD k = true ∧ (t.token k).busy = 0))
    ∧ (v.getLsbD 63 = true ↔ ∃ k, k < 8 ∧ m.getLsbD k = true ∧ (t.token k).busy = 0 ∧ (t.token k).failed = true)

/-- A JOIN tests its wait: on the state and the team that Dill, acting there, leaves, with the frame on top of the stack readable and one that
is not taken inline (R55). -/
def JoinTests (s : State) (t : Team) (w : Wait) (s1 : State) (t1 : Team) (f : FrameHead) : Prop :=
  Waits s t w ∧ w.on = .join ∧ s.frameOpen t (t.frameNeeds .join) = true
    ∧ State.joinFault { s with cur := some ⟨t.tk, w.word, none⟩ } t = none
    ∧ State.dill { s with cur := some ⟨t.tk, w.word, none⟩ } t = .go s1 t1
    ∧ ∃ o, s1.frameHead t1 (topFrame t) = .ok (f, o) ∧ ¬ (f.kind < 2 ∧ f.state = 0)

/-! ## Heat, current, errors and Thyme -/

/-- The module has shut down (R363, Table 24.9): STATE 3 with its REASON and THERM 4, every die and every SRAM stack off, T2 in
self-refresh for 10 s, no PRESIZE under way. -/
structure ShutDown (s s' : State) (reason : Nat) : Prop where
  state   : fld s'.status 7 0 = 3
  reason  : fld s'.status 39 32 = reason
  therm   : fld s'.status 15 8 = 4
  off     : ∀ d, d < 8 → (s'.die d).off = true
  srams   : ∀ k, k < 32 → (s'.stack k).off = true
  refresh : s'.refresh = some (s.thyme + 10000000000)
  resize  : ∀ e ∈ s'.parts, e.2.resize = none

/-- The thermal state of a temperature: 0 Normal, 1 Warm, 2 Hot, 3 Critical, 4 Shutdown (Tables 9.4 and 24.7). -/
def HeatIs (temp heat : Nat) : Prop :=
  (heat = 0 ∧ temp < 85) ∨ (heat = 1 ∧ 85 ≤ temp ∧ temp < 95) ∨ (heat = 2 ∧ 95 ≤ temp ∧ temp < 105)
    ∨ (heat = 3 ∧ 105 ≤ temp ∧ temp < 115) ∨ (heat = 4 ∧ 115 ≤ temp)

/-- s' differs from s in die d alone, which is x in it. -/
def DieAlone (s s' : State) (d : Nat) (x : Die) : Prop :=
  s' = { s with dies := s'.dies } ∧ s'.die d = x ∧ ∀ e, e ≠ d → s'.die e = s.die e

/-- A bit of the module status changed, and no other. -/
def StatusBit (s s' : State) (b : Nat) (v : Bool) : Prop :=
  s' = { s with status := s'.status } ∧ s'.status.getLsbD b = v ∧ ∀ i, i ≠ b → s'.status.getLsbD i = s.status.getLsbD i

/-- Errors of a row counted within the last 3,600 s (R353). -/
def State.rowCount (s : State) (r : MemRow) : Nat :=
  (s.rowErrs.filter fun e => decide (s.thyme < e.2 + 3600000000000) && e.1 == r).length

/-- Errors of a register-file lane counted within the last 60 s (R365). -/
def State.laneErrs (s : State) (sl lane : Nat) : Nat :=
  (s.regErrs.filter fun e => decide (s.thyme < e.2.2 + 60000000000) && (e.1 == sl && e.2.1 == lane)).length

/-- The module is in recovery (R316, R374, R375): STATE 2 with its REASON, port 0 up in Ethernet mode, the administration queue closed. -/
def InRecovery (s s' : State) (reason : Nat) : Prop :=
  s' = { s with status := s'.status, ports := s'.ports, adminOpen := false } ∧ fld s'.status 7 0 = 2 ∧ fld s'.status 39 32 = reason
    ∧ ∃ p, Tbl.get? s'.ports 0 = some p ∧ p.up = true ∧ p.eth = true

/-! ## Administration, resets -/

/-- The command c with its tag stands at the head of the open ring and nothing else is under way (R307). -/
abbrev AdminAt (s : State) (tag : Nat) (c : AdminCmd) (rest : List (Nat × AdminCmd)) : Prop :=
  s.ring = (tag, c) :: rest ∧ s.adminOpen = true ∧ s.jobs = []

/-- The command is answered with a status and nothing else changes (R358). -/
def Answered (i : Instr) (s : State) (tag st : Nat) (rest : List (Nat × AdminCmd)) : Prop :=
  exec i s = .next { s with ring := rest, jobs := [.done tag st 0] }

/-- The command succeeds, and changes its partition alone, which becomes p. -/
def PartSet (i : Instr) (s : State) (tag vf : Nat) (p : Part) (rest : List (Nat × AdminCmd)) : Prop :=
  ∃ s', exec i s = .next s' ∧ s' = { s with ring := rest, parts := s'.parts, jobs := [.done tag 0 0] } ∧ s'.part? vf = some p
    ∧ ∀ u, u ≠ vf → s'.part? u = s.part? u

/-- A partition as its creation or a reset leaves it (R36, R114, R311, R359, Table 14.8). -/
structure NewPart (s' : State) (vf : Nat) (mask : BitVec 32) (lease : Nat) (p : Part) : Prop where
  there  : s'.part? vf = some p
  mask   : p.mask = mask
  lease  : p.lease = lease ∧ p.leases = []
  ids    : p.teamCtr = 1
  pools  : p.lanePool = none ∧ p.framePool = none ∧ p.listPool = none
  queues : p.queues = [] ∧ p.phases = [] ∧ p.jobCancel = [] ∧ p.cancelled = [] ∧ p.reserve = none
  faults : p.fqbase = 0 ∧ p.fqsize = 0 ∧ p.fqhead = 0 ∧ p.fqtail = 0 ∧ p.pkbase = 0 ∧ p.tvec = 0 ∧ p.parked = [] ∧ p.due = [] ∧ p.failed = []
  limits : p.waitlim = 0 ∧ p.runlim = 0 ∧ p.resize = none ∧ p.noPlace = 0

/-- Every byte of memory in the granules of a mask reads as zero (R311, R312). -/
def GransZero (s' : State) (mask : BitVec 32) : Prop :=
  ∀ a g, locGran a = some g → mask.getLsbD g = true → Memory.get s'.mem a = 0

/-- Nothing runs in a partition and it has no address space (R311). -/
def PartEmpty (s' : State) (vf : Nat) : Prop :=
  (∀ e ∈ s'.teams, e.2.vf ≠ vf) ∧ (∀ e ∈ s'.launches, e.2.vf ≠ vf) ∧ ∀ e ∈ s'.asids, e.2.vf ≠ vf

/-- A reset need not wait: the rails of the partition's dies are up, or the dies are lost or the module has shut down (R369), and no copy of
the partition to another module is on its way (R42, R311). -/
abbrev ResetReady (s : State) (vf : Nat) (p : Part) : Prop := s.railsUp p = true ∧ s.awayBusy vf = false

/-- A partition whose launches have been cancelled, or are over, while its reset waits. -/
def Cancelled (s' : State) (vf : Nat) : Prop :=
  ∀ u l, s'.launch? u = some l → l.vf = vf → l.done = true ∨ l.cancel = true

/-- Granules that a new or larger partition may take: of no partition and of no lost die (R307, R364). -/
def GransFree (s : State) (mask : BitVec 32) : Prop :=
  ∀ g, g < 32 → mask.getLsbD g = true → (∀ e ∈ s.parts, e.2.mask.getLsbD g = false) ∧ (s.die (g / 4)).lost = false

/-- A lease that R114 admits. -/
def LeaseOk (n : Nat) : Prop := 250 ≤ n ∧ n ≤ 4000 ∧ n % 250 = 0

/-- A ring size of Table 21.2: a power of two from 16 to 32,768. -/
def RingOk (n : Nat) : Prop := ∃ k, 4 ≤ k ∧ k ≤ 15 ∧ n = 2 ^ k

/-- A pool of a command, none where its size is 0. -/
def poolOf (h n : Nat) : Option (QWord × Nat) := if n = 0 then none else some (BitVec.ofNat 64 h, n)

/-! ## Gangs, the fabric and the host -/

/-- s' differs from s in gang n alone, which is g in it. -/
def GangAlone (s s' : State) (n : Nat) (g : Gang) : Prop :=
  s' = { s with gangs := s'.gangs } ∧ s'.gang n = g ∧ ∀ k, k ≠ n → s'.gang k = s.gang k

/-- The leader of a gang that has neither started nor been aborted. -/
def Leads (s : State) (n : Nat) (g : Gang) : Prop :=
  s.gang n = g ∧ g.number = n ∧ g.count ≠ 0 ∧ g.member = 0 ∧ g.closed = false ∧ g.go = none

/-- The member's launch is given up: its entry is closed, a placed launch is cancelled with STATUS 3, an unplaced one stays as it was. -/
def GangGivenUp (s s' : State) (n : Nat) : Prop :=
  (s'.gang n).closed = true
    ∧ ∀ l, s.launch? (s.gang n).launch = some l → l.done = false → l.cancel = false →
      (0 < l.next → ∃ l', s'.launch? (s.gang n).launch = some l' ∧ l'.cancel = true ∧ l'.status = 3)
      ∧ (l.next = 0 → s'.teams = s.teams ∧ s'.launches = s.launches)

/-- A remote request that passes its checks at its home (R314): its bytes' pieces there. -/
def RemoteOk (s : State) (r : RemoteReq) (ps : List Piece) : Prop :=
  s.up = true ∧ (∀ x ∈ s.served, ¬ (x.1 = r.src ∧ x.2.1 = r.seq)) ∧ s.moves = [] ∧ s.lost = []
    ∧ ∃ a d, Tbl.get? s.asids r.asid = some a
      ∧ s.checkGlobal 999 r.asid (remoteNeed r.op) (mkHandle r.obj r.off) 0 (remoteLen r.op)
          (match r.op with | .read _ | .write _ => 0 | _ => remoteLen r.op) 1 = .ok d
      ∧ d.kind ≠ 4 ∧ s.globalPieces 999 r.asid a.vf d r.obj r.off (remoteLen r.op) = .ok ps

/-- The answer a goes to the request's module, and is kept for its duplicates (R371). -/
def Answers (s s' : State) (r : RemoteReq) (a : RemoteAns) : Prop :=
  s'.out = s.out ++ [.answer r.src r.seq a] ∧ s'.served = s.served ++ [(r.src, r.seq, a)] ∧ s'.teams = s.teams

/-- A failed remote request of an atomic: its entry leaves the queue and REMOTE with a detail waits for the team's boundary (R355, R372). -/
def RemoteFails (s s' : State) (t : Team) (e : SqEntry) (detail aux : Nat) : Prop :=
  ∃ t' f, s'.team? t.tk = some t' ∧ (∀ k, k ≠ t.tk → s'.team? k = s.team? k) ∧ s'.mem = s.mem
    ∧ t' = { t with sq := t.sq.filter fun x => x.id != e.id, late := t.late ++ [f] }
    ∧ f.cause = 0x83 ∧ f.detail = detail ∧ f.addr = e.addr ∧ f.aux = BitVec.ofNat 64 aux ∧ f.prec = true ∧ f.pc = e.pc

end Sys2Proof.Machine
end

