-- ==== Sys2Proof/Certificates/Slice0/Obligations.lean ====
section
/-! DEFINITION. The statements for the provers. Each docstring names the rules of spec/ that it formalises; the schemas LaneRun,
UniRun and their like, and what Runs, Acts and OneTeam say, stand in Safety.lean. -/

open Sys2Proof Sys2Proof.Machine

/-- R49, R306, R374, Tables 9.1, 14.8 and 24.9: what reset leaves: the module is booting, with no partition, team, launch, queue or
address space, the administration queue closed, and the registers of a core and the module at the values their tables give. Time at zero
and memory that reads as zero are the model's choices (assumptions 3 and 4). -/
def Obligations.ResetValues : Prop :=
  State.reset.status = 0 ∧ State.reset.adminOpen = false ∧ State.reset.hbi = 22500 ∧ State.reset.hbM = 0
    ∧ State.reset.parts = [] ∧ State.reset.teams = [] ∧ State.reset.launches = [] ∧ State.reset.asids = [] ∧ State.reset.ring = []
    ∧ State.reset.thyme = 0 ∧ (∀ a, Memory.get State.reset.mem a = 0)
    ∧ (∀ c, (State.reset.core c).pacost = 0x0C60080604040201#64 ∧ (State.reset.core c).guard = 256 ∧ (State.reset.core c).cap = 4096
      ∧ State.reset.refillOf c = 160 ∧ (State.reset.core c).allow = 4096 ∧ (State.reset.core c).ceil = 0x888888#24)
    ∧ ∀ k, (State.reset.stack k).limit = 8 ∧ (State.reset.stack k).heat = 0

/-- The reset state meets the invariants that statements about runs assume. -/
def Obligations.ResetSafe : Prop :=
  State.reset.Safe

/-- R164, R166, R167, R171 to R174, R178: words that the spec writes out decode to the instructions it gives them (tables of the chapters
on formats, lanes and uniform instructions). -/
def Obligations.DecodedWords : Prop :=
  decodeWord 0x02900410#32 = .ok (.vmul ⟨true, 8, .v 1, .v 2, 0⟩)
    ∧ decodeWord 0x00130018#32 = .ok (.vadd ⟨false, 9, .b 0, .v 3, 0⟩)
    ∧ decodeWord 0x00091340#32 = .ok (.vadd ⟨false, 4, .lane, .const 8, 0⟩)
    ∧ decodeWord 0x0109C020#32 = .ok (.vsub ⟨false, 4, .const 16, .v 4, 0⟩)
    ∧ decodeWord 0xAF040003#32 = .ok (.brv ⟨1, 3⟩)
    ∧ decodeWord 0xB0000000#32 = .ok .rjoin
    ∧ decodeWord 0x9604020F#32 = .ok (.sldi ⟨1, 0x20F⟩)
    ∧ decodeWord 0x5C051002#32 = .ok (.vshli ⟨false, 2, .lane, 2⟩)
    ∧ decodeWord 0x680C1091#32 = .ok (.ldg ⟨3, .v 2, 4, .b4, 1⟩)
    ∧ decodeWord 0x690C10B1#32 = .ok (.stg ⟨3, .v 2, 5, .b4, 1⟩)
    ∧ decodeWord 0x900C3FFF#32 = .ok (.saddi ⟨3, 3, 0xFFF⟩)
    ∧ decodeWord 0x20141380#32 = .ok (.vcmp ⟨1, .lt, .v 4, .const 16, 0⟩)

/-- R53, R164, R320, R328, R380: a step whose move is the issue of a team that the schedulers chose for a port, and that may issue, runs
the instruction its word decodes to: exec at the state in which the issue has begun, then what the issue does beside it; a promotion point
at which Dill has still to wait does not issue; a word that is no instruction, and a fetch that fails, park the team. A fetch checks its
handle in the order of R380, and its record names the fetch handle as PC and RPC, with no word. That a step is one move, that the agenda
gives the first, and in what order the machine takes its own are the model's choices (assumption 1); a module tick that is due comes before
the issues of its cycle (R232). A step whose first move is an event runs that event. -/
def Obligations.StepRunsInstruction : Prop :=
  (∀ (s : State) (i : Instr) (r : List Act), s.agenda = .ev i :: r →
      (i ≠ .allowanceRefill ∨ ({ s with agenda := r } : State).clockStands = false) →
      step s = match exec i { s with agenda := r } with | .next t => .next t.watchDead | .fault f => .fault f | .refused x => .refused x)
    ∧ (∀ (s s0 s1 : State) (t : Team) (w : Word) (i : Instr) (p : Nat), Chosen s s0 t.tk p →
      s0.team? t.tk = some t → s0.mayIssue t p = true →
      s0.fetchWord t t.pc = .ok w → decodeWord w = .ok i → exec i (s0.begin t w p) = .next s1 →
      step s = .next (if s1.team? t.tk = (s0.begin t w p).team? t.tk then s0 else s1.after t i p).watchDead)
    ∧ (∀ (s s0 : State) (t : Team) (w : Word) (e : DecErr) (p : Nat), Chosen s s0 t.tk p →
      s0.team? t.tk = some t → s0.mayIssue t p = true →
      s0.fetchWord t t.pc = .ok w → decodeWord w = .error e →
      step s = .next (s0.issueFault t w ⟨0x01, e.detail, 0, BitVec.ofNat 64 e.aux⟩ p).watchDead)
    ∧ (∀ (s s0 : State) (t : Team) (f : FInfo) (p : Nat), Chosen s s0 t.tk p → s0.team? t.tk = some t → s0.mayIssue t p = true →
      s0.fetchWord t t.pc = .error f → step s = .next (s0.issueFault t 0 f p).watchDead)
    ∧ (∀ s : State, s.agenda = [] → s.tickDue = true →
      step s = match exec .heartbeatTick s with | .next t => .next t.watchDead | .fault f => .fault f | .refused x => .refused x)
    ∧ (∀ (s : State) (t : Team) (f : FInfo) (p : Nat) (q : Part), s.team? t.tk = some t → Reports s t → s.part? t.vf = some q →
      t.replay = [] → t.loadsCode t.pc = false → s.fetchWord t t.pc = .error f →
      Parks (s.issueFault t 0 f p) t f.cause f.detail t.pc
        ∧ (s.issueFault t 0 f p).part? t.vf = some (q.addDue { faultRecord s t f with rpc := t.pc, word := 0, set := false }))
    ∧ (∀ (s : State) (t : Team) (a : Asid) (d : Desc) (st : Nat), Tbl.get? s.asids (s.asidOf t) = some a →
      (∀ e ∈ s.tlb, ¬ (e.cluster = coreCluster t.core ∧ e.asid = s.asidOf t ∧ e.obj = hObj t.pc ∧ e.gran = hOff t.pc / 65536)) →
      d = (List.range 8).map (fun i => s.rdQ (a.base + 64 * hObj t.pc + 8 * i)) →
      (hObj t.pc = 0 → s.fetchWord t t.pc = .error ⟨0x03, 1, t.pc, 0⟩)
      ∧ (0 < hObj t.pc → a.len ≤ hObj t.pc → s.fetchWord t t.pc = .error ⟨0x40, 2, t.pc, qn a.len⟩)
      ∧ (0 < hObj t.pc → hObj t.pc < a.len →
        (d.valid = false → s.fetchWord t t.pc = .error ⟨0x03, 1, t.pc, 0⟩)
        ∧ (d.valid = true → d.bad = true → s.fetchWord t t.pc = .error ⟨0x40, 4, t.pc, d.q 0⟩)
        ∧ (d.valid = true → d.bad = false →
          (d.kind ≠ 3 → s.fetchWord t t.pc = .error ⟨0x03, 2, t.pc, qn d.kind⟩)
          ∧ (d.kind = 3 → d.px = false → s.fetchWord t t.pc = .error ⟨0x03, 3, t.pc, 0⟩)
          ∧ (d.kind = 3 → d.px = true → d.len < hOff t.pc + 4 → s.fetchWord t t.pc = .error ⟨0x03, 4, t.pc, qn d.len⟩)
          ∧ (d.kind = 3 → d.px = true → hOff t.pc + 4 ≤ d.len →
            (s.extBad d = true → s.fetchWord t t.pc = .error ⟨0x40, 5, t.pc, d.q 1⟩)
            ∧ (s.extBad d = false → granOf (s.extents d) (hOff t.pc / 65536) = some st → s.ownsGran t.vf st = false →
              s.fetchWord t t.pc = .error ⟨0x45, 1, t.pc, qn st⟩)))))
    ∧ (∀ (s s0 : State) (t : Team) (w : Word) (p : Nat), s0 = s.begin t w p → s0.cur = some ⟨t.tk, w, t.issueLanes⟩
      ∧ s0.team? t.tk = some ({ t with floor := 0 }.see (s.fetchSeen t)) ∧ s0.mem = s.mem ∧ (∀ k, k ≠ t.tk → s0.team? k = s.team? k)
      ∧ (s0.core t.core).allow = (s.core t.core).allow - (s.nextCost t : Nat))

/-- R164, R166, R172, R181: the word of a well-formed instruction decodes to that instruction with every operand. -/
def Obligations.DecodeEncode : Prop :=
  ∀ i : Instr, Laws.RoundTrip.Statement i

/-- R181: the codes that R181 lists, and every word with a non-zero bit where its instruction has none, are no instruction: a word that
decodes is well formed and is the one word of its instruction. -/
def Obligations.EncodeDecode : Prop :=
  (∀ (w : Word) (i : Instr), decodeWord w = .ok i → i.WellFormed ∧ encode i = some w)
    ∧ ∀ w : Word, w.toNat / 2 ^ 24 ∈
        [0x26, 0x27, 0x3F, 0x4D, 0x4E, 0x4F, 0x56, 0x57, 0x70, 0x71, 0x72, 0x73, 0x74, 0x75, 0x76, 0x77, 0x78, 0x79, 0x7A, 0x7B, 0x7C, 0x7D,
          0x7E, 0x7F, 0xA3, 0xA4, 0xA5, 0xA6, 0xA7, 0xC5, 0xC6, 0xC7, 0xDC, 0xDD, 0xDE, 0xDF, 0xEE, 0xEF, 0xFA, 0xFB, 0xFC, 0xFD, 0xFE, 0xFF] →
      ∃ e, decodeWord w = .error e

/-- Every step keeps the canonical form of memory. -/
def Obligations.MemoryStaysCanonical : Prop :=
  ∀ s s' : State, s.Canonical → step s = .next s' → s'.Canonical

/-- R36: every step keeps each team under its own identifier, and no two teams under one. -/
def Obligations.TeamsStayKeyed : Prop :=
  ∀ s s' : State, s.Keyed → step s = .next s' → s'.Keyed

/-- R1, R2, R19, R20: registers and memory hold what was written last, and nothing else changes; s0 and p0 take no write; memory stores
the low byte first and keeps its canonical form. -/
def Obligations.RegistersAndBytes : Prop :=
  (∀ (t : Team) (r x : Nat) (v : QWord), (t.setS r v).sreg x = if x = r ∧ r ≠ 0 then v else t.sreg x)
    ∧ (∀ t : Team, t.sreg 0 = 0 ∧ (∀ v, t.setS 0 v = t) ∧ (∀ L, t.pred 0 L = true) ∧ ∀ m, t.setPred 0 m = t)
    ∧ (∀ (t : Team) (r x L : Nat) (f : Nat → Option Word), L < t.lanes →
      (t.setV r f).vreg x L = if x = r then (f L).getD (t.vreg x L) else t.vreg x L)
    ∧ (∀ (t : Team) (n x L : Nat) (m : Mask), n ≠ 0 → (t.setPred n m).pred x L = if x = n then m.getLsbD L else t.pred x L)
    ∧ (∀ (m : Memory) (a c : Nat) (bs : List Byte), Memory.wf m = true → Memory.wf (Memory.write m a bs) = true
      ∧ Memory.get (Memory.write m a bs) c = if a ≤ c ∧ c < a + bs.length then bs.getD (c - a) 0 else Memory.get m c)
    ∧ ∀ (n v i : Nat), i < n → (leBytes n v).length = n ∧ ((leBytes n v).getD i 0).toNat = v / 2 ^ (8 * i) % 256

/-- R186 to R189, Table 11.2: the results of the integer operations with two sources, on the operands read as signed or natural integers
and wrapped to 32 bits. -/
def Obligations.LaneIntegerResults : Prop :=
  (VrRun .vadd .int (fun _ a b _ => wrap32 (a.toInt + b.toInt))
    ∧ VrRun .vsub .int (fun _ a b _ => wrap32 (a.toInt - b.toInt))
    ∧ VrRun .vmul .int (fun _ a b _ => wrap32 (a.toInt * b.toInt))
    ∧ VrRun .vmulh .int (fun _ a b _ => wrap32 (a.toInt * b.toInt / 2 ^ 32))
    ∧ VrRun .vmulhn .int (fun _ a b _ => BitVec.ofNat 32 (a.toNat * b.toNat / 2 ^ 32))
    ∧ VrRun .vmad .int (fun _ a b d => wrap32 (a.toInt * b.toInt + d.toInt))
    ∧ VrRun .vmin .int (fun _ a b _ => if a.toInt < b.toInt then a else b)
    ∧ VrRun .vmax .int (fun _ a b _ => if b.toInt < a.toInt then a else b)
    ∧ VrRun .vminn .int (fun _ a b _ => if a.toNat < b.toNat then a else b)
    ∧ VrRun .vmaxn .int (fun _ a b _ => if b.toNat < a.toNat then a else b)
    ∧ VrRun .vabsd .int (fun _ a b _ => wrap32 (if a.toInt < b.toInt then b.toInt - a.toInt else a.toInt - b.toInt))
    ∧ VrRun .vadds .int (fun _ a b _ => wrap32 (max (-2 ^ 31) (min (2 ^ 31 - 1) (a.toInt + b.toInt))))
    ∧ VrRun .vsubs .int (fun _ a b _ => wrap32 (max (-2 ^ 31) (min (2 ^ 31 - 1) (a.toInt - b.toInt))))
    ∧ VrRun .vdiv .int (fun _ a b _ =>
        if b = 0 then 0xFFFFFFFF else if a = 0x80000000 ∧ b = 0xFFFFFFFF then 0x80000000 else wrap32 (Int.tdiv a.toInt b.toInt))
    ∧ VrRun .vrem .int (fun _ a b _ =>
        if b = 0 then a else if a = 0x80000000 ∧ b = 0xFFFFFFFF then 0
        else wrap32 (a.toInt - b.toInt * Int.tdiv a.toInt b.toInt)))
    ∧ ∀ (o : VR) (s : State) (t : Team), Runs s t →
      ∀ i ∈ [Instr.vadd o, .vsub o, .vmul o, .vmulh o, .vmulhn o, .vmad o, .vmin o, .vmax o, .vminn o, .vmaxn o, .vabsd o, .vadds o, .vsubs o,
        .vdiv o, .vrem o],
        i.highReg t.regs = none →
        ∃ s' t', Sys2Proof.Machine.exec i s = .next s' ∧ s'.team? t.tk = some t' ∧ t'.pc = t.nextPc ∧ t'.clock = t.clock + 1

/-- R186, R187, R189, Table 11.2: the results of the logic, shift and bit operations. -/
def Obligations.LaneBitResults : Prop :=
  (VrRun .vand .int (fun _ a b _ => BitVec.ofNat 32 (natOfBits (fun i => a.getLsbD i && b.getLsbD i) 32))
    ∧ VrRun .vor .int (fun _ a b _ => BitVec.ofNat 32 (natOfBits (fun i => a.getLsbD i || b.getLsbD i) 32))
    ∧ VrRun .vxor .int (fun _ a b _ => BitVec.ofNat 32 (natOfBits (fun i => a.getLsbD i ^^ b.getLsbD i) 32))
    ∧ VrRun .vandn .int (fun _ a b _ => BitVec.ofNat 32 (natOfBits (fun i => a.getLsbD i && !b.getLsbD i) 32))
    ∧ VrRun .vshl .int (fun _ a b _ => if b.toNat < 32 then BitVec.ofNat 32 (a.toNat * 2 ^ b.toNat) else 0)
    ∧ VrRun .vshr .int (fun _ a b _ => if b.toNat < 32 then BitVec.ofNat 32 (a.toNat / 2 ^ b.toNat) else 0)
    ∧ VrRun .vsar .int (fun _ a b _ =>
        if b.toNat < 32 then wrap32 (a.toInt / 2 ^ b.toNat) else if 0 ≤ a.toInt then 0 else 0xFFFFFFFF)
    ∧ VrRun .vrot .int (fun _ a b _ =>
        BitVec.ofNat 32 (a.toNat * 2 ^ (b.toNat % 32) % 2 ^ 32 + a.toNat / 2 ^ (32 - b.toNat % 32)))
    ∧ VrRun .vbfx .int (fun _ a b _ =>
        let pos := b.toNat % 32
        let w := min (b.toNat / 32 % 64) (32 - pos)
        let f := a.toNat / 2 ^ pos % 2 ^ w
        if b.getLsbD 11 = true ∧ 0 < w ∧ 2 ^ (w - 1) ≤ f then wrap32 ((f : Int) - 2 ^ w) else BitVec.ofNat 32 f)
    ∧ VrRun .vbfi .int (fun _ a b d =>
        let pos := b.toNat % 32
        let w := min (b.toNat / 32 % 64) (32 - pos)
        BitVec.ofNat 32 (natOfBits (fun i => if pos ≤ i ∧ i < pos + w then a.getLsbD (i - pos) else d.getLsbD i) 32))
    ∧ VuRun .vclz .int (fun _ a => BitVec.ofNat 32 (if a = 0 then 32 else 31 - Nat.log2 a.toNat))
    ∧ VuRun .vpopc .int (fun _ a => BitVec.ofNat 32 ((List.range 32).countP fun i => a.getLsbD i))
    ∧ VuRun .vbrev .int (fun _ a => BitVec.ofNat 32 (natOfBits (fun i => a.getLsbD (31 - i)) 32))
    ∧ VuRun .vmov .int (fun _ a => a))
    ∧ ∀ (o0 : VR) (o1 : VU) (s : State) (t : Team), Runs s t →
      ∀ i ∈ [Instr.vand o0, .vor o0, .vxor o0, .vandn o0, .vshl o0, .vshr o0, .vsar o0, .vrot o0, .vbfx o0, .vbfi o0, .vclz o1, .vpopc o1,
        .vbrev o1, .vmov o1],
        i.highReg t.regs = none →
        ∃ s' t', Sys2Proof.Machine.exec i s = .next s' ∧ s'.team? t.tk = some t' ∧ t'.pc = t.nextPc ∧ t'.clock = t.clock + 1

/-- R190: VADDC and VSUBB act on pairs, wrapped to 64 bits; the high word is in the register after vd. -/
def Obligations.LanePairResults : Prop :=
  (∀ o : VR,
    PairRun (.vaddc o) o.nw o.vd o.pg.toNat (fun _ t L => wrap64 ((t.src64 o.sa L).toInt + (t.src64 o.sb L).toInt))
    ∧ PairRun (.vsubb o) o.nw o.vd o.pg.toNat (fun _ t L => wrap64 ((t.src64 o.sa L).toInt - (t.src64 o.sb L).toInt)))
    ∧ ∀ (o : VR) (s : State) (t : Team), Runs s t →
      ∀ i ∈ [Instr.vaddc o, .vsubb o],
        i.highReg t.regs = none →
        ∃ s' t', Sys2Proof.Machine.exec i s = .next s' ∧ s'.team? t.tk = some t' ∧ t'.pc = t.nextPc ∧ t'.clock = t.clock + 1

/-- R17, R183, R193 to R195: VSEL chooses by pg in every active lane, VPOP adds the count of lower active lanes with pg true, VP2V
collects the predicates, and VFCLS sets the one bit of the class of its source. R191, R192, Tables 11.3 and 11.4: the compares write pd in
the lanes where they act, and nothing else. -/
def Obligations.LanePredicates : Prop :=
  (((∀ o : VR, LaneRun (.vsel o) o.nw o.vd 0 fun _ t L => if t.pred o.pg.toNat L then t.src .int o.sa L else t.src .int o.sb L)
    ∧ (∀ o : VU, LaneRun (.vpop o) o.nw o.vd 0 fun s t L =>
        wrap32 ((t.src .int o.sa L).toInt + (List.range L).countP fun M => decide (Acts s t o.pg.toNat M)))
    ∧ (∀ o : VP, LaneRun (.vp2v o) o.nw o.vd o.pg.toNat fun _ t L =>
        BitVec.ofNat 32 (((List.range 8).map fun i => if t.pred i L then 2 ^ i else 0).sum))
    ∧ VuRun .vfcls .f32 (fun _ a => BitVec.ofNat 32 (
        let E := a.toNat / 2 ^ 23 % 256
        let M := a.toNat % 2 ^ 23
        if E = 255 ∧ M ≠ 0 then (if a.getLsbD 22 then 2 ^ 9 else 2 ^ 8)
        else if E = 255 then (if a.getLsbD 31 then 2 ^ 0 else 2 ^ 7)
        else if E ≠ 0 then (if a.getLsbD 31 then 2 ^ 1 else 2 ^ 6)
        else if M ≠ 0 then (if a.getLsbD 31 then 2 ^ 2 else 2 ^ 5)
        else (if a.getLsbD 31 then 2 ^ 3 else 2 ^ 4))))
    ∧ ((∀ o : VC, PredRun (.vcmp o) [o.pd.toNat] o.pg.toNat fun t _ L =>
      let a := t.src .int o.sa L
      let b := t.src .int o.sb L
      match o.cond with
      | .eq => decide (a.toNat = b.toNat) | .ne => decide (a.toNat ≠ b.toNat)
      | .lt => decide (a.toInt < b.toInt) | .le => decide (a.toInt ≤ b.toInt)
      | .gt => decide (a.toInt > b.toInt) | .ge => decide (a.toInt ≥ b.toInt)
      | .ltn => decide (a.toNat < b.toNat) | .gen => decide (a.toNat ≥ b.toNat))
    ∧ (∀ o : VC, PredRun (.vcmpf o) [o.pd.toNat] o.pg.toNat fun t _ L =>
        let r := (fv (t.src .f32 o.sa L)).cmp (fv (t.src .f32 o.sb L))
        match o.cond with
        | .eq => decide (r = some 0) | .ne => decide (r ≠ some 0)
        | .lt => decide (r = some (-1)) | .le => decide (r = some (-1) ∨ r = some 0)
        | .gt => decide (r = some 1) | .ge => decide (r = some 1 ∨ r = some 0)
        | .ltn => decide (r = none) | .gen => decide (r ≠ none))
    ∧ (∀ o : VV, o.cond = .any → PredRun (.vv2p o) [o.pd.toNat] o.pg.toNat fun t _ L =>
        decide (t.src .int o.sa L &&& t.src .int o.sb L ≠ 0))
    ∧ (∀ o : VV, o.cond = .none → PredRun (.vv2p o) [o.pd.toNat] o.pg.toNat fun t _ L =>
        decide (t.src .int o.sa L &&& t.src .int o.sb L = 0))
    ∧ (∀ o : VV, o.cond = .all → PredRun (.vv2p o) [1, 2, 3, 4, 5, 6, 7] o.pg.toNat fun t n L => (t.src .int o.sa L).getLsbD n)))
    ∧ ∀ (o0 : VR) (o1 : VU) (o2 : VP) (o3 : VC) (o4 : VV) (s : State) (t : Team), Runs s t →
      ∀ i ∈ [Instr.vsel o0, .vpop o1, .vp2v o2, .vfcls o1, .vcmp o3, .vcmpf o3, .vv2p o4],
        i.highReg t.regs = none →
        ∃ s' t', Sys2Proof.Machine.exec i s = .next s' ∧ s'.team? t.tk = some t' ∧ t'.pc = t.nextPc ∧ t'.clock = t.clock + 1

/-- R196 to R200, Tables 11.6 and 11.7a: each result is the exact value rounded once to FP32 in the sampled mode; FNEG and FABS change bit
31 alone, and FMIN and FMAX return an operand. -/
def Obligations.LaneFloatResults : Prop :=
  (VrRun .fadd .f32 (fun t a b _ => t.to32 (sumV t.mode [fv a, fv b]))
    ∧ VrRun .fsub .f32 (fun t a b _ => t.to32 (sumV t.mode [fv a, (fv b).neg']))
    ∧ VrRun .fmul .f32 (fun t a b _ => t.to32 ((fv a).mul t.mode (fv b)))
    ∧ VrRun .ffma .f32 (fun t a b d => t.to32 (sumV t.mode [(fv a).mul t.mode (fv b), fv d]))
    ∧ VrRun .fnma .f32 (fun t a b d => t.to32 (sumV t.mode [fv d, ((fv a).mul t.mode (fv b)).neg']))
    ∧ VrRun .fmin .f32 (fun _ a b _ => fminmax false a b)
    ∧ VrRun .fmax .f32 (fun _ a b _ => fminmax true a b)
    ∧ VuRun .fneg .f32 (fun _ a => BitVec.ofNat 32 ((a.toNat + 2 ^ 31) % 2 ^ 32))
    ∧ VuRun .fabs .f32 (fun _ a => BitVec.ofNat 32 (a.toNat % 2 ^ 31))
    ∧ VuRun .frcp .f32 (fun t a => t.to32 ((FVal.num false 1 0).div t.mode (fv a)))
    ∧ VuRun .frsq .f32 (fun t a => t.to32 ((fv a).rsqrt t.mode))
    ∧ VuRun .fsqrt .f32 (fun t a => t.to32 ((fv a).sqrt t.mode))
    ∧ VuRun .fexp2 .f32 (fun t a => t.to32 ((fv a).exp2 t.mode))
    ∧ VuRun .flog2 .f32 (fun t a => t.to32 ((fv a).log2 t.mode))
    ∧ VuRun .frint .f32 (fun t a => frint t.mode a)
    ∧ (∀ o : VR, LaneRun (.fscale o) o.nw o.vd o.pg.toNat fun _ t L =>
        t.to32 ((fv (t.src .f32 o.sa L)).scale t.mode (t.src .int o.sb L).toInt))
    ∧ VrRun .fdiv .f32 (fun t a b _ => t.to32 ((fv a).div t.mode (fv b))))
    ∧ ∀ (o0 : VR) (o1 : VU) (s : State) (t : Team), Runs s t →
      ∀ i ∈ [Instr.fadd o0, .fsub o0, .fmul o0, .ffma o0, .fnma o0, .fmin o0, .fmax o0, .fscale o0, .fdiv o0, .fneg o1, .fabs o1, .frcp o1,
        .frsq o1, .fsqrt o1, .fexp2 o1, .flog2 o1, .frint o1],
        i.highReg t.regs = none →
        ∃ s' t', Sys2Proof.Machine.exec i s = .next s' ∧ s'.team? t.tk = some t' ∧ t'.pc = t.nextPc ∧ t'.clock = t.clock + 1

/-- R201, R207: the packed pairs round each element on its own, and the dot products add all products to the old destination with one
rounding, or wrapped to 32 bits. R203 to R206, Table 11.7: the conversions act in every active lane; CVT and PACK replace one element of
the old destination, UNPK widens one, CVTSC applies a block scale, QSCALE chooses one, and I2F and F2I convert. -/
def Obligations.LanePackedFormats : Prop :=
  (((∀ F ∈ [(Instr.hadd2, fp16), (Instr.badd2, bf16)], VrRun F.1 (.pair F.2) fun t a b _ =>
      pairwise (fun x y _ => F.2.round t.mode (sumV t.mode [F.2.dec x, F.2.dec y])) a b 0)
    ∧ (∀ F ∈ [(Instr.hmul2, fp16), (Instr.bmul2, bf16)], VrRun F.1 (.pair F.2) fun t a b _ =>
      pairwise (fun x y _ => F.2.round t.mode ((F.2.dec x).mul t.mode (F.2.dec y))) a b 0)
    ∧ (∀ F ∈ [(Instr.hfma2, fp16), (Instr.bfma2, bf16)], VrRun F.1 (.pair F.2) fun t a b d =>
      pairwise (fun x y z => F.2.round t.mode (sumV t.mode [(F.2.dec x).mul t.mode (F.2.dec y), F.2.dec z])) a b d)
    ∧ (∀ F ∈ [(Instr.dot4i8, i8), (Instr.dot4n8, n8), (Instr.dot8i4, i4)], VrRun F.1 (.packI F.2) fun _ a b d =>
      wrap32 (d.toInt + ((List.range (32 / F.2.width)).map fun j =>
        F.2.dec (elemAt F.2.width a j) * F.2.dec (elemAt F.2.width b j)).sum))
    ∧ (∀ F ∈ [(Instr.dot4e4, e4m3, 4), (Instr.dot4e5, e5m2, 4), (Instr.dot8f4, e2m1, 8)], VrRun F.1 (.packF F.2.1) fun t a b d =>
      t.to32 (sumV t.mode (fv d :: (List.range F.2.2).map fun j =>
        (F.2.1.dec (elemAt F.2.1.width a j)).mul t.mode (F.2.1.dec (elemAt F.2.1.width b j))))))
    ∧ ((∀ o : VCvt, LaneRun (.cvt o) o.nw o.vd 0 fun _ t L =>
      let F := cvtFmt o.f
      setElem F.width (t.vreg o.vd.toNat L) ((t.src .int o.sb L).toNat % (32 / F.width)) (F.narrow t.rmode (fv (t.src .f32 o.sa L))))
    ∧ (∀ o : VPack, LaneRun (.pack o) o.nw o.vd 0 fun _ t L =>
        let F := packFmt o.f
        setElem F.width (t.vreg o.vd.toNat L) ((t.src .int o.sb L).toNat % (32 / F.width))
          (if t.rmode / 8 % 2 = 1 then F.code (F.sat (t.src .int o.sa L).toInt) else F.code (t.src .int o.sa L).toInt))
    ∧ (∀ o : VUnpk, ∀ F ∈ [(UnpkFmt.fp16, fp16), (UnpkFmt.bf16, bf16), (UnpkFmt.e4m3, e4m3), (UnpkFmt.e5m2, e5m2), (UnpkFmt.e2m1, e2m1)],
        o.f = F.1 → LaneRun (.unpk o) o.nw o.vd 0 fun _ t L =>
          BitVec.ofNat 32 (fp32.round 0 (F.2.dec
            (elemAt F.2.width (t.src (readF F.2) o.sa L) ((t.src .int o.sb L).toNat % (32 / F.2.width))))))
    ∧ (∀ o : VUnpk, ∀ F ∈ [(UnpkFmt.i8, i8), (UnpkFmt.i4, i4)], o.f = F.1 → LaneRun (.unpk o) o.nw o.vd 0 fun _ t L =>
          wrap32 (F.2.dec (elemAt F.2.width (t.src (.packI F.2) o.sa L) ((t.src .int o.sb L).toNat % (32 / F.2.width)))))
    ∧ (∀ o : VQ, LaneRun (.cvtscQ o) o.nw o.vd 0 fun _ t L =>
        let e := (t.src .int o.sb L).toNat % 256
        BitVec.ofNat 32 (if e = 0xFF then (qFmt o.f).nan else (qFmt o.f).quant t.rmode e (fv (t.src .f32 o.sa L))))
    ∧ (∀ o : VD, LaneRun (.cvtscD o) o.nw o.vd 0 fun _ t L =>
        let e := (t.src .int o.sb L).toNat % 256
        if e = 0xFF then 0x7FC00000
        else t.to32 ((scaled ((dFmt o.f).dec ((t.src (readF (dFmt o.f)) o.sa L).toNat % 2 ^ (dFmt o.f).width)) e).ruled t.mode))
    ∧ (∀ o : VQ, LaneRun (.qscale o) o.nw o.vd 0 fun _ t L =>
        BitVec.ofNat 32 (qscale (match o.f with | .e4m3 => 8 | .e5m2 => 15 | .e2m1 => 2) (t.src .f32 o.sa L) (t.src .int o.sb L).toInt))
    ∧ (∀ o : VInt, LaneRun (.i2f o) o.nw o.vd 0 fun _ t L =>
        t.to32 ((intV ((intFmt o.f).dec ((t.src (readI (intFmt o.f)) o.sa L).toNat % 2 ^ (intFmt o.f).width))).ruled t.mode))
    ∧ (∀ o : VInt, LaneRun (.f2i o) o.nw o.vd 0 fun _ t L => wrap32 ((intFmt o.f).ofF t.rmode (fv (t.src .f32 o.sa L))))))
    ∧ ∀ (o0 : VR) (o1 : VCvt) (o2 : VQ) (o3 : VD) (o4 : VPack) (o5 : VUnpk) (o6 : VInt) (s : State) (t : Team), Runs s t →
      ∀ i ∈ [Instr.hadd2 o0, .hmul2 o0, .hfma2 o0, .badd2 o0, .bmul2 o0, .bfma2 o0, .dot4i8 o0, .dot4n8 o0, .dot8i4 o0, .dot4e4 o0,
        .dot4e5 o0, .dot8f4 o0, .cvt o1, .cvtscQ o2, .cvtscD o3, .pack o4, .unpk o5, .qscale o2, .i2f o6, .f2i o6],
        i.highReg t.regs = none →
        ∃ s' t', Sys2Proof.Machine.exec i s = .next s' ∧ s'.team? t.tk = some t' ∧ t'.pc = t.nextPc ∧ t'.clock = t.clock + 1

/-- R208, R209: an exchange reads its source in lane k as it stood before, whether k is active or not; a k outside the team becomes the
lane itself; XSCAN sums over the lower lanes that it writes. R171, R210: the immediate forms, with i signed in VADDI and VLDI and natural
in the others. -/
def Obligations.LaneExchangesImmediates : Prop :=
  (((∀ o : VR, LaneRun (.xshfl o) o.nw o.vd o.pg.toNat fun _ t L => t.src .int o.sa ((t.src .int o.sb L).toNat % t.lanes))
    ∧ (∀ o : VR, LaneRun (.xup o) o.nw o.vd o.pg.toNat fun _ t L =>
        t.src .int o.sa (if (t.src .int o.sb L).toNat ≤ L ∧ L - (t.src .int o.sb L).toNat < t.lanes
          then L - (t.src .int o.sb L).toNat else L))
    ∧ (∀ o : VR, LaneRun (.xdn o) o.nw o.vd o.pg.toNat fun _ t L =>
        t.src .int o.sa (if L + (t.src .int o.sb L).toNat < t.lanes then L + (t.src .int o.sb L).toNat else L))
    ∧ (∀ o : VR, LaneRun (.xbfly o) o.nw o.vd o.pg.toNat fun _ t L =>
        t.src .int o.sa (if L ^^^ (t.src .int o.sb L).toNat < t.lanes then L ^^^ (t.src .int o.sb L).toNat else L))
    ∧ (∀ o : VR, LaneRun (.xbcast o) o.nw o.vd o.pg.toNat fun s t _ =>
        t.src .int o.sa ((t.src .int o.sb ((lanesOf t.lanes (s.activeLanes t)).headD 0)).toNat % t.lanes))
    ∧ (∀ o : VR, LaneRun (.xscan o) o.nw o.vd o.pg.toNat fun s t L =>
        wrap32 ((t.src .int o.sb L).toInt
          + (((List.range L).filter fun M => decide (Acts s t o.pg.toNat M)).map fun M => (t.src .int o.sa M).toInt).sum)))
    ∧ (ViRun .vaddi (fun a i => wrap32 (a.toInt + i.toInt))
    ∧ ViRun .vandi (fun a i => BitVec.ofNat 32 (natOfBits (fun j => a.getLsbD j && i.getLsbD j) 32))
    ∧ ViRun .vori (fun a i => BitVec.ofNat 32 (natOfBits (fun j => a.getLsbD j || i.getLsbD j) 32))
    ∧ ViRun .vxori (fun a i => BitVec.ofNat 32 (natOfBits (fun j => a.getLsbD j ^^ i.getLsbD j) 32))
    ∧ ViRun .vshli (fun a i => if i.toNat < 32 then BitVec.ofNat 32 (a.toNat * 2 ^ i.toNat) else 0)
    ∧ ViRun .vshri (fun a i => if i.toNat < 32 then BitVec.ofNat 32 (a.toNat / 2 ^ i.toNat) else 0)
    ∧ ViRun .vsari (fun a i => if i.toNat < 32 then wrap32 (a.toInt / 2 ^ i.toNat) else if 0 ≤ a.toInt then 0 else 0xFFFFFFFF)
    ∧ ViRun .vldi (fun a i => wrap32 (a.toInt * 1024 + i.toInt))))
    ∧ ∀ (o0 : VR) (o1 : VI) (s : State) (t : Team), Runs s t →
      ∀ i ∈ [Instr.xshfl o0, .xup o0, .xdn o0, .xbfly o0, .xbcast o0, .xscan o0, .vaddi o1, .vandi o1, .vori o1, .vxori o1, .vshli o1,
        .vshri o1, .vsari o1, .vldi o1],
        i.highReg t.regs = none →
        ∃ s' t', Sys2Proof.Machine.exec i s = .next s' ∧ s'.team? t.tk = some t' ∧ t'.pc = t.nextPc ∧ t'.clock = t.clock + 1

/-- R167, R168, Table 10.2: what a source gives in a lane: a register, a latch entry, the lane's number, or a constant from -16 to 15. The
last two are converted to the type in which the instruction reads them: an integer, an FP32 value, both halves of an FP16 or BF16 pair
rounded RNE, every packed element rounded RNE and saturated; a 64-bit source is a register pair, a latch entry, a sign-extended constant or
the zero-extended lane. The spec's worked examples hold. -/
def Obligations.SourceOperands : Prop :=
  (∀ (t : Team) (k : ReadAs) (L : Nat),
    (∀ r : BitVec 6, t.src k (.v r) L = t.vreg r.toNat L)
    ∧ (∀ n : BitVec 2, t.src k (.b n) L = (t.latch n.toNat L).setWidth 32)
    ∧ (∀ r : BitVec 6, (t.src64 (.v r) L).toNat = (t.vreg r.toNat L).toNat + 2 ^ 32 * (t.vreg (r.toNat + 1) L).toNat)
    ∧ (∀ n : BitVec 2, t.src64 (.b n) L = t.latch n.toNat L)
    ∧ (∀ c : BitVec 5, (t.src64 (.const c) L).toInt = (c.toNat : Int) - 16)
    ∧ (L < 1024 → (t.src64 .lane L).toNat = L))
    ∧ (∀ (t : Team) (L : Nat) (x : Src) (z : Int), L < 1024 → (x = .lane ∧ z = L) ∨ (∃ c : BitVec 5, x = .const c ∧ z = (c.toNat : Int) - 16) →
      t.src .int x L = BitVec.ofInt 32 z
      ∧ fv (t.src .f32 x L) = fp32.dec (fp32.round 0 (intV z))
      ∧ (∀ F ∈ [fp16, bf16], ∀ i, i < 2 → elemAt 16 (t.src (.pair F) x L) i = F.round 0 (intV z))
      ∧ (∀ F ∈ [e4m3, e5m2, e2m1], ∀ i, i < 32 / F.width → elemAt F.width (t.src (.packF F) x L) i = F.narrow 8 (intV z))
      ∧ ∀ F ∈ [i8, n8, i4, n4], ∀ i, i < 32 / F.width → F.dec (elemAt F.width (t.src (.packI F) x L) i) = max F.lo (min F.hi z))
    ∧ ∀ t : Team, t.src .f32 (.const 13) 0 = 0xC0400000 ∧ t.src (.pair bf16) (.const 13) 0 = 0xC040C040
      ∧ t.src (.packI i4) (.const 0) 0 = 0x88888888 ∧ t.src (.packF e4m3) .lane 300 = 0x79797979 ∧ t.src (.pair bf16) .lane 257 = 0x43804380
      ∧ t.src (.packI i8) .lane 300 = 0x7F7F7F7F

/-- R233, R234: LDL, LDC, LDF, LDD and LDG form one load per active lane, which enters the team queue; nothing else changes until they are
satisfied. R233, R235: STL, STC, STF, STD and STG put the low bytes of vt, or the pair, into the store queue, one entry per piece at the
location of its address; no byte of memory changes at issue. R334, R341, R342: a policy word that fails, or a check at issue that fails in
some lane, faults with nothing entered, the lowest cause, detail and lane in the record; a lane not present leaves its team parked with the
unfinished lanes named and the others' accesses entered. -/
def Obligations.VectorMemory : Prop :=
  ((LoadRun .ldl .lane ∧ LoadRun .ldc .core ∧ LoadRun .ldf .fleet ∧ LoadRun .ldd .die ∧ LoadRun .ldg .global)
    ∧ (StoreRun .stl .lane ∧ StoreRun .stc .core ∧ StoreRun .stf .fleet ∧ StoreRun .std .die ∧ StoreRun .stg .global))
    ∧ ∀ (o : VM) (s : State) (t : Team), Runs s t →
      ∀ c ∈ [((Instr.ldl o, AccKind.load, Space.lane, Need.load) : Instr × AccKind × Space × Need), (.ldc o, .load, .core, .load),
          (.ldf o, .load, .fleet, .load), (.ldd o, .load, .die, .load), (.ldg o, .load, .global, .load), (.stl o, .store, .lane, .store),
          (.stc o, .store, .core, .store), (.stf o, .store, .fleet, .store), (.std o, .store, .die, .store), (.stg o, .store, .global, .store)],
        c.1.highReg t.regs = none → policyFault c.2.1 (t.policy o.spol.toNat) o.spol.toNat = none →
        (∀ a ∈ s.laneAccs t c.2.2.1 c.2.2.2 o.so o.sbase (sizeBytes o.size) 0, a.err = none) →
        ∃ s' t', Sys2Proof.Machine.exec c.1 s = .next s' ∧ s'.team? t.tk = some t' ∧ t'.pc = t.nextPc ∧ t'.clock = t.clock + 1

/-- R239, R240: the vector atomics put one operation per active lane into the store queue, lanes ascending; ATOMGN returns nothing and
makes no latch entry. R334, R341, R342: their policy word and their lanes fail as those of vector loads do. -/
def Obligations.VectorAtomicsEnter : Prop :=
  ((∀ o : VA, AtomRun (.atomg o) .global o.vt o.so o.sbase o.spol 4 fun t L => .rmw o.aop ((t.vreg o.vt.toNat L).setWidth 64))
    ∧ (∀ o : VA, AtomRun (.atomc o) .core o.vt o.so o.sbase o.spol 4 fun t L => .rmw o.aop ((t.vreg o.vt.toNat L).setWidth 64))
    ∧ (∀ o : VA, VecRun (.atomgn o) .atomic .global .atomic o.so o.sbase o.spol.toNat 4 4 none (fun _ _ _ => [])
        (fun s t acc => atomEntries s t (t.policy o.spol.toNat) (fun L => .rmw o.aop ((t.vreg o.vt.toNat L).setWidth 64)) false
          (fun a => .lane a.lane (s.laneCount t)) acc))
    ∧ (∀ o : VF, AtomRun (.faddg o) .global o.vt o.so o.sbase o.spol 4 fun t L => .fadd o.f (t.vreg o.vt.toNat L) (t.rmode % 8))
    ∧ (∀ o : VW, o.wide = .w32 → AtomRun (.xchg o) .global o.vt o.so o.sbase o.spol 4 fun t L =>
        .swap ((t.vreg o.vt.toNat L).setWidth 64))
    ∧ (∀ o : VW, o.wide = .w64 → AtomRun (.xchg o) .global o.vt o.so o.sbase o.spol 8 fun t L => .swap (t.vpair o.vt.toNat L))
    ∧ (∀ o : VW, o.wide = .w32 → AtomRun (.casg o) .global o.vt o.so o.sbase o.spol 4 fun t L =>
        .cas ((t.vreg o.vt.toNat L).setWidth 64) ((t.vreg (o.vt.toNat + 1) L).setWidth 64))
    ∧ (∀ o : VW, o.wide = .w64 → AtomRun (.casg o) .global o.vt o.so o.sbase o.spol 8 fun t L =>
        .cas (t.vpair o.vt.toNat L) (t.vpair (o.vt.toNat + 2) L)))
    ∧ ∀ (o : VA) (f : VF) (w : VW) (s : State) (t : Team), Runs s t →
      ∀ c ∈ [((Instr.atomg o, Space.global, o.so, o.sbase, o.spol, 4) : Instr × Space × Src × BitVec 6 × BitVec 2 × Nat),
          (.atomgn o, .global, o.so, o.sbase, o.spol, 4), (.atomc o, .core, o.so, o.sbase, o.spol, 4),
          (.faddg f, .global, f.so, f.sbase, f.spol, 4), (.xchg w, .global, w.so, w.sbase, w.spol, if w.wide = .w64 then 8 else 4),
          (.casg w, .global, w.so, w.sbase, w.spol, if w.wide = .w64 then 8 else 4)],
        c.1.highReg t.regs = none → policyFault .atomic (t.policy c.2.2.2.2.1.toNat) c.2.2.2.2.1.toNat = none →
        (∀ a ∈ s.laneAccs t c.2.1 .atomic c.2.2.1 c.2.2.2.1 c.2.2.2.2.2 c.2.2.2.2.2, a.err = none) →
        ∃ s' t', Sys2Proof.Machine.exec c.1 s = .next s' ∧ s'.team? t.tk = some t' ∧ t'.pc = t.nextPc ∧ t'.clock = t.clock + 1

/-- R238, R241: the uniform loads, stores and atomics make one access of 8 bytes for the team. R242 to R244, R247: the counter operations
enter the store queue with their amount, BCREAD and BCSET as acquire and release at partition scope whatever the policy word says; FENCE
enters the team queue; PFETCH only goes on. R334, R341, R242: a policy word, an address or an amount that fails its check faults with
nothing entered. -/
def Obligations.UniformMemory : Prop :=
  (((∀ c ∈ [(Instr.sldg, Space.global), (Instr.sldc, Space.core), (Instr.sldf, Space.fleet), (Instr.sldd, Space.die)], ∀ o : SM,
      TeamAccRun (c.1 o) .load c.2 .load (·.rs o.sbase) (fun t => (t.rs o.soff).toNat) o.spol.toNat 8 0
        (fun s t acc => loadEntries s t (t.policy o.spol.toNat) (fun _ => .uni o.sd.toNat) acc) (fun _ _ _ => []))
    ∧ (∀ c ∈ [(Instr.sstg, Space.global), (Instr.sstc, Space.core), (Instr.sstf, Space.fleet), (Instr.sstd, Space.die)], ∀ o : SM,
      TeamAccRun (c.1 o) .store c.2 .store (·.rs o.sbase) (fun t => (t.rs o.soff).toNat) o.spol.toNat 8 0 (fun _ _ _ => [])
        (fun s t acc => storeEntries s t (t.policy o.spol.toNat) (fun _ => t.rs o.sd) acc))
    ∧ (∀ o : SA, TeamAccRun (.satom o) .atomic .global .atomic (·.rs o.sbase) (fun _ => 0) o.spol.toNat 8 8 (fun _ _ _ => [])
        (fun s t acc => atomEntries s t (t.policy o.spol.toNat) (fun _ => .rmw o.aop (t.rs o.sv)) true (fun _ => .uni o.sd.toNat) acc))
    ∧ (∀ o : SX3, TeamAccRun (.scas o) .atomic .global .atomic (·.rs o.sbase) (fun _ => 0) o.spol.toNat 8 8 (fun _ _ _ => [])
        (fun s t acc => atomEntries s t (t.policy o.spol.toNat) (fun _ => .scas (t.rs o.sd) (t.rs o.sv)) true
          (fun _ => .uni o.sd.toNat) acc))
    ∧ (∀ o : SX3, TeamAccRun (.sxch o) .atomic .global .atomic (·.rs o.sbase) (fun _ => 0) o.spol.toNat 8 8 (fun _ _ _ => [])
        (fun s t acc => atomEntries s t (t.policy o.spol.toNat) (fun _ => .swap (t.rs o.sv)) true (fun _ => .uni o.sd.toNat) acc)))
    ∧ ((∀ o : SBcset, CounterRun (.bcdecAll o) o.sbase o.spol.toNat (fun t => (t.rs o.sv).toNat) false (.uni o.sd.toNat) .decAll)
    ∧ (∀ o : SBcset, CounterRun (.bcdecPart o) o.sbase o.spol.toNat (fun t => (t.rs o.sv).toNat) false (.uni o.sd.toNat) .decPart)
    ∧ (∀ o : SBcinc, CounterRun (.bcinc o) o.sbase o.spol.toNat (fun t => (t.rs o.sv).toNat) false .none .inc)
    ∧ (∀ o : SBcread, CounterRun (.bcread o) o.sbase o.spol.toNat (fun _ => 0) true (.uni o.sd.toNat) fun _ => .read)
    ∧ (∀ o : SBcset, CounterRun (.bcset o) o.sbase o.spol.toNat (fun t => (t.rs o.sv).toNat) true (.uni o.sd.toNat) .set)
    ∧ (∀ (o : SFence) (s : State) (t : Team), Runs s t → ∃ s' t', exec (.fence o) s = .next s' ∧ Issued s s' t t'
        ∧ t' = { t with
            tq := t.tq ++ [⟨s.nextId, s.nextId, .fence o.scope, false, .adaptive, [], .none, t.pc, t.pc, s.curWord, 0, false⟩]
            pc := t.nextPc, clock := t.clock + 1 })
    ∧ (∀ (o : SM) (s : State) (t : Team), Runs s t → ∃ s' t', exec (.pfetch o) s = .next s' ∧ OneTeam s s' t t'
        ∧ t' = { t with pc := t.nextPc, clock := t.clock + 1 })))
    ∧ ∀ (o : SM) (a : SA) (x : SX3) (b : SBcset) (n : SBcinc) (r : SBcread) (s : State) (t : Team), Runs s t →
      (∀ c ∈ [((Instr.sldg o, AccKind.load, Space.global, Need.load) : Instr × AccKind × Space × Need), (.sldc o, .load, .core, .load),
          (.sldf o, .load, .fleet, .load), (.sldd o, .load, .die, .load), (.sstg o, .store, .global, .store),
          (.sstc o, .store, .core, .store), (.sstf o, .store, .fleet, .store), (.sstd o, .store, .die, .store)],
        policyFault c.2.1 (t.policy o.spol.toNat) o.spol.toNat = none →
        (s.access t c.2.2.1 c.2.2.2 (t.rs o.sbase) (t.rs o.soff).toNat 8 0 2 0).err = none →
        ∃ s' t', Sys2Proof.Machine.exec c.1 s = .next s' ∧ s'.team? t.tk = some t' ∧ t'.pc = t.nextPc ∧ t'.clock = t.clock + 1)
      ∧ (∀ c ∈ [((Instr.satom a, a.sbase, a.spol.toNat) : Instr × BitVec 6 × Nat), (.scas x, x.sbase, x.spol.toNat),
          (.sxch x, x.sbase, x.spol.toNat)],
        policyFault .atomic (t.policy c.2.2) c.2.2 = none → (s.access t .global .atomic (t.rs c.2.1) 0 8 8 2 0).err = none →
        ∃ s' t', Sys2Proof.Machine.exec c.1 s = .next s' ∧ s'.team? t.tk = some t' ∧ t'.pc = t.nextPc ∧ t'.clock = t.clock + 1)
      ∧ ∀ c ∈ [((Instr.bcdecAll b, b.sbase, b.spol.toNat, (t.rs b.sv).toNat) : Instr × BitVec 6 × Nat × Nat),
          (.bcdecPart b, b.sbase, b.spol.toNat, (t.rs b.sv).toNat), (.bcset b, b.sbase, b.spol.toNat, (t.rs b.sv).toNat),
          (.bcinc n, n.sbase, n.spol.toNat, (t.rs n.sv).toNat), (.bcread r, r.sbase, r.spol.toNat, 0)],
        policyFault .atomic (t.policy c.2.2.1) c.2.2.1 = none → (s.access t .global .counter (t.rs c.2.1) 0 8 8 2 0).err = none →
        c.2.2.2 < 2 ^ 63 →
        ∃ s' t', Sys2Proof.Machine.exec c.1 s = .next s' ∧ s'.team? t.tk = some t' ∧ t'.pc = t.nextPc ∧ t'.clock = t.clock + 1

/-- R212 to R214, Table 12.1: the results of the uniform register operations, once for the team whatever its mask; a write to s0 is
discarded. R174, R214, R215: the immediate forms, and the handles: HMAKE joins an object number and an offset, HADDO moves the offset
within its 40 bits. -/
def Obligations.UniformResults : Prop :=
  ((SrRun .sadd (fun a b => wrap64 (a.toInt + b.toInt))
    ∧ SrRun .ssub (fun a b => wrap64 (a.toInt - b.toInt))
    ∧ SrRun .smul (fun a b => wrap64 (a.toInt * b.toInt))
    ∧ SnRun .smulh (fun n a b => if n then BitVec.ofNat 64 (a.toNat * b.toNat / 2 ^ 64) else wrap64 (a.toInt * b.toInt / 2 ^ 64))
    ∧ SrRun .sand (fun a b => BitVec.ofNat 64 (natOfBits (fun i => a.getLsbD i && b.getLsbD i) 64))
    ∧ SrRun .sor (fun a b => BitVec.ofNat 64 (natOfBits (fun i => a.getLsbD i || b.getLsbD i) 64))
    ∧ SrRun .sxor (fun a b => BitVec.ofNat 64 (natOfBits (fun i => a.getLsbD i ^^ b.getLsbD i) 64))
    ∧ SrRun .sshl (fun a b => if b.toNat < 64 then BitVec.ofNat 64 (a.toNat * 2 ^ b.toNat) else 0)
    ∧ SrRun .sshr (fun a b => if b.toNat < 64 then BitVec.ofNat 64 (a.toNat / 2 ^ b.toNat) else 0)
    ∧ SrRun .ssar (fun a b =>
        if b.toNat < 64 then wrap64 (a.toInt / 2 ^ b.toNat) else if 0 ≤ a.toInt then 0 else wrap64 (-1))
    ∧ SnRun .smin (fun n a b => if n then (if a.toNat < b.toNat then a else b) else if a.toInt < b.toInt then a else b)
    ∧ SnRun .smax (fun n a b => if n then (if b.toNat < a.toNat then a else b) else if b.toInt < a.toInt then a else b)
    ∧ (∀ o : SC, UniRun (.scmp o) o.sd (fun t =>
        let a := t.rs o.sa
        let b := t.rs o.sb
        if (match o.cond with
          | .eq => decide (a = b) | .ne => decide (a ≠ b)
          | .lt => decide (a.toInt < b.toInt) | .le => decide (a.toInt ≤ b.toInt)
          | .gt => decide (a.toInt > b.toInt) | .ge => decide (a.toInt ≥ b.toInt)
          | .ltn => decide (a.toNat < b.toNat) | .gen => decide (a.toNat ≥ b.toNat)) then 1 else 0) Team.nextPc)
    ∧ SuRun .spopc (fun a => BitVec.ofNat 64 ((List.range 64).countP fun i => a.getLsbD i))
    ∧ SuRun .sclz (fun a => BitVec.ofNat 64 (if a = 0 then 64 else 63 - Nat.log2 a.toNat))
    ∧ SuRun .smov (fun a => a))
    ∧ (SiRun .saddi (fun a i => wrap64 (a.toInt + i.toInt))
    ∧ SiRun .sandi (fun a i => BitVec.ofNat 64 (natOfBits (fun j => a.getLsbD j && i.getLsbD j) 64))
    ∧ SiRun .sori (fun a i => BitVec.ofNat 64 (natOfBits (fun j => a.getLsbD j || i.getLsbD j) 64))
    ∧ SiRun .sxori (fun a i => BitVec.ofNat 64 (natOfBits (fun j => a.getLsbD j ^^ i.getLsbD j) 64))
    ∧ SiRun .sshli (fun a i => if i.toNat < 64 then BitVec.ofNat 64 (a.toNat * 2 ^ i.toNat) else 0)
    ∧ SiRun .sshri (fun a i => if i.toNat < 64 then BitVec.ofNat 64 (a.toNat / 2 ^ i.toNat) else 0)
    ∧ (∀ o : SL, UniRun (.sldi o) o.sd (fun _ => wrap64 o.imm.toInt) Team.nextPc)
    ∧ (∀ o : SL, UniRun (.sldu o) o.sd (fun t => wrap64 ((t.rs o.sd).toInt * 2 ^ 18 + o.imm.toNat)) Team.nextPc)
    ∧ SrRun .hmake (fun a b => BitVec.ofNat 64 (a.toNat % 2 ^ 24 * 2 ^ 40 + b.toNat % 2 ^ 40))
    ∧ SrRun .haddo (fun a b => BitVec.ofNat 64 (a.toNat / 2 ^ 40 * 2 ^ 40 + (a.toNat % 2 ^ 40 + b.toNat) % 2 ^ 40))))
    ∧ ∀ (o0 : SR) (o1 : SN) (o2 : SC) (o3 : SU) (o4 : SI) (o5 : SL) (s : State) (t : Team), Runs s t →
      ∀ i ∈ [Instr.sadd o0, .ssub o0, .smul o0, .sand o0, .sor o0, .sxor o0, .sshl o0, .sshr o0, .ssar o0, .hmake o0, .haddo o0, .smulh o1,
        .smin o1, .smax o1, .scmp o2, .spopc o3, .sclz o3, .smov o3, .saddi o4, .sandi o4, .sori o4, .sxori o4, .sshli o4, .sshri o4,
        .sldi o5, .sldu o5],
        i.highReg t.regs = none →
        ∃ s' t', Sys2Proof.Machine.exec i s = .next s' ∧ s'.team? t.tk = some t' ∧ t'.pc = t.nextPc ∧ t'.clock = t.clock + 1

/-- R216 to R218: the team reductions over the active lanes with the predicate true, the fixed tree of REDFADD, BALLOT and ANYL. R219: the
moves between lanes and uniform registers. -/
def Obligations.ReductionsAndMoves : Prop :=
  (((∀ o : SRed, UniRun (.redadd o) o.sd (fun t =>
      wrap64 ((t.chosen o.pg).map fun L => if o.n then ((t.vreg o.va.toNat L).toNat : Int) else (t.vreg o.va.toNat L).toInt).sum) Team.nextPc)
    ∧ (∀ o : SRed, UniRun (.redmin o) o.sd (fun t =>
        wrap64 (((t.chosen o.pg).map fun L => if o.n then ((t.vreg o.va.toNat L).toNat : Int) else (t.vreg o.va.toNat L).toInt).foldr min
          (if o.n then 0xFFFFFFFF else 0x7FFFFFFF))) Team.nextPc)
    ∧ (∀ o : SRed, UniRun (.redmax o) o.sd (fun t =>
        wrap64 (((t.chosen o.pg).map fun L => if o.n then ((t.vreg o.va.toNat L).toNat : Int) else (t.vreg o.va.toNat L).toInt).foldr max
          (if o.n then 0 else -0x80000000))) Team.nextPc)
    ∧ (∀ t pn L, L ∈ t.chosen pn ↔ L < t.lanes ∧ Contributes t pn L)
    ∧ (∀ o : SRedF, UniRun (.redfadd o) o.sd (fun t =>
        qn (redfadd t.mode ((List.range t.lanes).map fun L =>
          if L ∈ t.chosen o.pn then some (t.vreg o.sa.toNat L).toNat else none))) Team.nextPc)
    ∧ (∀ o : SRedF, UniRun (.ballot o) o.sd (fun t =>
        BitVec.ofNat 64 (natOfBits (fun i => decide (64 * ((t.rs o.sa).toNat % 16) + i ∈ t.chosen o.pn)) 64)) Team.nextPc)
    ∧ (∀ o : SAny, UniRun (.anyl o) o.sd (fun t =>
        if o.all then (if ∀ L ∈ lanesOf t.lanes t.mask, t.pred o.pn.toNat L = true then 1 else 0)
        else if t.chosen o.pn = [] then 0 else 1) Team.nextPc))
    ∧ ((∀ o : SBcs, LaneMove (.vbcs o) o.w o.vd (fun t L => t.mask.getLsbD L = true) (fun t => t.rs o.sa))
    ∧ (∀ o : SLane, LaneMove (.vsetl o) o.w o.d
        (fun t L => L = (t.rs o.sb).toNat % t.lanes ∧ t.mask.getLsbD L = true) (fun t => t.rs o.a))
    ∧ (∀ o : SLane, UniRun (.vgetl o) o.d (fun t =>
        let k := (t.rs o.sb).toNat % t.lanes
        BitVec.ofNat 64 ((t.vreg o.a.toNat k).toNat + if o.w then (t.vreg (o.a.toNat + 1) k).toNat * 2 ^ 32 else 0)) Team.nextPc)))
    ∧ ∀ (o0 : SRed) (o1 : SRedF) (o2 : SAny) (o3 : SBcs) (o4 : SLane) (s : State) (t : Team), Runs s t →
      ∀ i ∈ [Instr.redadd o0, .redmin o0, .redmax o0, .redfadd o1, .ballot o1, .anyl o2, .vbcs o3, .vgetl o4, .vsetl o4],
        i.highReg t.regs = none →
        ∃ s' t', Sys2Proof.Machine.exec i s = .next s' ∧ s'.team? t.tk = some t' ∧ t'.pc = t.nextPc ∧ t'.clock = t.clock + 1

/-- R164, R173, R220: the branches move the PC for the whole team; CALL and JMPI write the handle of the next instruction; a register
target must be a multiple of 4, and one that is not parks the team with OPERAND 4. R221 to R224: pushes, pops, breaks and loops on a token
stack below its limit of 160: the tokens, the mask and the PC are as the rules give; the tokens below the top 32 have their records in the
team's lane-private memory (Table 12.2), and nothing else of the state changes. -/
def Obligations.BranchesAndTokens : Prop :=
  (((∀ t : Team, t.nextPc = branchTarget t (1 : BitVec 18))
    ∧ (∀ o : SJ, UniRun (.bra o) 0 (fun _ => 0) fun t => branchTarget t o.disp)
    ∧ (∀ o : SB, UniRun (.bz o) 0 (fun _ => 0) fun t => if t.rs o.sa = 0 then branchTarget t o.disp else t.nextPc)
    ∧ (∀ o : SB, UniRun (.bnz o) 0 (fun _ => 0) fun t => if t.rs o.sa ≠ 0 then branchTarget t o.disp else t.nextPc)
    ∧ (∀ o : SJ, UniRun (.call o) 63 Team.nextPc fun t => branchTarget t o.disp)
    ∧ (∀ (o : S1) (s : State) (t : Team), Runs s t → (t.rs o.sa).toNat % 4 = 0 →
        ∃ s' t', exec (.ret o) s = .next s' ∧ OneTeam s s' t t' ∧ t' = { t with pc := t.rs o.sa, clock := t.clock + 1 })
    ∧ (∀ (o : SU) (s : State) (t : Team), Runs s t → (t.rs o.sa).toNat % 4 = 0 →
        ∃ s' t', exec (.jmpi o) s = .next s' ∧ OneTeam s s' t t'
          ∧ t' = { t with s := t'.s, pc := t.rs o.sa, clock := t.clock + 1 }
          ∧ ∀ r, t'.sreg r = if r = o.sd.toNat ∧ r ≠ 0 then t.nextPc else t.sreg r)
    ∧ (∀ (o : S1) (s : State) (t : Team), Runs s t → (t.rs o.sa).toNat % 4 ≠ 0 →
        exec (.ret o) s = .next (s.fault t ⟨0x05, 4, t.rs o.sa, 0⟩))
    ∧ (∀ (o : SU) (s : State) (t : Team), Runs s t → (t.rs o.sa).toNat % 4 ≠ 0 →
        exec (.jmpi o) s = .next (s.fault t ⟨0x05, 4, t.rs o.sa, 0⟩)))
    ∧ ((∀ (o : SJ) (s : State) (t : Team), Runs s t → Stacks s t → ∃ s' t', exec (.rpush o) s = .next s' ∧ Spills s s' t t'
      ∧ t' = { t with toks := ⟨.reconv, branchTarget t o.disp, t.mask, 0⟩ :: t.toks, pc := t.nextPc, clock := t.clock + 1 })
    ∧ (∀ (o : SJ) (s : State) (t : Team), Runs s t → Stacks s t → ∃ s' t', exec (.lpush o) s = .next s' ∧ Spills s s' t t'
      ∧ t' = { t with toks := ⟨.loop, branchTarget t o.disp, 0, 0⟩ :: t.toks, pc := t.nextPc, clock := t.clock + 1 })
    ∧ (∀ (o : SPB) (s : State) (t : Team) (T : Mask), Runs s t → LanesIn t o.pn T →
      (T = 0 → ∃ s' t', exec (.brv o) s = .next s' ∧ OneTeam s s' t t' ∧ t' = { t with pc := t.nextPc, clock := t.clock + 1 })
      ∧ (T ≠ 0 → t.mask &&& ~~~T = 0 → ∃ s' t', exec (.brv o) s = .next s' ∧ OneTeam s s' t t'
        ∧ t' = { t with pc := branchTarget t o.disp, clock := t.clock + 1 })
      ∧ (T ≠ 0 → t.mask &&& ~~~T ≠ 0 → Stacks s t → ∃ s' t', exec (.brv o) s = .next s' ∧ Spills s s' t t'
        ∧ t' = { t with toks := ⟨.diverg, branchTarget t o.disp, T, 0⟩ :: t.toks, mask := t.mask &&& ~~~T, pc := t.nextPc,
                        clock := t.clock + 1 }))
    ∧ (∀ (s : State) (t : Team) (x : Token) (r : List Token), Runs s t → t.toks.length ≤ 32 ∨ s.lost = [] → t.toks = x :: r → x.kind ≠ .loop →
      ∃ s' t', exec .rjoin s = .next s' ∧ OneTeam s s' t t'
      ∧ t' = { t with toks := r, mask := x.ma, pc := x.a, clock := t.clock + 1 })
    ∧ (∀ (o : SP) (s : State) (t : Team) (K : Mask) (up : List Token) (x : Token) (r : List Token), Runs s t → Stacks s t →
      LanesIn t o.pn K → t.toks = up ++ x :: r → (∀ y ∈ up, y.kind ≠ .loop) → x.kind = .loop →
      (∃ s' t', exec (.brk o) s = .next s' ∧ Spills s s' t t'
        ∧ t' = { t with toks := up.map (fun y => { y with ma := y.ma &&& ~~~K }) ++ { x with ma := x.ma ||| K } :: r
                        mask := t.mask &&& ~~~K, pc := t.nextPc, clock := t.clock + 1 })
      ∧ (∃ s' t', exec (.cont o) s = .next s' ∧ Spills s s' t t'
        ∧ t' = { t with toks := up.map (fun y => { y with ma := y.ma &&& ~~~K }) ++ { x with mb := x.mb ||| K } :: r
                        mask := t.mask &&& ~~~K, pc := t.nextPc, clock := t.clock + 1 }))
    ∧ (∀ (o : SPB) (s : State) (t : Team) (P : Mask) (x : Token) (r : List Token), Runs s t → Stacks s t → LanesIn t o.pn P →
      t.toks = x :: r → x.kind = .loop →
      (P ||| x.mb = 0 → ∃ s' t', exec (.bloop o) s = .next s' ∧ OneTeam s s' t t'
        ∧ t' = { t with toks := r, mask := x.ma ||| (t.mask &&& ~~~P), pc := x.a, clock := t.clock + 1 })
      ∧ (P ||| x.mb ≠ 0 → ∃ s' t', exec (.bloop o) s = .next s' ∧ Spills s s' t t'
        ∧ t' = { t with toks := { x with ma := x.ma ||| (t.mask &&& ~~~P), mb := 0 } :: r, mask := P ||| x.mb,
                        pc := branchTarget t o.disp, clock := t.clock + 1 }))))
    ∧ ∀ (j : SJ) (b : SB) (s : State) (t : Team), Runs s t → ∀ i ∈ [Instr.bra j, .bz b, .bnz b, .call j],
      ∃ s' t', Sys2Proof.Machine.exec i s = .next s' ∧ s'.team? t.tk = some t' ∧ t'.clock = t.clock + 1

/-- R48, R225, Table 4.1: FORK, FORKV and FORKL push a frame with the branch target, the full or the active mask, s1 to s12, and for FORKL
the bounds. R51 to R53: at a promotion point with the flag set Dill acts before: with no promotable frame, and after a cancel, the flag goes;
without room it stays; while the parent's release at partition scope does not hold the instruction does not issue; else the oldest
promotable frame is marked promoted with its child and one more to join, the child team begins at its RESUME with its mask and slots, and
of a loop frame the child has the upper half of the range. Dill's writes reach memory at once (assumption 23). -/
def Obligations.FramePushes : Prop :=
  ((∀ o : SJ, PushRun (.fork o) 0 (fun t => branchTarget t o.disp) (fun t => fullMask t.lanes) (fun _ => 0) fun _ => 0)
    ∧ (∀ o : SJ, PushRun (.forkv o) 1 (fun t => branchTarget t o.disp) (fun t => t.mask) (fun _ => 0) fun _ => 0)
    ∧ (∀ o : SBX, PushRun (.forkl o) 2 (fun t => branchTarget t o.disp) (fun t => fullMask t.lanes) (fun t => t.rs o.sa) fun t =>
        if (t.rs o.sa).toNat < (t.rs o.sb).toNat then t.rs o.sb else t.rs o.sa))
    ∧ (∀ (o : SJ) (b : SBX) (s s1 : State) (t t1 : Team), (t.sreg 62).toNat + 256 ≤ t.fsl.toNat → CanWrite s t (t.sreg 62) 0 256 →
      CanWrite s1 t1 (t.sreg 62) 0 256 →
      ∀ i ∈ [Instr.fork o, .forkv o, .forkl b], AtFrame i s t s1 t1 →
        ∃ s' t', Sys2Proof.Machine.exec i s = .next s' ∧ s'.team? t.tk = some t' ∧ t'.pc = t.nextPc ∧ t'.clock = t.clock + 1)
    ∧ ((∀ (s : State) (t : Team), t.pending = false → s.dill t = .go s t)
      ∧ (∀ (s : State) (t : Team) (l : Launch), t.pending = true → s.launch? t.launch = some l → l.cancel = true →
        s.dill t = .go s { t with pending := false })
      ∧ (∀ (s : State) (t : Team) (l : Launch), t.pending = true → s.launch? t.launch = some l → l.cancel = false → s.oldest t = none →
        ∃ s1, s.dill t = .go s1 { t with pending := false } ∧ s1.teams = s.teams ∧ SameBytes s s1)
      ∧ (∀ (s : State) (t : Team) (l : Launch) (x : QWord × FrameHead), t.pending = true → s.launch? t.launch = some l → l.cancel = false →
        l.det = false → s.oldest t = some x → s.roomFor t = none → ∃ s1, s.dill t = .go s1 t ∧ s1.teams = s.teams ∧ SameBytes s s1)
      ∧ (∀ (s : State) (t : Team) (l : Launch) (x : QWord × FrameHead) (r : Room), t.pending = true → s.launch? t.launch = some l →
        l.cancel = false → l.det = false → s.oldest t = some x → s.roomFor t = some r → s.releaseOk t s.nextId .partition = false →
        s.dill t = .later)
      ∧ (∀ (s s0 s1 s2 : State) (t : Team) (l : Launch) (h : QWord) (r : Room) (bs : List Byte) (f : FrameHead) (mid : Nat),
        Promotes s t l h r bs → f = headOf (leNat (bs.take 32)) → mid = f.lo.toNat + (f.hi.toNat - f.lo.toNat + 1) / 2 →
        s0 = (s.noteDill t (some h)).dropRange t h 256 →
        (f.kind = 2 → s0.dillWrite t r.fsb (childFrame f bs mid) = .ok s1) → (f.kind ≠ 2 → s1 = s0) →
        s1.dillWrite t h (promotedHead s t f mid) = .ok s2 →
        ∃ s3 u l', s.dill t = .go s3 { t with pending := false, children := t.children + 1 } ∧ s3.mem = s2.mem ∧ Forked s t h f bs r u
          ∧ s3.team? u.tk = some u ∧ (∀ k, k ≠ u.tk → s3.team? k = s.team? k) ∧ s3.launch? t.launch = some l'
          ∧ l'.counter = l.counter + 1)
      ∧ (∀ (s s1 : State) (t : Team) (h : QWord) (bs : List Byte) (d : Desc) (ps : List Piece), s.dillWrite t h bs = .ok s1 → s.Canonical →
        s.checkGlobal 999 (s.asidOf t) .store h 0 bs.length 0 0 = .ok d →
        s.globalPieces 999 (s.asidOf t) t.vf d (hObj h) (hOff h) bs.length = .ok ps → Apart ps bs.length →
        s1.teams = s.teams ∧ WrotePieces s s1 ps bs))
    ∧ ∀ (o : SJ) (b : SBX) (s : State) (t : Team), Runs s t → (t.sreg 62).toNat + 256 ≤ t.fsl.toNat → CanWrite s t (t.sreg 62) 0 256 →
      s.dill t = .later → ∀ i ∈ [Instr.ppt, .fork o, .forkv o, .forkl b], exec i s = .next s

/-- R51, R55, R56: JOIN, from where Dill has left its team, takes a latent plain or vector frame inline: it goes to RESUME with the frame's
mask and slots; it pops a frame whose cell is zero, and otherwise waits; the end of an inline branch goes on after its JOIN with the mask
that JOIN had. R34, R35, R56, R224: TEND with an empty frame stack ends the team, which retires it; YIELD and NOP only go on, YIELD moving
the slice's rotation pointer past the team. -/
def Obligations.JoinsAndEnds : Prop :=
  ((∀ (s s1 : State) (t t1 : Team) (f0 f : FrameHead) (o0 o1 o2 : List Nat) (n : Nat), AtFrame .join s t s1 t1 → t.sreg 62 ≠ t.fsb →
      s.frameHead t (topFrame t) = .ok (f0, o0) → f0.state ≠ 2 → s.joinFault t = none →
      s1.frameHead t1 (topFrame t) = .ok (f, o1) → s1.frameRead t1 (topFrame t) 32 224 = .ok (n, o2) → f.kind < 2 → f.state = 0 →
      CanWrite s1 t1 (topFrame t) 12 4 → CanWrite s1 t1 (topFrame t) 16 144 →
      ∃ s' t', exec .join s = .next s' ∧ TeamAlone s1 s' t1 t' ∧ t'.pc = f.resume ∧ t'.mask = BitVec.ofNat 1024 n
        ∧ (∀ r, t'.sreg r = if 1 ≤ r ∧ r ≤ 12 then qn (n / 2 ^ (1024 + 64 * (r - 1))) else t.sreg r)
        ∧ t'.clock = t.clock + 1 ∧ t'.v = t.v ∧ t'.p = t.p ∧ t'.toks = t.toks ∧ t'.pending = t1.pending)
    ∧ (∀ (s s1 : State) (t t1 : Team) (f0 f : FrameHead) (o0 o : List Nat), AtFrame .join s t s1 t1 → t.sreg 62 ≠ t.fsb →
      s.frameHead t (topFrame t) = .ok (f0, o0) → f0.state ≠ 2 → s.joinFault t = none →
      s1.frameHead t1 (topFrame t) = .ok (f, o) → ¬ (f.kind < 2 ∧ f.state = 0) → f.jcell = 0 → ¬ (f.kind = 2 ∧ f.root = true) →
      ∃ s' t', exec .join s = .next s' ∧ TeamAlone s1 s' t1 t' ∧ t'.pc = t.nextPc ∧ t'.wait = none
        ∧ (∀ r, t'.sreg r = if r = 62 then topFrame t else t.sreg r)
        ∧ t'.clock = t.clock + 1 ∧ t'.v = t.v ∧ t'.p = t.p ∧ t'.mask = t.mask ∧ t'.toks = t.toks ∧ t'.pending = t1.pending)
    ∧ (∀ (s s1 : State) (t t1 : Team) (f0 f : FrameHead) (o0 o : List Nat), AtFrame .join s t s1 t1 → t.sreg 62 ≠ t.fsb →
      s.frameHead t (topFrame t) = .ok (f0, o0) → f0.state ≠ 2 → s.joinFault t = none →
      s1.frameHead t1 (topFrame t) = .ok (f, o) → ¬ (f.kind < 2 ∧ f.state = 0) → f.jcell ≠ 0 → t.wait = none →
      ∃ s' t', exec .join s = .next s' ∧ TeamAlone s1 s' t1 t' ∧ t'.pc = t.pc ∧ t'.wait.map Wait.on = some .join
        ∧ t'.clock = t.clock ∧ t'.s = t.s ∧ t'.v = t.v ∧ t'.p = t.p ∧ t'.mask = t.mask ∧ t'.pending = t1.pending)
    ∧ (∀ (s : State) (t : Team) (f : FrameHead) (o1 o2 : List Nat) (n : Nat), Runs s t → s.frameOpen t (t.frameNeeds .tend) = true →
      t.sreg 62 ≠ t.fsb →
      s.frameHead t (topFrame t) = .ok (f, o1) → s.frameRead t (topFrame t) 32 128 = .ok (n, o2) → f.state = 2 →
      CanWrite s t (topFrame t) 12 4 → CanWrite s t (topFrame t) 32 128 →
      ∃ s' t', exec .tend s = .next s' ∧ TeamAlone s s' t t' ∧ t'.pc = f.lo ∧ t'.mask = BitVec.ofNat 1024 n
        ∧ (∀ r, t'.sreg r = if r = 62 then topFrame t else t.sreg r)
        ∧ t'.toks = t.toks.drop (t.toks.length - f.hi.toNat % 65536)
        ∧ t'.clock = t.clock + 1 ∧ t'.v = t.v ∧ t'.p = t.p))
    ∧ ((∀ (s : State) (t : Team), Runs s t → Unlisted s t → t.sreg 62 = t.fsb →
      ∃ s' t', exec .tend s = .next s' ∧ TeamAlone s s' t t' ∧ t'.ended = true ∧ t'.wait = none ∧ t'.clock = t.clock + 1
        ∧ t'.v = t.v ∧ t'.p = t.p ∧ t'.s = t.s)
    ∧ (∀ (s : State) (t : Team), Runs s t → ∃ s' t', exec .yield s = .next s' ∧ TeamAlone s s' t t'
        ∧ t' = { t with pc := t.nextPc, clock := t.clock + 1 } ∧ (s'.slice t.slice).ptr = (t.slot + 1) % 16)
    ∧ (∀ (s : State) (t : Team), Runs s t → ∃ s' t', exec .nop s = .next s' ∧ OneTeam s s' t t'
        ∧ t' = { t with pc := t.nextPc, clock := t.clock + 1 }))

/-- R51, R54, R57, R225: PPT has no effect of its own once Dill has acted; TAKE claims a chunk of the loop frame on top, after Dill; FRES
writes a slot of the result frame and FRGET reads one just popped. R102, R227 to R230: ENQ puts the pairs of its lanes into the store queue
as a release, lanes ascending, and counts them; REFILL gives the first available items to the idle lanes, ascending, and clears their
predicate; WAITQ returns 0 when an item is available and waits otherwise; TRIG enters the store queue; WAITDEP returns when its producers
are triggered and waits otherwise. -/
def Obligations.FramesAndItems : Prop :=
  ((∀ (s s1 : State) (t t1 : Team), AtFrame .ppt s t s1 t1 → ∃ s' t', exec .ppt s = .next s' ∧ TeamAlone s1 s' t1 t'
      ∧ t' = { t1 with pc := t.nextPc, clock := t.clock + 1 })
    ∧ (∀ (o : SU) (s s1 : State) (t t1 : Team) (f0 f : FrameHead) (o0 obs : List Nat), AtFrame (.take o) s t s1 t1 → t.sreg 62 ≠ t.fsb →
      s.frameHead t (topFrame t) = .ok (f0, o0) → f0.kind = 2 → CanWrite s t (topFrame t) 16 8 →
      s1.frameHead t1 (topFrame t) = .ok (f, obs) → CanWrite s1 t1 (topFrame t) 16 8 → o.sd.toNat % 2 = 0 → 2 ≤ o.sd.toNat →
      o.sd.toNat ≤ 60 →
      ∃ s' t', exec (.take o) s = .next s' ∧ TeamAlone s1 s' t1 t'
        ∧ t'.sreg o.sd.toNat = f.lo ∧ t'.sreg (o.sd.toNat + 1) = qn (min (f.lo.toNat + max 1 (t.rs o.sa).toNat) f.hi.toNat)
        ∧ (∀ r, r ≠ o.sd.toNat → r ≠ o.sd.toNat + 1 → t'.sreg r = t.sreg r)
        ∧ t'.pc = t.nextPc ∧ t'.clock = t.clock + 1 ∧ t'.v = t.v ∧ t'.p = t.p ∧ t'.mask = t.mask ∧ t'.pending = t1.pending)
    ∧ (∀ (o : SFres) (s : State) (t : Team) (h : QWord), Runs s t → s.frameOpen t (t.frameNeeds (.fres o)) = true →
      s.resultFrame t = .ok (some h) → CanWrite s t h (160 + 8 * o.k.toNat) 8 →
      ∃ s' t' b, exec (.fres o) s = .next s' ∧ TeamAlone s s' t t' ∧ b.length = 8 ∧ leNat b = (t.rs o.sa).toNat
        ∧ t' = { t with
            observed := t'.observed, sq := t.sq ++ frameEntries s t h (160 + 8 * o.k.toNat) b, pc := t.nextPc, clock := t.clock + 1 })
    ∧ (∀ (o : SFrget) (s : State) (t : Team) (n : Nat) (obs : List Nat), Runs s t → s.frameOpen t (t.frameNeeds (.frget o)) = true →
      t.sreg 62 ≠ t.fsl → s.frameRead t (t.sreg 62) (160 + 8 * o.k.toNat) 8 = .ok (n, obs) →
      ∃ s' t', exec (.frget o) s = .next s' ∧ TeamAlone s s' t t'
        ∧ (∀ r, t'.sreg r = if r = o.sd.toNat ∧ r ≠ 0 then qn n else t.sreg r)
        ∧ t'.pc = t.nextPc ∧ t'.clock = t.clock + 1 ∧ t'.v = t.v ∧ t'.p = t.p ∧ t'.mask = t.mask))
    ∧ ((∀ (o : SItem) (s : State) (t : Team), Runs s t → (Instr.enq o).highReg t.regs = none → NamesList s t (t.rs o.sa) →
      ∃ s' t', exec (.enq o) s = .next s' ∧ Issued s s' t t'
        ∧ t' = { t with
            s := t'.s
            sq := t.sq ++
              [⟨s.nextId, s.nextId, .core, 0, 0, 0, .enq (t.rs o.sa).toNat ((t.chosen o.pn).map fun L => t.vpair o.vb.toNat L), false,
                some .partition, false, .none, t.pc, t.pc, s.curWord, 0⟩]
            pc := t.nextPc, clock := t.clock + 1 }
        ∧ ∀ r, t'.sreg r = if r = o.sd.toNat ∧ r ≠ 0 then qn (t.chosen o.pn).length else t.sreg r)
    ∧ (∀ (o : SItem) (s : State) (t : Team), Runs s t → (Instr.refill o).highReg t.regs = none → NamesList s t (t.rs o.sa) → o.pn ≠ 0 →
      t.lanes ≤ 1024 →
      ∃ s' t' n, exec (.refill o) s = .next s' ∧ TeamAlone s s' t t'
        ∧ n = min (t.chosen o.pn).length (s.available t (t.rs o.sa).toNat).length
        ∧ (∀ j, j < n → t'.vpair o.vb.toNat ((t.chosen o.pn).getD j 0) = (s.available t (t.rs o.sa).toNat).getD j 0
            ∧ t'.pred o.pn.toNat ((t.chosen o.pn).getD j 0) = false)
        ∧ (∀ r L, L < t.lanes → L ∉ (t.chosen o.pn).take n → t'.vreg r L = t.vreg r L ∧ t'.pred o.pn.toNat L = t.pred o.pn.toNat L)
        ∧ (∀ r L, r ≠ o.vb.toNat → r ≠ o.vb.toNat + 1 → t'.vreg r L = t.vreg r L)
        ∧ (∀ r, t'.sreg r = if r = o.sd.toNat ∧ r ≠ 0 then qn n else t.sreg r)
        ∧ s'.available t (t.rs o.sa).toNat = (s.available t (t.rs o.sa).toNat).drop n
        ∧ t'.pc = t.nextPc ∧ t'.clock = t.clock + 1 ∧ t'.mask = t.mask)
    ∧ (∀ (o : SU) (s : State) (t : Team), Runs s t → NamesList s t (t.rs o.sa) → s.available t (t.rs o.sa).toNat ≠ [] →
      ∃ s' t', exec (.waitq o) s = .next s' ∧ OneTeam s s' t t'
        ∧ t' = { t with s := t'.s, named := some (t.rs o.sa).toNat, pc := t.nextPc, clock := t.clock + 1 }
        ∧ ∀ r, t'.sreg r = if r = o.sd.toNat ∧ r ≠ 0 then 0 else t.sreg r)
    ∧ (∀ (o : SU) (s : State) (t : Team), Runs s t → NamesList s t (t.rs o.sa) → s.available t (t.rs o.sa).toNat = [] →
      ∃ s' t', exec (.waitq o) s = .next s' ∧ OneTeam s s' t t'
        ∧ t' = { t with named := some (t.rs o.sa).toNat, wait := some ⟨.waitq (t.rs o.sa).toNat o.sd, s.curWord, s.thyme, s.thyme, 0⟩ })
    ∧ (∀ (s : State) (t : Team), Runs s t → ∃ s' t', exec .trig s = .next s' ∧ Issued s s' t t'
        ∧ t' = { t with
            sq := t.sq ++ [⟨s.nextId, s.nextId, .core, 0, 0, 0, .trig, false, some .partition, false, .none, t.pc, t.pc, s.curWord, 0⟩]
            pc := t.nextPc, clock := t.clock + 1 })
    ∧ (∀ (s : State) (t : Team), Runs s t → ∃ s' t', exec .waitdep s = .next s' ∧ OneTeam s s' t t'
        ∧ t' = if s.depsTest t then { t with pc := t.nextPc, clock := t.clock + 1 }
          else { t with wait := some ⟨.waitdep, s.curWord, s.thyme, s.thyme, 0⟩ }))

/-- R221, R222, R223, Table 22.2 TOKENS: a push at depth 160, an RJOIN on an empty stack or on a loop token, a BRK or CONT with no loop
token, and a BLOOP whose top is none, park the team; nothing is pushed or popped. R48, R54 to R57, Table 22.2 FRAME: a push beyond FSL,
JOIN and TAKE on an empty stack, a JOIN of a taken frame, a TAKE of a frame that is no loop frame, FRES with no result frame, FRGET on an
empty space above the stack, and a TEND that would end the team with frames left, park the team with the cause FRAME and change nothing else
of it. R227 to R229, Table 22.2 OPERAND 3: ENQ, REFILL and WAITQ of a list at or above LISTS park it with the list and LISTS. -/
def Obligations.StackFaults : Prop :=
  ((∀ (o : SJ) (s : State) (t : Team), Runs s t → t.toks.length = 160 →
      exec (.rpush o) s = .next (s.fault t ⟨0x07, 1, 0, 160⟩) ∧ exec (.lpush o) s = .next (s.fault t ⟨0x07, 1, 0, 160⟩))
    ∧ (∀ (s : State) (t : Team), Runs s t → t.toks = [] → exec .rjoin s = .next (s.fault t ⟨0x07, 2, 0, 0⟩))
    ∧ (∀ (s : State) (t : Team) (x : Token) (r : List Token), Runs s t → t.toks = x :: r → x.kind = .loop →
      exec .rjoin s = .next (s.fault t ⟨0x07, 3, 0, qn t.toks.length⟩))
    ∧ (∀ (o : SP) (s : State) (t : Team), Runs s t → (∀ y ∈ t.toks, y.kind ≠ .loop) →
      exec (.brk o) s = .next (s.fault t ⟨0x07, 4, 0, qn t.toks.length⟩)
      ∧ exec (.cont o) s = .next (s.fault t ⟨0x07, 4, 0, qn t.toks.length⟩))
    ∧ (∀ (o : SPB) (s : State) (t : Team), Runs s t → (∀ x, t.toks.head? = some x → x.kind ≠ .loop) →
      exec (.bloop o) s = .next (s.fault t ⟨0x07, 5, 0, qn t.toks.length⟩)))
    ∧ ((∀ (o : SJ) (b : SBX) (s : State) (t : Team), Runs s t → t.fsl.toNat < (t.sreg 62).toNat + 256 →
      ∀ i ∈ [Instr.fork o, .forkv o, .forkl b], exec i s = .next (s.fault t ⟨0x08, 1, t.sreg 62, t.fsl⟩))
    ∧ (∀ (s : State) (t : Team), Runs s t → t.sreg 62 = t.fsb → exec .join s = .next (s.fault t ⟨0x08, 2, t.sreg 62, 0⟩))
    ∧ (∀ (s : State) (t : Team) (f : FrameHead) (o : List Nat), Runs s t → s.frameOpen t (t.frameNeeds .join) = true → t.sreg 62 ≠ t.fsb →
      s.frameHead t (topFrame t) = .ok (f, o) → f.state = 2 →
      exec .join s = .next (s.fault t ⟨0x08, 3, t.sreg 62, qn (fld f.q1 63 60)⟩))
    ∧ (∀ (o : SU) (s : State) (t : Team), Runs s t → t.sreg 62 = t.fsb → exec (.take o) s = .next (s.fault t ⟨0x08, 4, t.sreg 62, 0⟩))
    ∧ (∀ (o : SU) (s : State) (t : Team) (f : FrameHead) (obs : List Nat), Runs s t → s.frameOpen t (t.frameNeeds (.take o)) = true →
      t.sreg 62 ≠ t.fsb → s.frameHead t (topFrame t) = .ok (f, obs) → f.kind ≠ 2 →
      exec (.take o) s = .next (s.fault t ⟨0x08, 4, t.sreg 62, qn (fld f.q1 63 60)⟩))
    ∧ (∀ (o : SFres) (s : State) (t : Team), Runs s t → s.frameOpen t (t.frameNeeds (.fres o)) = true → s.resultFrame t = .ok none →
      exec (.fres o) s = .next (s.fault t ⟨0x08, 5, t.sreg 62, qn o.k.toNat⟩))
    ∧ (∀ (o : SFrget) (s : State) (t : Team), Runs s t → t.sreg 62 = t.fsl →
      exec (.frget o) s = .next (s.fault t ⟨0x08, 6, t.sreg 62, qn o.k.toNat⟩))
    ∧ (∀ (s : State) (t : Team) (f : FrameHead) (obs : List Nat), Runs s t → s.frameOpen t (t.frameNeeds .tend) = true → t.sreg 62 ≠ t.fsb →
      s.frameHead t (topFrame t) = .ok (f, obs) → f.state ≠ 2 → exec .tend s = .next (s.fault t ⟨0x08, 7, t.sreg 62, qn (hOff t.fsb)⟩)))
    ∧ ∀ (o : SItem) (w : SU) (s : State) (t : Team) (l : Launch), Runs s t → s.launch? t.launch = some l →
      (l.nlists ≤ (t.rs o.sa).toNat → (Instr.enq o).highReg t.regs = none →
        exec (.enq o) s = .next (s.fault t ⟨0x05, 3, t.rs o.sa, qn l.nlists⟩))
      ∧ (l.nlists ≤ (t.rs o.sa).toNat → (Instr.refill o).highReg t.regs = none →
        exec (.refill o) s = .next (s.fault t ⟨0x05, 3, t.rs o.sa, qn l.nlists⟩))
      ∧ (l.nlists ≤ (t.rs w.sa).toNat → exec (.waitq w) s = .next (s.fault t ⟨0x05, 3, t.rs w.sa, qn l.nlists⟩))

/-- R249 to R251: BARA enters an arrival, a release at the barrier's scope, and goes on; BARAW enters it and waits for the phase it will
be counted in. R252: TBINIT sets EXP, at most 1,048,575, and completes a phase whose arrivals already reach it; PH, ARR and the marks are
otherwise as before, and the other barriers too. -/
def Obligations.ArrivalsEnter : Prop :=
  ((∀ (o : SBar) (s : State) (t : Team) (k : BarKey), Runs s t → NamesBar s t o.bar k →
      ∃ s' t', exec (.bara o) s = .next s' ∧ Issued s s' t t'
        ∧ t' = { t with sq := t.sq ++ [arrivalEntry s t k (.uni o.sd.toNat)], pc := t.nextPc, clock := t.clock + 1 })
    ∧ (∀ (o : SBar) (s : State) (t : Team) (k : BarKey), Runs s t → NamesBar s t o.bar k →
      ∃ s' t', exec (.baraw o) s = .next s' ∧ Issued s s' t t'
        ∧ t' = { t with
            sq := t.sq ++ [arrivalEntry s t k .none]
            wait := some ⟨.bar k none o.sd true, s.curWord, s.thyme, s.thyme, 0⟩ })
    ∧ (∀ (o : STbarr) (s : State) (t : Team), Runs s t → NamesTb s t o.tb →
      ∃ s' t', exec (.tbarr o) s = .next s' ∧ Issued s s' t t'
        ∧ t' = { t with
            sq := t.sq ++ [arrivalEntry s t (.tb t.crewKey o.tb.toNat) (.uni o.sd.toNat)]
            pc := t.nextPc, clock := t.clock + 1 }))
    ∧ (∀ (o : STbinit) (s : State) (t : Team) (b : Barrier), Runs s t → NamesTb s t o.tb → s.barrier? (.tb t.crewKey o.tb.toNat) = some b →
    ∃ s' t' b', exec (.tbinit o) s = .next s' ∧ s' = { s with teams := s'.teams, crews := s'.crews } ∧ TeamAlone s s' t t'
      ∧ t' = { t with pc := t.nextPc, clock := t.clock + 1 } ∧ s'.barrier? (.tb t.crewKey o.tb.toNat) = some b'
      ∧ (∀ k, k ≠ .tb t.crewKey o.tb.toNat → s'.barrier? k = s.barrier? k)
      ∧ b'.exp = min (t.rs o.sa).toNat 1048575
      ∧ (if 0 < b'.exp ∧ b'.exp ≤ b.arr then b'.ph = (b.ph + 1) % 65536 ∧ b'.arr = 0
          else b'.ph = b.ph ∧ b'.arr = b.arr ∧ b'.marks = b.marks))

/-- R250 to R253: BARW and TBWAIT return PH once the phase that sa[15:0] names is complete, TBWAIT with bit 63 set for a phase that a
dropped copy marked; WAITT returns the idle tokens it names; each waits otherwise. R246: WAITV loads its word from the sources of R87; it
returns the word when it meets the condition and waits otherwise. A load that may not yet be satisfied, or whose core lacks the token for it,
makes it wait too; in a deterministic launch the test that fails is its turn's. A policy word that fails faults POLICY (R334), and an
address that fails a check faults as a load of it (R341). -/
def Obligations.WaitsBegin : Prop :=
  ((∀ (o : SBarw) (s : State) (t : Team) (k : BarKey) (b : Barrier), Runs s t → NamesBar s t o.bar k → s.barrier? k = some b →
      b.ph < 65536 →
      ReturnsOrWaits (.barw o) s t (PhaseComplete b ((t.rs o.sa).toNat % 65536)) o.sd (BitVec.ofNat 64 b.ph)
        (.bar k (some ((t.rs o.sa).toNat % 65536)) o.sd false))
    ∧ (∀ (o : STbwait) (s : State) (t : Team) (b : Barrier), Runs s t → NamesTb s t o.tb →
      s.barrier? (.tb t.crewKey o.tb.toNat) = some b → b.ph < 65536 →
      ReturnsOrWaits (.tbwait o) s t (PhaseComplete b ((t.rs o.sa).toNat % 65536)) o.sd
        (BitVec.ofNat 64 (b.ph + if (t.rs o.sa).toNat % 65536 ∈ b.marks then 2 ^ 63 else 0))
        (.tb (.tb t.crewKey o.tb.toNat) ((t.rs o.sa).toNat % 65536) o.sd))
    ∧ (∀ (o : SWaitt) (s : State) (t : Team), Runs s t →
      ∃ v : QWord,
        (∀ k, k < 8 → (v.getLsbD k = true ↔ o.mask.getLsbD k = true ∧ (t.token k).busy = 0))
        ∧ (∀ k, 8 ≤ k → k < 63 → v.getLsbD k = false)
        ∧ (v.getLsbD 63 = true ↔ ∃ k, k < 8 ∧ o.mask.getLsbD k = true ∧ (t.token k).busy = 0 ∧ (t.token k).failed = true)
        ∧ ReturnsOrWaits (.waitt o) s t
          (o.mask = 0 ∨ if o.any = true then (∃ k, k < 8 ∧ o.mask.getLsbD k = true ∧ (t.token k).busy = 0)
            else ∀ k, k < 8 → o.mask.getLsbD k = true → (t.token k).busy = 0)
          o.sd v (.tok o.mask o.any o.sd)))
    ∧ (∀ (o : SWaitv) (s : State) (t : Team) (a : LaneAcc), Runs s t →
      a = s.access t .global .load (t.rs o.sbase) 0 (if o.w32 then 4 else 8) (if o.w32 then 4 else 8) 2 0 →
      (∀ d, PolicyMeets .load (t.policy o.spol.toNat) d →
          exec (.waitv o) s = .next (s.fault t ⟨0x04, d, BitVec.ofNat 64 (t.policy o.spol.toNat), o.spol.setWidth 64⟩))
        ∧ (policyFault .load (t.policy o.spol.toNat) o.spol.toNat = none → ∀ f, a.err = some f →
          exec (.waitv o) s = .next (s.fault t f)))
    ∧ (∀ (o : SWaitv) (s : State) (t : Team) (p : Piece), Runs s t → policyFault .load (t.policy o.spol.toNat) o.spol.toNat = none →
    (s.access t .global .load (t.rs o.sbase) 0 (if o.w32 then 4 else 8) (if o.w32 then 4 else 8) 2 0).res = .ok [p] →
    ∃ s' t', exec (.waitv o) s = .next s' ∧ TeamAlone s s' t t'
      ∧ ((t.loadReady s.nextId s.nextId p.loc (if o.w32 then 4 else 8) = true ∧ s.mayRead t s.nextId p = true
            ∧ (if o.w32 then condW o.cond (BitVec.ofNat 32 (s.loadBytes t s.nextId p.loc 4).1) (lowW (t.rs o.sv))
                else condW o.cond (BitVec.ofNat 64 (s.loadBytes t s.nextId p.loc 8).1) (t.rs o.sv)) = true) →
          t' = { t with
              s := t'.s, observed := t'.observed, wait := none, pc := t.nextPc, clock := t.clock + 1
              runStart := if s'.inRun t' then some t.pc else none, runClock := t'.runClock }
          ∧ ∀ r, t'.sreg r = if r = o.sd.toNat ∧ r ≠ 0 then
              BitVec.ofNat 64 (s.loadBytes t s.nextId p.loc (if o.w32 then 4 else 8)).1 else t.sreg r)
      ∧ (¬ (t.loadReady s.nextId s.nextId p.loc (if o.w32 then 4 else 8) = true ∧ s.mayRead t s.nextId p = true
            ∧ (if o.w32 then condW o.cond (BitVec.ofNat 32 (s.loadBytes t s.nextId p.loc 4).1) (lowW (t.rs o.sv))
                else condW o.cond (BitVec.ofNat 64 (s.loadBytes t s.nextId p.loc 8).1) (t.rs o.sv)) = true) →
          t' = { t with
            observed := t'.observed, turn := t'.turn
            wait := some ⟨.memw (t.rs o.sbase) (t.rs o.sv) o.w32 o.cond (BitVec.ofNat 64 (t.policy o.spol.toNat)) o.sd, s.curWord, s.thyme,
              s.thyme, 0⟩ }
          ∧ (s.isDet t = false → t'.turn = t.turn)))

/-- R245, R248: IFENCE drops the core's copies of the instruction words that overlap its range of a code object, and no others, and the
team's later fetches of them are loads; with a length of 0 it drops nothing. An object of another kind faults KIND 4. REPL changes what
Fennel keeps of the granules, and no register and no byte; with never a COLLAPSE of each of their live replicas is on its way; it faults as a
load of its range would. -/
def Obligations.HintsAndCode : Prop :=
  (∀ (o : SIfence) (s : State) (t : Team) (d : Desc), Runs s t → s.desc (coreCluster t.core) (s.asidOf t) (t.rs o.sa) = .ok d →
      s.extFault (coreCluster t.core) (s.asidOf t) (t.rs o.sa) d = none → s.walkLost (coreCluster t.core) (s.asidOf t) (t.rs o.sa) d = none →
      d.kind = 3 →
      ∃ s' t', exec (.ifence o) s = .next s' ∧ s' = { s with teams := s'.teams, cores := s'.cores } ∧ TeamAlone s s' t t'
        ∧ t' = { t with fenced := t'.fenced, pc := t.nextPc, clock := t.clock + 1 }
        ∧ (∀ h, t'.loadsCode h = true ↔ t.loadsCode h = true ∨ (hObj h = hObj (t.rs o.sa)
            ∧ hOff (t.rs o.sa) < min (hOff (t.rs o.sa) + (t.rs o.sb).toNat) d.len
            ∧ hOff h < min (hOff (t.rs o.sa) + (t.rs o.sb).toNat) d.len ∧ hOff (t.rs o.sa) < hOff h + 4))
        ∧ (∀ c, c ≠ t.core → s'.core c = s.core c)
        ∧ ∀ e, e ∈ (s'.core t.core).icache ↔ e ∈ (s.core t.core).icache
            ∧ ¬ (hOff (t.rs o.sa) < min (hOff (t.rs o.sa) + (t.rs o.sb).toNat) d.len
              ∧ ∃ x ∈ offsetsOf e.1 (s.extents d) 0, x < min (hOff (t.rs o.sa) + (t.rs o.sb).toNat) d.len ∧ hOff (t.rs o.sa) < x + 4))
    ∧ (∀ (o : SIfence) (s : State) (t : Team), Runs s t →
      (∀ f, s.desc (coreCluster t.core) (s.asidOf t) (t.rs o.sa) = .error f → exec (.ifence o) s = .next (s.fault t f))
      ∧ ∀ d, s.desc (coreCluster t.core) (s.asidOf t) (t.rs o.sa) = .ok d →
        (∀ f, s.extFault (coreCluster t.core) (s.asidOf t) (t.rs o.sa) d = some f → exec (.ifence o) s = .next (s.fault t f))
        ∧ (s.extFault (coreCluster t.core) (s.asidOf t) (t.rs o.sa) d = none →
            (d.kind ≠ 3 → exec (.ifence o) s = .next (s.fault t ⟨0x41, 4, t.rs o.sa, BitVec.ofNat 64 d.kind⟩))
            ∧ ∀ f, d.kind = 3 → s.walkLost (coreCluster t.core) (s.asidOf t) (t.rs o.sa) d = some f →
              exec (.ifence o) s = .next (s.fault t f)))
    ∧ (∀ (o : SRepl) (s : State) (t : Team) (f : FInfo), Runs s t →
      s.checkGlobal (coreCluster t.core) (s.asidOf t) .load (t.rs o.sa) 0 (min (t.rs o.sb).toNat 1) 0 0 = .error f →
      exec (.repl o) s = .next (s.fault t f))
    ∧ (∀ (o : SRepl) (s : State) (t : Team) (d : Desc), Runs s t →
      s.checkGlobal (coreCluster t.core) (s.asidOf t) .load (t.rs o.sa) 0 (min (t.rs o.sb).toNat 1) 0 0 = .ok d →
      (∀ x, s.walkLost (coreCluster t.core) (s.asidOf t) (mkHandle (hObj (t.rs o.sa)) x) d = none) →
      (∀ i g, granOf (s.extents d) i = some g → s.ownsGran t.vf g = true) →
      (∀ i, i * 65536 < d.len → (granOf (s.extents d) i).isSome = true) →
      ∃ s' t', exec (.repl o) s = .next s' ∧ s' = { s with teams := s'.teams, grans := s'.grans, dirs := s'.dirs, msgs := s'.msgs }
        ∧ TeamAlone s s' t t' ∧ t' = { t with pc := t.nextPc, clock := t.clock + 1 }
        ∧ (d.repl ≠ 0 ∨ t.rs o.sb = 0 → s'.grans = s.grans ∧ s'.dirs = s.dirs ∧ s'.msgs = s.msgs)
        ∧ (o.mode ≠ .never → s'.dirs = s.dirs ∧ s'.msgs = s.msgs)
        ∧ (d.repl = 0 → t.rs o.sb ≠ 0 → ∀ i g, hOff (t.rs o.sa) / 65536 ≤ i →
            i * 65536 < min (hOff (t.rs o.sa) + (t.rs o.sb).toNat) d.len → granOf (s.extents d) i = some g →
            match o.mode with
            | .adaptive => (s'.gran g).rm = 0 ∧ (s'.gran g).wr = 0
            | .never => (s'.gran g).degree = 0 ∧ ∀ die line r, line < 2 ^ 40 → line / 512 = g → s.replica? die line = some r →
                die ∈ (s'.dir r.home line).col
            | .eager => (s'.gran g).degree = ((s.part? t.vf).map fun p => p.dies.length).getD 1 - 1))

/-- R253, R256 to R258: a CPY of the crew's producer team whose two ends pass joins the core's copy queue and makes its token busy; no
byte moves at issue. R256, R259, R260: a CPYT whose window registers pass joins the copy queue with its window. -/
def Obligations.CopiesEnter : Prop :=
  (∀ (o : SE) (s : State) (t : Team), Runs s t → policyFaultCopy (t.policy o.spol.toNat) o.spol.toNat = none → s.isProducer t = true →
    EndOk s t (fld (t.rs o.rc) 45 43) (t.rs o.rb) (fld (t.rs o.rc) 39 0) .copyRead →
    EndOk s t (fld (t.rs o.rc) 42 40) (t.rs o.ra) (fld (t.rs o.rc) 39 0) .copyWrite →
    fld (t.rs o.rc) 63 53 = 0 → (fld (t.rs o.rc) 52 52 = 1 → fld (t.rs o.rc) 51 46 < s.tbarsOf t) →
    CopyRun (.cpy o) s t o.ct.toNat ⟨fld (t.rs o.rc) 45 43, t.rs o.rb⟩ ⟨fld (t.rs o.rc) 42 40, t.rs o.ra⟩ (fld (t.rs o.rc) 39 0) none []
      (if fld (t.rs o.rc) 52 52 = 1 then some (fld (t.rs o.rc) 51 46) else none))
    ∧ (∀ (o : SE) (s : State) (t : Team) (d : Desc) (r0 r1 r2 r3 : QWord) (sp : Space), Runs s t →
    policyFaultCopy (t.policy o.spol.toNat) o.spol.toNat = none → s.isProducer t = true →
    r0 = t.sreg o.rc.toNat → r1 = t.sreg (o.rc.toNat + 1) → r2 = t.sreg (o.rc.toNat + 2) → r3 = t.sreg (o.rc.toNat + 3) →
    fld r0 63 48 = 0 → fld r1 63 48 = 0 → fld r3 63 15 = 0 → copySpace (fld r3 6 4) = some sp →
    (fld r3 14 14 = 1 → fld r3 13 8 < s.tbarsOf t) → (fld r3 3 0 < 12 ∨ fld r3 3 0 = 15) →
    s.desc (coreCluster t.core) (s.asidOf t) (t.rs o.rb) = .ok d → WindowOk s t d (t.rs o.rb) (windowOf r0 r1 r2 r3) →
    s.endFault t sp (t.rs o.ra) ((windowOf r0 r1 r2 r3).span d.tfmt) .copyWrite = none →
    CopyRun (.cpyt o) s t o.ct.toNat ⟨0, t.rs o.rb⟩ ⟨fld r3 6 4, t.rs o.ra⟩ 0 (some (windowOf r0 r1 r2 r3)) d
      (if fld r3 14 14 = 1 then some (fld r3 13 8) else none))

/-- R261, R262, Table 14.5: MSCL sets the team's matrix state from its three words. R253, R264, R265: an MLOOP reads A at its issue, from
its slice's operand latch for the steps it holds and from va and the registers after it for the others, and joins the matrix engine's
queue; with no steps it completes at once. A free latch is filled by reuse, and a held one let go by its team's first MLOOP without it.
R253, R266: MLD, MST and MZERO join the matrix engine's queue where every byte of their tile lies below CSPK and ra is aligned. -/
def Obligations.MatrixCommands : Prop :=
  (∀ (o : SMscl) (s : State) (t : Team), Runs s t → (kPerStep (fld (t.rs o.ra) 3 0) (fld (t.rs o.ra) 7 4)).isSome = true →
    fld (t.rs o.ra) 63 10 = 0 → scaleBad (t.rs o.rb) = false → scaleBad (t.rs o.rc) = false →
    ∃ s' t', exec (.mscl o) s = .next s' ∧ OneTeam s s' t t' ∧ t' = { t with mst := t'.mst, pc := t.nextPc, clock := t.clock + 1 }
      ∧ t'.mst.afmt = fld (t.rs o.ra) 3 0 ∧ t'.mst.bfmt = fld (t.rs o.ra) 7 4
      ∧ t'.mst.asc = (t.rs o.ra).getLsbD 8 ∧ t'.mst.bsc = (t.rs o.ra).getLsbD 9
      ∧ t'.mst.a.stride = fld (t.rs o.rb) 35 20 ∧ t'.mst.a.off = fld (t.rs o.rb) 19 0
      ∧ t'.mst.b.stride = fld (t.rs o.rc) 35 20 ∧ t'.mst.b.off = fld (t.rs o.rc) 19 0)
    ∧ (∀ (o : SX) (s : State) (t : Team) (mine : List (List Word)), Runs s t → (Instr.mloop o).highReg t.regs = none → s.mayMatrix t = true →
    256 ≤ t.lanes →
    mine = (match (s.slice t.slice).latch with | some l => if l.tk = t.tk then l.steps else [] | none => []) →
    (mine.length < fld (t.rs o.sb) 28 20 → o.va.toNat + (fld (t.rs o.sb) 28 20 - 1) / min 4 (t.lanes / 256) < t.regs) →
    mloopBad t.mst (t.rs o.sb) (s.cspkBytes t) = none →
    ∃ rows : List (List Word), rows.length = fld (t.rs o.sb) 28 20
      ∧ (∀ i L, i < rows.length → L < t.lanes → i < mine.length → (rows.getD i []).getD L 0 = (mine.getD i []).getD L 0)
      ∧ (∀ i L, i < rows.length → L < t.lanes → mine.length ≤ i →
          (rows.getD i []).getD L 0 = t.vreg (o.va.toNat + i / min 4 (t.lanes / 256)) L)
      ∧ ∃ s' t', exec (.mloop o) s = .next s' ∧ Commanded s s' t t'
        ∧ (s'.slice t.slice).latch =
            (if (s.slice t.slice).latch.map OpLatch.tk = some t.tk ∧ o.reuse = false then none
             else if (s.slice t.slice).latch = none ∧ o.reuse = true ∧ rows.length ≤ 64 then some ⟨t.tk, rows⟩
             else (s.slice t.slice).latch)
        ∧ (s'.core t.core).copies = (s.core t.core).copies
        ∧ (rows = [] → (s'.core t.core).mats = (s.core t.core).mats ∧ ∀ k, (t'.token k).busy = (t.token k).busy)
        ∧ (rows ≠ [] → TokenTaken t t' o.ct.toNat
            ∧ ∃ c, (s'.core t.core).mats = (s.core t.core).mats ++ [c]
              ∧ c = { c with
                  id := s.nextId, tk := t.tk, ct := o.ct.toNat, step := 0, fail := false, prio := t.prio
                  op := .mloop o.mt.toNat (fld (t.rs o.sb) 57 50) (fld (t.rs o.sb) 49 30) rows.length (fld (t.rs o.sb) 19 0) rows t.mst }))
    ∧ ((∀ (o : SMld) (s : State) (t : Team), Runs s t → s.mayMatrix t = true →
      (t.rs o.ra).toNat + 63 * (t.rs o.rb).toNat + 128 ≤ s.cspkBytes t → (t.rs o.ra).toNat % 4 = 0 →
      MatRun (.mld o) s t o.ct.toNat (.mld o.mt.toNat (t.rs o.ra) (t.rs o.rb)))
    ∧ (∀ (o : SMst) (s : State) (t : Team) (w : Nat), Runs s t → s.mayMatrix t = true →
      w = (match o.f with | .fp32 => 4 | .bf16 => 2 | .fp16 => 2 | .e4m3 => 1 | .e5m2 => 1) →
      (t.rs o.ra).toNat + 63 * (t.rs o.rb).toNat + 32 * w ≤ s.cspkBytes t → (t.rs o.ra).toNat % w = 0 →
      MatRun (.mst o) s t o.ct.toNat (.mst o.mt.toNat (t.rs o.ra) (t.rs o.rb) o.f t.rmode))
    ∧ (∀ (o : SMzero) (s : State) (t : Team), Runs s t → s.mayMatrix t = true → MatRun (.mzero o) s t o.ct.toNat (.mzero o.mt.toNat)))

/-- R251, R252, Table 22.2 SYNC: a barrier that the team may not name parks it: cb and fb with detail 1, lb with 2, tb with 3. R256, R262,
R264, Table 22.2 ENGINE: a copy from a team that is not its crew's producer, a matrix command of a forked or unbound team, an MSCL of a
pair not admitted, with a reserved bit or with an offset or stride of its scales that is no multiple of 64, and an MLOOP below 256 lanes, park the team with the cause ENGINE. R334: of a copy's policy word
REPL and bit 22 alone are checked. R257, R258, Table 22.2 COPY: a copy whose ends or control word fail parks the team with the lowest cause,
then detail, that they meet. R265, Table 22.2 ENGINE 5 and 6: so do an MLOOP that reads past the register count and one whose operands are
out of its crew's scratchpad. R266: a tile that passes CSPK is BOUNDS 6 and one out of alignment ALIGN 3. -/
def Obligations.UnitFaults : Prop :=
  (((∀ (o : SE) (s : State) (t : Team), Runs s t →
      ∀ d, (d = 3 ∧ t.policy o.spol.toNat / 2 ^ 23 % 4 = 3) ∨ (d = 4 ∧ t.policy o.spol.toNat / 2 ^ 23 % 4 ≠ 3 ∧ t.policy o.spol.toNat / 2 ^ 22 % 2 = 1) →
      ∀ c ∈ [Instr.cpy o, .cpyt o],
        exec c s = .next (s.fault t ⟨0x04, d, BitVec.ofNat 64 (t.policy o.spol.toNat), o.spol.setWidth 64⟩))
    ∧ (∀ (o : SE) (s : State) (t : Team) (f : FInfo) (side : Nat → QWord → Need → Option FInfo), Runs s t →
      policyFaultCopy (t.policy o.spol.toNat) o.spol.toNat = none → s.isProducer t = true →
      (∀ code reg need, 5 ≤ code → side code reg need = some ⟨0x47, 1, t.rs o.rc, BitVec.ofNat 64 code⟩) →
      (∀ code reg need sp, copySpace code = some sp → side code reg need = s.endFault t sp reg (fld (t.rs o.rc) 39 0) need) →
      LowestOf ([side (fld (t.rs o.rc) 45 43) (t.rs o.rb) .copyRead, side (fld (t.rs o.rc) 42 40) (t.rs o.ra) .copyWrite,
          (if fld (t.rs o.rc) 52 52 = 1 ∧ s.tbarsOf t ≤ fld (t.rs o.rc) 51 46 then
            some ⟨0x47, 2, t.rs o.rc, BitVec.ofNat 64 (fld (t.rs o.rc) 51 46)⟩ else none),
          (if fld (t.rs o.rc) 63 53 ≠ 0 then some ⟨0x47, 4, t.rs o.rc, 0⟩ else none)].filterMap id) f →
      exec (.cpy o) s = .next (s.fault t f))
    ∧ (∀ (s : State) (t : Team) (lim : Nat), s.mayMatrix t = true → lim = s.cspkBytes t → Runs s t →
      (∀ (o : SX) (d : QWord) (n m : Nat), d = t.rs o.sb → n = fld d 28 20 → m = min 4 (t.lanes / 256) → (Instr.mloop o).highReg t.regs = none →
        256 ≤ t.lanes → (s.slice t.slice).latch = none →
        (0 < n → t.regs ≤ o.va.toNat + (n - 1) / m → exec (.mloop o) s = .next (s.fault t ⟨0x0A, 5, 0, o.va.setWidth 64⟩))
        ∧ ((n = 0 ∨ o.va.toNat + (n - 1) / m < t.regs) → fld d 63 58 ≠ 0 ∨ fld d 29 29 ≠ 0 ∨ 256 < n ∨ fld d 19 0 % 16 ≠ 0 →
            exec (.mloop o) s = .next (s.fault t ⟨0x0A, 6, d, 0⟩))
        ∧ (o.va.toNat + (n - 1) / m < t.regs → fld d 63 58 = 0 → fld d 29 29 = 0 → n ≤ 256 → fld d 19 0 % 16 = 0 → t.mst.aScale = none →
            t.mst.bScale = none → ∀ i, i < n → lim < (fld d 19 0 + i * fld d 49 30) % 2 ^ 20 + 512 →
            (∀ j, j < i → (fld d 19 0 + j * fld d 49 30) % 2 ^ 20 + 512 ≤ lim) →
            exec (.mloop o) s = .next (s.fault t ⟨0x0A, 6, d, BitVec.ofNat 64 i⟩)))
      ∧ (∀ o : SMld, (lim < (t.rs o.ra).toNat + 63 * (t.rs o.rb).toNat + 128 →
            exec (.mld o) s = .next (s.fault t ⟨0x43, 6, t.rs o.ra, BitVec.ofNat 64 lim⟩))
          ∧ ((t.rs o.ra).toNat + 63 * (t.rs o.rb).toNat + 128 ≤ lim → (t.rs o.ra).toNat % 4 ≠ 0 →
            exec (.mld o) s = .next (s.fault t ⟨0x44, 3, t.rs o.ra, 4⟩)))
      ∧ ∀ (o : SMst) (w : Nat), w = (match o.f with | .fp32 => 4 | .bf16 => 2 | .fp16 => 2 | .e4m3 => 1 | .e5m2 => 1) →
          (lim < (t.rs o.ra).toNat + 63 * (t.rs o.rb).toNat + 32 * w →
            exec (.mst o) s = .next (s.fault t ⟨0x43, 6, t.rs o.ra, BitVec.ofNat 64 lim⟩))
          ∧ ((t.rs o.ra).toNat + 63 * (t.rs o.rb).toNat + 32 * w ≤ lim → (t.rs o.ra).toNat % w ≠ 0 →
            exec (.mst o) s = .next (s.fault t ⟨0x44, 3, t.rs o.ra, BitVec.ofNat 64 w⟩))))
    ∧ (∀ (b : Bar) (s : State) (t : Team), Runs s t → (¬ ∃ k, NamesBar s t b k) → (s.launch? t.launch).isSome = true →
      ∃ d n, (∀ sd, exec (.bara ⟨sd, b⟩) s = .next (s.fault t ⟨0x09, d, 0, n⟩))
        ∧ (∀ sd, exec (.baraw ⟨sd, b⟩) s = .next (s.fault t ⟨0x09, d, 0, n⟩))
        ∧ (∀ sd sa, exec (.barw ⟨sd, sa, b⟩) s = .next (s.fault t ⟨0x09, d, 0, n⟩))
        ∧ match b with
          | .cb i => d = 1 ∧ n.toNat = i.toNat
          | .fb i => d = 1 ∧ n.toNat = i.toNat
          | .lb i => d = 2 ∧ n.toNat = i.toNat)
    ∧ (∀ (n : BitVec 6) (s : State) (t : Team), Runs s t → ¬ NamesTb s t n →
      (∀ o : STbinit, o.tb = n → exec (.tbinit o) s = .next (s.fault t ⟨0x09, 3, 0, n.setWidth 64⟩))
        ∧ (∀ o : STbarr, o.tb = n → exec (.tbarr o) s = .next (s.fault t ⟨0x09, 3, 0, n.setWidth 64⟩))
        ∧ ∀ o : STbwait, o.tb = n → exec (.tbwait o) s = .next (s.fault t ⟨0x09, 3, 0, n.setWidth 64⟩)))
    ∧ ((∀ (o : SE) (s : State) (t : Team), Runs s t → policyFaultCopy (t.policy o.spol.toNat) o.spol.toNat = none → s.isProducer t = false →
      exec (.cpy o) s = .next (s.fault t ⟨0x0A, 1, 0, 0⟩) ∧ exec (.cpyt o) s = .next (s.fault t ⟨0x0A, 1, 0, 0⟩))
    ∧ (∀ (s : State) (t : Team), Runs s t → s.mayMatrix t = false →
      (∀ o, (Instr.mloop o).highReg t.regs = none → exec (.mloop o) s = .next (s.fault t ⟨0x0A, 2, 0, 0⟩))
        ∧ (∀ o, exec (.mld o) s = .next (s.fault t ⟨0x0A, 2, 0, 0⟩)) ∧ (∀ o, exec (.mst o) s = .next (s.fault t ⟨0x0A, 2, 0, 0⟩))
        ∧ ∀ o, exec (.mzero o) s = .next (s.fault t ⟨0x0A, 2, 0, 0⟩))
    ∧ (∀ (o : SMscl) (s : State) (t : Team), Runs s t →
      (kPerStep (fld (t.rs o.ra) 3 0) (fld (t.rs o.ra) 7 4) = none ∨ fld (t.rs o.ra) 63 10 ≠ 0
        ∨ ∃ q ∈ [t.rs o.rb, t.rs o.rc], fld q 63 36 ≠ 0 ∨ fld q 35 20 % 64 ≠ 0 ∨ fld q 19 0 % 64 ≠ 0) →
      exec (.mscl o) s = .next (s.fault t ⟨0x0A, 3, t.rs o.ra, 0⟩))
    ∧ (∀ (o : SX) (s : State) (t : Team), Runs s t → (Instr.mloop o).highReg t.regs = none → s.mayMatrix t = true → t.lanes < 256 →
      exec (.mloop o) s = .next (s.fault t ⟨0x0A, 4, 0, BitVec.ofNat 64 t.lanes⟩)))

/-- R319 to R321, R327: a fault of the current instruction leaves its team parked with the cause and detail at that instruction, at its
restart point, without its latches, its registers, predicates, mask, tokens, level and memory as before; in a partition with no fault queue it cancels the launch.
R323 to R327, Table 22.1: a fault makes its record due, behind those found before it; in a later cycle, with room in the fault queue, no
earlier record due, and the team's stores where a release asks, the 64-byte record is written at FQBASE + 64 × (FQTAIL mod FQSIZE), FQTAIL
advances, and the park is given its number. R325, Table 22.3: where PKBASE is not null the team's 256-byte entry is written first, behind those
there, with SEQ 0 where the queue is full, and takes the number of its record when that is written; when a team leaves, the last entry moves to
its place. R327: a record that cannot be written cancels the launch with STATUS 1. R321, R341: a running team with a fault
noted parks at its next boundary: an imprecise one at once, with the PC of the instruction about to issue; a precise one found late with
the PC of its instruction, once the other accesses of that instruction are back, as if it had not retired. That a fault found late is taken so
rests on log entry 7 (DEDUCED), and when a record's release holds on log entry 18 (DEDUCED). -/
def Obligations.ExceptionEntry : Prop :=
  ((∀ (s : State) (t : Team) (f : FInfo), Runs s t → Reports s t → Excepted s (s.fault t f) t f.cause f.detail t.pc)
    ∧ (∀ (s : State) (t : Team) (f : FInfo) (p : Part), Runs s t → s.part? t.vf = some p → p.fqsize = 0 ∨ p.fqbase = 0 →
      ((s.launch? t.launch).map Launch.cancel).getD false = false → s.fault t f = (s.putTeam t).cancelLaunch t.launch 1)
    ∧ (∀ (s : State) (t : Team) (f : FInfo), Runs s t → ((s.launch? t.launch).map Launch.cancel).getD false = true →
      ∃ u, (s.fault t f).team? t.tk = some u ∧ u.ended = true ∧ u.park = none))
    ∧ (∀ (s : State) (t : Team) (f : FInfo) (p : Part), Runs s t → Reports s t → s.part? t.vf = some p → t.replay = [] →
      (s.fault t f).part? t.vf = some (p.addDue (faultRecord s t f))
        ∧ ∃ u, (s.fault t f).team? t.tk = some u ∧ u.park.map ParkInfo.own = some s.nextId)
    ∧ (∀ (r : Record) (n : Nat), RecordIs (r.bytes n) r n)
    ∧ (∀ (s : State) (vf : Nat) (p : Part) (r : Record) (ps : List Piece), s.part? vf = some p → p.due = [r] →
    r.entered = false → r.cause ≠ 0 → p.failed = [] → p.pkbase = 0 → r.tk ∉ p.parked → (p.fqtail + 2 ^ 32 - p.fqhead) % 2 ^ 32 < p.fqsize →
    r.cycle < s.cycle → (∀ t, s.team? r.tk = some t → s.releaseOk t r.own .partition = true) →
    PutAt s p.fqasid vf (mkHandle (hObj p.fqbase) (hOff p.fqbase + 64 * (p.fqtail % p.fqsize))) 64 ps →
    (s.flushRecords vf).part? vf = some { p with fqtail := (p.fqtail + 1) % 2 ^ 32, due := [] }
      ∧ (s.flushRecords vf).mem = (s.storePieces none (r.bytes p.fqtail) ps).mem
      ∧ ∀ u, s.team? r.tk = some u → ∃ u', (s.flushRecords vf).team? r.tk = some u'
        ∧ u'.park.map ParkInfo.seq = u.park.map fun k => if k.own = r.own then (p.fqtail + 1) % 2 ^ 32 else k.seq)
    ∧ (∀ (s : State) (vf : Nat) (p : Part) (r : Record) (u : Team) (k : ParkInfo) (ps : List Piece), s.part? vf = some p → p.due = [r] →
    r.entered = false → p.failed = [] → p.pkbase ≠ 0 → s.team? r.tk = some u → u.park = some k → k.own = r.own → u.saved = none →
    r.tk ∉ p.parked → (r.cause = 0 ∨ p.fqsize ≤ (p.fqtail + 2 ^ 32 - p.fqhead) % 2 ^ 32) → r.cycle < s.cycle →
    s.releaseOk u r.own .partition = true →
    PutAt s p.pkasid vf (mkHandle (hObj p.pkbase) (hOff p.pkbase + 256 * p.parked.length)) 256 ps →
    (s.flushRecords vf).part? vf =
        some { p with parked := p.parked ++ [r.tk], due := if r.cause = 0 then [] else [{ r with entered := true }] }
      ∧ (s.flushRecords vf).teams = s.teams ∧ ∃ b, EntryIs b u k ∧ (s.flushRecords vf).mem = (s.storePieces none b ps).mem)
    ∧ (∀ (s : State) (vf i : Nat) (p : Part) (r : Record) (u : Team) (k : ParkInfo) (ps qs : List Piece), s.part? vf = some p → p.due = [r] →
    r.entered = true → p.failed = [] → s.team? r.tk = some u → u.park = some k → k.own = r.own →
    p.parked[i]? = some r.tk → (∀ j, j < i → p.parked[j]? ≠ some r.tk) → (p.fqtail + 2 ^ 32 - p.fqhead) % 2 ^ 32 < p.fqsize →
    PutAt s p.fqasid vf (mkHandle (hObj p.fqbase) (hOff p.fqbase + 64 * (p.fqtail % p.fqsize))) 64 ps →
    PutAt (s.storePieces none (r.bytes p.fqtail) ps) p.pkasid vf (mkHandle (hObj p.pkbase) (hOff p.pkbase + 256 * i)) 256 qs →
    (s.flushRecords vf).part? vf = some { p with fqtail := (p.fqtail + 1) % 2 ^ 32, due := [] }
      ∧ ∃ b, EntryIs b u { k with seq := (p.fqtail + 1) % 2 ^ 32 }
        ∧ (s.flushRecords vf).mem = ((s.storePieces none (r.bytes p.fqtail) ps).storePieces none b qs).mem)
    ∧ (∀ (s : State) (vf tk : Nat) (p : Part) (pre : List Nat), s.part? vf = some p → tk ∉ pre →
      (p.parked = pre ++ [tk] → (s.leaveList vf tk).part? vf = some { p with parked := pre } ∧ (s.leaveList vf tk).mem = s.mem)
      ∧ ∀ (mid : List Nat) (z : Nat) (u : Team) (k : ParkInfo) (qs : List Piece), p.parked = pre ++ tk :: (mid ++ [z]) → z ≠ tk →
        s.team? z = some u → u.park = some k →
        PutAt s p.pkasid vf (mkHandle (hObj p.pkbase) (hOff p.pkbase + 256 * pre.length)) 256 qs →
        (s.leaveList vf tk).part? vf = some { p with parked := pre ++ z :: mid }
          ∧ ∃ b, EntryIs b u k ∧ (s.leaveList vf tk).mem = (s.storePieces none b qs).mem)
    ∧ (∀ (s : State) (vf : Nat) (p : Part) (r : Record) (f : FInfo) (l : Launch), s.part? vf = some p → p.due = [r] → r.entered = true →
    p.failed = [] → p.parked = [] → (p.fqtail + 2 ^ 32 - p.fqhead) % 2 ^ 32 < p.fqsize →
    s.storeHandle p.fqasid vf (mkHandle (hObj p.fqbase) (hOff p.fqbase + 64 * (p.fqtail % p.fqsize))) (r.bytes p.fqtail) = .error f →
    s.launch? r.launch = some l → l.vf = vf → l.done = false → l.cancel = false →
    ∃ p' l', (s.flushRecords vf).part? vf = some p' ∧ p'.noFault = p.noFault + 1 ∧ p'.due = []
      ∧ (s.flushRecords vf).launch? r.launch = some l' ∧ l'.cancel = true ∧ l'.status = 1)
    ∧ ((∀ (s : State) (t : Team) (e : LateFault) (r : List LateFault), s.team? t.tk = some t → t.late = e :: r → t.running = true → Reports s t →
      e.prec = false → ∃ s', exec (.impreciseFault t.tk) s = .next s' ∧ Excepted s s' t e.cause e.detail t.pc)
    ∧ (∀ (s : State) (t : Team) (e : LateFault), s.team? t.tk = some t → t.late = [e] → t.running = true → Reports s t →
      e.prec = true → (∀ x ∈ t.tq, x.pc ≠ e.pc) → (∀ x ∈ t.sq, x.pc = e.pc → x.op.isAtomic = false) →
      ∃ s' u k, exec (.impreciseFault t.tk) s = .next s' ∧ s'.team? t.tk = some u ∧ u.park = some k ∧ k.cause = e.cause
        ∧ k.detail = e.detail ∧ k.pc = e.pc ∧ u.pc = e.rpc ∧ k.cont = (if t.runStart = some e.rpc then none else some (s.rpc t))
        ∧ k.umask = (if e.lanes = 1 then 0 else e.umask)
        ∧ u.v = t.v ∧ u.s = t.s ∧ u.p = t.p ∧ u.late = [] ∧ (s.isDet t = false → u.clock = t.clock - 1)
        ∧ (s.isDet t = true → s.inRun t = false → u.clock = t.clock - ((hOff e.pc - hOff e.rpc) / 4 + 1)))
    ∧ ∀ (s : State) (t : Team), s.team? t.tk = some t → (t.late = [] ∨ t.running = false) → exec (.impreciseFault t.tk) s = .next s)

/-- R19, Table 22.2 ILLEGAL 6: a lane instruction that names a vector register at or above the team's register count parks the team,
whichever instruction it is, and does nothing else. R268, R271 to R274, Table 22.2 PRIV: at user level ERET, TCTL, HALT, CANCEL, and SYSR
and SYSW of an id from 0x100, park the team with the cause PRIV and have no effect. R64, R68, R70, R71, R73, Tables 22.2 and 23.1: what an access
of a space meets, of each cause in its order: OBJECT 1 to 5, KIND 1 and 2, PERM 1 and 2, BOUNDS 1 to 5, ALIGN, NOTPRESENT 1 and DATA, with
its ADDR and AUX. That a lost unit is noticed at the issue of a load rests on log entry 7. -/
def Obligations.AccessFaults : Prop :=
  ((∀ (s : State) (t : Team) (need : Need) (base : QWord) (x size align adet lane cl asid : Nat) (h : QWord), cl = coreCluster t.core →
      asid = s.asidOf t → h = mkHandle (hObj base) (hOff base + x) →
      (∀ f, s.checkGlobal cl asid need base x size align adet = .error f → (s.access t .global need base x size align adet lane).err = some f)
      ∧ (hObj h = 0 → s.checkGlobal cl asid need base x size align adet = .error ⟨0x40, 1, h, 0⟩)
      ∧ (∀ n, hObj h ≠ 0 → n = ((Tbl.get? s.asids asid).map Asid.len).getD 0 → n ≤ hObj h →
          s.checkGlobal cl asid need base x size align adet = .error ⟨0x40, 2, h, BitVec.ofNat 64 n⟩)
      ∧ (∀ d : Desc, hObj h ≠ 0 → hObj h < ((Tbl.get? s.asids asid).map Asid.len).getD 0 → s.tlbHit cl asid h = none →
          d = (List.range 8).map (fun i => s.rdQ (s.descLoc asid (hObj h) + 8 * i)) →
          (d.valid = false → s.checkGlobal cl asid need base x size align adet = .error ⟨0x40, 3, h, d.q 0⟩)
          ∧ (d.valid = true → d.bad = true → s.checkGlobal cl asid need base x size align adet = .error ⟨0x40, 4, h, d.q 0⟩)
          ∧ (d.valid = true → d.bad = false → s.extBad d = true →
              s.checkGlobal cl asid need base x size align adet = .error ⟨0x40, 5, h, d.q 1⟩))
      ∧ ∀ d : Desc, s.desc cl asid h = .ok d → (s.tlbHit cl asid h).isSome = true ∨ s.extBad d = false →
          (need = .counter → d.kind ≠ 2 → s.checkGlobal cl asid need base x size align adet = .error ⟨0x41, 2, h, BitVec.ofNat 64 d.kind⟩)
          ∧ (d.kind = 2 → need ≠ .counter → s.checkGlobal cl asid need base x size align adet = .error ⟨0x41, 1, h, 2⟩)
          ∧ (d.kind = 4 → need = .load ∨ need = .store → s.checkGlobal cl asid need base x size align adet = .error ⟨0x41, 1, h, 4⟩)
          ∧ ((need = .counter ∧ d.kind = 2) ∨ (need ≠ .counter ∧ d.kind ≠ 2 ∧ (need = .load ∨ need = .store → d.kind ≠ 4)
                ∧ (need = .load ∨ need = .store ∨ d.kind ≠ 3)) →
              (need ≠ .store → need ≠ .copyWrite → (d.q 0).getLsbD 59 = false →
                s.checkGlobal cl asid need base x size align adet = .error ⟨0x42, 1, h, BitVec.ofNat 64 (fld (d.q 0) 59 57)⟩)
              ∧ ((need = .store ∨ need = .copyWrite ∨ (d.q 0).getLsbD 59 = true) → need ≠ .load → need ≠ .copyRead → (d.q 0).getLsbD 58 = false →
                s.checkGlobal cl asid need base x size align adet = .error ⟨0x42, 2, h, BitVec.ofNat 64 (fld (d.q 0) 59 57)⟩)
              ∧ ((need = .store ∨ need = .copyWrite ∨ (d.q 0).getLsbD 59 = true) →
                  (need = .load ∨ need = .copyRead ∨ (d.q 0).getLsbD 58 = true) →
                (2 ^ 40 ≤ hOff base + x → s.checkGlobal cl asid need base x size align adet = .error ⟨0x43, 2, h, 0⟩)
                ∧ (hOff base + x < 2 ^ 40 → d.len < hOff base + x + size →
                    s.checkGlobal cl asid need base x size align adet = .error ⟨0x43, 1, h, BitVec.ofNat 64 d.len⟩)
                ∧ (hOff base + x < 2 ^ 40 → hOff base + x + size ≤ d.len → align ≠ 0 → (hOff base + x) % align ≠ 0 →
                    s.checkGlobal cl asid need base x size align adet = .error ⟨0x44, adet, h, BitVec.ofNat 64 align⟩)
                ∧ (hOff base + x < 2 ^ 40 → hOff base + x + size ≤ d.len → (align = 0 ∨ (hOff base + x) % align = 0) →
                    s.checkGlobal cl asid need base x size align adet = .ok d)))
          ∧ (s.checkGlobal cl asid need base x size align adet = .ok d → d.kind ≠ 4 → 0 < size →
              (∀ st, s.tlbHit cl asid h = none → st = (granOf (s.extents d) (hOff h / 65536)).getD 0 → s.ownsGran t.vf st = false →
                (s.access t .global need base x size align adet lane).err = some ⟨0x45, 1, h, BitVec.ofNat 64 st⟩)
              ∧ (∀ ps, s.globalPieces cl asid t.vf d (hObj h) (hOff h) size = .ok ps → need ≠ .store → need ≠ .copyWrite →
                ((∃ p ∈ ps, s.readsLost t s.nextId p = true) → ∃ p ∈ ps, s.readsLost t s.nextId p = true
                  ∧ (s.access t .global need base x size align adet lane).err = some ⟨0x48, s.dataDetail p.loc, h, BitVec.ofNat 64 p.loc⟩)
                ∧ ((∀ p ∈ ps, s.readsLost t s.nextId p = false) → (s.access t .global need base x size align adet lane).err = none))))
    ∧ (∀ (s : State) (t : Team) (l : Launch) (sp : Space) (need : Need) (base : QWord) (x size align adet lane off : Nat),
      s.launch? t.launch = some l → off = (base.toNat + x) % sp.modulus →
      (∀ lim, (sp = .lane ∧ lim = 0xF000) ∨ (sp = .core ∧ lim = l.cspk * 1024) ∨ (sp = .die ∧ lim = l.dspkKiB * 1024) →
        (lim < off + size →
          (s.access t sp need base x size align adet lane).err = some ⟨0x43, 3, BitVec.ofNat 64 off, BitVec.ofNat 64 lim⟩)
        ∧ (off + size ≤ lim → sp ≠ .lane → t.forked = true →
          (s.access t sp need base x size align adet lane).err = some ⟨0x43, 5, BitVec.ofNat 64 off, 0⟩)
        ∧ (off + size ≤ lim → sp = .lane ∨ t.forked = false → align ≠ 0 → off % align ≠ 0 →
          (s.access t sp need base x size align adet lane).err = some ⟨0x44, adet, BitVec.ofNat 64 off, BitVec.ofNat 64 align⟩))
      ∧ (sp = .fleet →
        (l.ncrews ≤ off / 2 ^ 19 ∨ l.fwink * 1024 < off % 2 ^ 19 + size →
          (s.access t sp need base x size align adet lane).err = some ⟨0x43, 4, BitVec.ofNat 64 off, BitVec.ofNat 64 (l.fwink * 1024)⟩)
        ∧ (off / 2 ^ 19 < l.ncrews → off % 2 ^ 19 + size ≤ l.fwink * 1024 → t.forked = true →
          (s.access t sp need base x size align adet lane).err = some ⟨0x43, 5, BitVec.ofNat 64 off, 0⟩)
        ∧ (off / 2 ^ 19 < l.ncrews → off % 2 ^ 19 + size ≤ l.fwink * 1024 → t.forked = false → align ≠ 0 → off % align ≠ 0 →
          (s.access t sp need base x size align adet lane).err = some ⟨0x44, adet, BitVec.ofNat 64 off, BitVec.ofNat 64 align⟩))))
    ∧ (∀ (i : Instr) (s : State) (t : Team) (r : Nat), Runs s t → i.highReg t.regs = some r →
    exec i s = .next (s.fault t ⟨0x01, 6, 0, BitVec.ofNat 64 r⟩))
    ∧ (∀ (s : State) (t : Team), Runs s t → t.level = false →
    (∀ o : S1, exec (.eret o) s = .next (s.fault t ⟨0x02, 1, 0, 0⟩))
    ∧ (∀ o : SR, ∀ c ∈ [Instr.tctlState, .tctlPark, .tctlResume, .tctlKill, .tctlAbort, .tctlDbg],
        exec (c o) s = .next (s.fault t ⟨0x02, 2, 0, 0⟩))
    ∧ (∀ o : SU, ∀ c ∈ [Instr.haltStop, .haltGo], exec (c o) s = .next (s.fault t ⟨0x02, 3, 0, 0⟩))
    ∧ (∀ o : SU, ∀ c ∈ [Instr.cancelLaunch, .cancelPhase, .cancelJob], exec (c o) s = .next (s.fault t ⟨0x02, 4, 0, 0⟩))
    ∧ (∀ o : SSysr, 0x100 ≤ o.id.toNat → exec (.sysr o) s = .next (s.fault t ⟨0x02, 5, 0, o.id.setWidth 64⟩))
    ∧ (∀ o : SSysw, 0x100 ≤ o.id.toNat → exec (.sysw o) s = .next (s.fault t ⟨0x02, 6, 0, o.id.setWidth 64⟩)))

/-- R269, R335, Table 14.8, Table 9.1: SYSR sets sd to the register, for every listed id, at a level that may read it. R269, R323, R335,
R336: SYSW writes the RW fields of its register and nothing else, and a new FQHEAD lets the records that wait for room be written; an id that
is not listed faults SYSREG 1, a register with no RW field 2, a FQSIZE, CAP or CEIL out of its range 3, and a FQBASE, FQSIZE or FQHEAD that
breaks R323 and a PKBASE while teams stand in its list 4, the lowest of them, and nothing of the register changes. -/
def Obligations.SystemRegisters : Prop :=
  (∀ (o : SSysr) (s : State) (t : Team) (l : Launch) (p : Part), Runs s t → s.launch? t.launch = some l → s.part? t.vf = some p →
    (t.level = true ∨ o.id.toNat < 0x100) →
    ∀ e ∈ [(0x000, t.teamid), (0x001, t.lanes), (0x002, t.crewid), (0x003, l.nteamsCrew), (0x004, t.fleetid), (0x005, l.lid),
        (0x006, t.lgx), (0x007, t.lgy), (0x008, t.lgz), (0x009, l.phase),
        (0x00A, if l.det then t.clock else s.cycle - p.clockBase), (0x00B, s.thyme), (0x00C, t.rmode),
        (0x00D, if l.det then l.hbi else s.hbi), (0x00E, t.fsb.toNat), (0x00F, t.fsl.toNat), (0x010, t.prio), (0x011, s.latent t),
        (0x012, p.lease), (0x013, if l.det then 1 else 0), (0x100, p.fqbase.toNat), (0x101, p.fqsize), (0x102, p.fqhead),
        (0x103, p.fqtail), (0x104, p.pkbase.toNat), (0x105, p.parked.length), (0x108, p.mask.toNat), (0x10A, t.tid),
        (0x10B, if t.level then 1 else 0), (0x110, p.tvec.toNat), (0x111, t.epc.toNat), (0x112, t.ecode.toNat),
        (0x120, (s.core t.core).pacost.toNat),
        (0x121, (s.core t.core).guard * 2 ^ 32 + (s.core t.core).cap * 2 ^ 16 + s.refillOf t.core),
        (0x122, ((s.core t.core).allow % 2 ^ 24).toNat),
        (0x123, ((List.range 6).map fun i => s.eff t.core i * 2 ^ (24 + 4 * i)).sum + (s.core t.core).ceil.toNat)],
      o.id.toNat = e.1 → ∃ s' t', exec (.sysr o) s = .next s' ∧ OneTeam s s' t t'
        ∧ t' = { t with s := t'.s, pc := t.nextPc, clock := t.clock + 1 }
        ∧ ∀ r, t'.sreg r = if r = o.sd.toNat ∧ r ≠ 0 then BitVec.ofNat 64 e.2 else t.sreg r)
    ∧ (∀ (o : SSysr) (s : State) (t : Team), Runs s t → (t.level = true ∨ o.id.toNat < 0x100) → 0x13 < o.id.toNat →
      o.id.toNat ∉ [0x100, 0x101, 0x102, 0x103, 0x104, 0x105, 0x108, 0x10A, 0x10B, 0x110, 0x111, 0x112, 0x120, 0x121, 0x122, 0x123] →
      exec (.sysr o) s = .next (s.fault t ⟨0x06, 1, 0, o.id.setWidth 64⟩))
    ∧ ((∀ (o : SSysw) (s : State) (t : Team) (p : Part) (v : QWord), Runs s t → s.part? t.vf = some p → t.level = true → v = t.rs o.sa →
      o.id.toNat ∈ [0x100, 0x101, 0x102, 0x104, 0x110, 0x111, 0x112, 0x120, 0x121, 0x123] → (∀ d, ¬ SysBad p o.id.toNat v d) →
      ∃ s' t' p' c', exec (.sysw o) s = .next (if o.id.toNat = 0x102 then s'.flushRecords t.vf else s')
        ∧ s' = { s with teams := s'.teams, parts := s'.parts, cores := s'.cores }
        ∧ TeamAlone s s' t t' ∧ s'.part? t.vf = some p' ∧ s'.core t.core = c'
        ∧ t' = { t with
            epc := if o.id.toNat = 0x111 then v else t.epc
            ecode := if o.id.toNat = 0x112 then v else t.ecode
            pc := t.nextPc, clock := t.clock + 1 }
        ∧ p' = { p with
            fqbase := if o.id.toNat = 0x100 then v else p.fqbase
            fqasid := if o.id.toNat = 0x100 then s.asidOf t else p.fqasid
            fqsize := if o.id.toNat = 0x101 then v.toNat else p.fqsize
            fqhead := if o.id.toNat = 0x102 then v.toNat else p.fqhead
            pkbase := if o.id.toNat = 0x104 then v else p.pkbase
            pkasid := if o.id.toNat = 0x104 then s.asidOf t else p.pkasid
            tvec := if o.id.toNat = 0x110 then v else p.tvec }
        ∧ c' = { s.core t.core with
            pacost := if o.id.toNat = 0x120 then v else (s.core t.core).pacost
            guard := if o.id.toNat = 0x121 then fld v 47 32 else (s.core t.core).guard
            cap := if o.id.toNat = 0x121 then fld v 31 16 else (s.core t.core).cap
            ceil := if o.id.toNat = 0x123 then v.setWidth 24 else (s.core t.core).ceil }
        ∧ (∀ k, k ≠ t.vf → s'.part? k = s.part? k) ∧ ∀ k, k ≠ t.core → s'.core k = s.core k)
    ∧ (∀ (o : SSysw) (s : State) (t : Team) (p : Part), Runs s t → s.part? t.vf = some p → (t.level = true ∨ o.id.toNat < 0x100) →
      (0x13 < o.id.toNat →
        o.id.toNat ∉ [0x100, 0x101, 0x102, 0x103, 0x104, 0x105, 0x108, 0x10A, 0x10B, 0x110, 0x111, 0x112, 0x120, 0x121, 0x122, 0x123] →
        exec (.sysw o) s = .next (s.fault t ⟨0x06, 1, t.rs o.sa, o.id.setWidth 64⟩))
      ∧ (o.id.toNat ≤ 0x13 ∨ o.id.toNat ∈ [0x103, 0x105, 0x108, 0x10A, 0x10B, 0x122] →
        exec (.sysw o) s = .next (s.fault t ⟨0x06, 2, t.rs o.sa, o.id.setWidth 64⟩))
      ∧ (o.id.toNat ∈ [0x100, 0x101, 0x102, 0x104, 0x110, 0x111, 0x112, 0x120, 0x121, 0x123] →
        (SysBad p o.id.toNat (t.rs o.sa) 3 → exec (.sysw o) s = .next (s.fault t ⟨0x06, 3, t.rs o.sa, o.id.setWidth 64⟩))
        ∧ (¬ SysBad p o.id.toNat (t.rs o.sa) 3 → SysBad p o.id.toNat (t.rs o.sa) 4 →
          exec (.sysw o) s = .next (s.fault t ⟨0x06, 4, t.rs o.sa, o.id.setWidth 64⟩)))))

/-- R270: RMSET and PRIO set sd to the old value and then the new one; an RMODE of 5 to 7 and a user priority above the packet's fault.
R271, R331: TRAP from 0x800 is a call to TVEC at supervisor level; below it retires and parks its team with cause TRAP, recorded at the
next instruction; BRKPT parks while breakpoints are enabled and otherwise only goes on; ERET returns to user level at sa. -/
def Obligations.ModesAndTraps : Prop :=
  ((∀ (o : SRm) (s : State) (t : Team) (v : Nat), Runs s t → v = (if o.reg then (t.rs o.sa).toNat % 16 else o.value.toNat) →
      if v % 8 < 5 then
        ∃ s' t', exec (.rmset o) s = .next s' ∧ OneTeam s s' t t'
          ∧ t' = { t with s := t'.s, rmode := v, pc := t.nextPc, clock := t.clock + 1 }
          ∧ ∀ r, t'.sreg r = if r = o.sd.toNat ∧ r ≠ 0 then BitVec.ofNat 64 t.rmode else t.sreg r
      else exec (.rmset o) s = .next (s.fault t ⟨0x05, 1, 0, BitVec.ofNat 64 v⟩))
    ∧ (∀ (o : SPr) (s : State) (t : Team) (v : Nat) (l : Launch), Runs s t → s.launch? t.launch = some l →
      v = (if o.reg then (t.rs o.sa).toNat % 8 else o.value.toNat) →
      if t.level = true ∨ v ≤ l.prio then
        ∃ s' t', exec (.prio o) s = .next s' ∧ OneTeam s s' t t'
          ∧ t' = { t with s := t'.s, prio := v, pc := t.nextPc, clock := t.clock + 1 }
          ∧ ∀ r, t'.sreg r = if r = o.sd.toNat ∧ r ≠ 0 then BitVec.ofNat 64 t.prio else t.sreg r
      else exec (.prio o) s = .next (s.fault t ⟨0x05, 2, 0, BitVec.ofNat 64 v⟩)))
    ∧ ((∀ (o : SCode) (s : State) (t : Team) (p : Part), Runs s t → s.part? t.vf = some p → 0x800 ≤ o.code.toNat →
      ∃ s' t', exec (.trap o) s = .next s' ∧ OneTeam s s' t t'
        ∧ t' = { t with epc := t.nextPc, ecode := o.code.setWidth 64, level := true, pc := p.tvec, clock := t.clock + 1 })
    ∧ (∀ (o : SCode) (s : State) (t : Team), Runs s t → Reports s t → o.code.toNat < 0x800 →
      ∃ s' u, exec (.trap o) s = .next s' ∧ u = { t with pc := t.nextPc, clock := t.clock + 1 } ∧ Excepted s s' u 0x0B 0 t.nextPc)
    ∧ (∀ (o : SCode) (s : State) (t : Team), Runs s t → t.dbg = true → t.brkSkip = false →
      exec (.brkpt o) s = .next (s.fault t ⟨0x0C, 0, 0, o.code.setWidth 64⟩))
    ∧ (∀ (o : SCode) (s : State) (t : Team), Runs s t → t.dbg = false ∨ t.brkSkip = true →
      ∃ s' t', exec (.brkpt o) s = .next s' ∧ OneTeam s s' t t' ∧ t' = { t with brkSkip := false, pc := t.nextPc, clock := t.clock + 1 })
    ∧ (∀ (o : S1) (s : State) (t : Team), Runs s t → t.level = true →
      if hOff (t.rs o.sa) % 4 = 0 then
        ∃ s' t', exec (.eret o) s = .next s' ∧ OneTeam s s' t t' ∧ t' = { t with level := false, pc := t.rs o.sa, clock := t.clock + 1 }
      else exec (.eret o) s = .next (s.fault t ⟨0x05, 4, t.rs o.sa, 0⟩)))

/-- R272, R329: at supervisor level every TCTL sets sd to the named team's state; .state does nothing more, .kill ends the team, .resume
returns a parked one, .dbg sets its breakpoints, .park parks a running one at its boundary, which in a deterministic launch is not within a
latch run, .abort cancels its launch. -/
def Obligations.TeamControl : Prop :=
  ∀ (o : SR) (s : State) (t : Team) (code : Nat) (key : Nat), Runs s t → t.level = true → s.Keyed →
    key = teamKey t.vf (fld (t.rs o.sa) 23 0) → StateIs s t.vf (fld (t.rs o.sa) 23 0) code →
    (∃ s', exec (.tctlState o) s = .next s' ∧ SetsTeam s' t o.sd (BitVec.ofNat 64 code) id
      ∧ (∀ k, k ≠ t.tk → s'.team? k = s.team? k) ∧ ∀ a, Memory.get s'.mem a = Memory.get s.mem a)
    ∧ (∀ u, s.team? key = some u → key ≠ t.tk → code < 4 → Unlisted s u →
      ∃ s' u', exec (.tctlKill o) s = .next s' ∧ SetsTeam s' t o.sd (BitVec.ofNat 64 code) id ∧ s'.team? key = some u' ∧ u'.ended = true
        ∧ (∀ k, k ≠ t.tk → k ≠ key → s'.team? k = s.team? k) ∧ ∀ a, Memory.get s'.mem a = Memory.get s.mem a)
    ∧ (∀ u k, s.team? key = some u → key ≠ t.tk → code = 2 → u.park = some k → k.cause ≠ 0x82 → Unlisted s u →
      ∃ s' u', exec (.tctlResume o) s = .next s' ∧ SetsTeam s' t o.sd 2 id ∧ s'.team? key = some u' ∧ u'.park = none
        ∧ u'.pc = u.pc ∧ (u'.brkSkip = true ↔ u.brkSkip = true ∨ k.cause = 0x0C)
        ∧ (∀ w, w = u.wait.map (fun w => { w with since := s.thyme, spent := if k.cause = 0x80 then 0 else w.spent }) →
            if k.umask = 0 ∧ k.cont = none then u'.wait = w ∧ u'.replay = u.replay
            else u'.wait = none ∧ u'.replay = ⟨k.pc, if k.umask = 0 then none else some k.umask, k.cont, w⟩ :: u.replay)
        ∧ (∀ j, j ≠ t.tk → j ≠ key → s'.team? j = s.team? j) ∧ ∀ a, Memory.get s'.mem a = Memory.get s.mem a)
    ∧ (∀ u, s.team? key = some u → key ≠ t.tk → code < 4 →
      ∃ s' u', exec (.tctlDbg o) s = .next s' ∧ SetsTeam s' t o.sd (BitVec.ofNat 64 code) id ∧ s'.team? key = some u'
        ∧ u' = { u with dbg := (t.rs o.sb).getLsbD 0 } ∧ (∀ j, j ≠ t.tk → j ≠ key → s'.team? j = s.team? j)
        ∧ ∀ a, Memory.get s'.mem a = Memory.get s.mem a)
    ∧ (∀ u, s.team? key = some u → key ≠ t.tk → code < 2 →
      ∃ s' u', exec (.tctlPark o) s = .next s' ∧ SetsTeam s' t o.sd (BitVec.ofNat 64 code) id ∧ s'.team? key = some u'
        ∧ (if s.isDet u = true ∧ s.inRun u = true then u' = { u with parkReq := true }
            else u'.parkReq = false ∧ u'.pc = s.rpc u ∧ u'.v = u.v ∧ u'.s = u.s ∧ u'.p = u.p
              ∧ ∃ k, u'.park = some k ∧ k.cause = 0 ∧ k.fromWait = u.wait.isSome)
        ∧ (∀ j, j ≠ t.tk → j ≠ key → s'.team? j = s.team? j) ∧ ∀ a, Memory.get s'.mem a = Memory.get s.mem a)
    ∧ (∀ u l, s.team? key = some u → u.launch ≠ t.launch → s.launch? u.launch = some l → l.done = false → l.cancel = false → code < 4 →
      ∃ s' u' l', exec (.tctlAbort o) s = .next s' ∧ s'.team? key = some u' ∧ u'.ended = true
        ∧ s'.launch? u.launch = some l' ∧ l'.cancel = true ∧ l'.status = 1)
    ∧ (code = 4 → ∀ c ∈ [Instr.tctlPark, .tctlResume, .tctlKill, .tctlAbort, .tctlDbg], ∃ s', exec (c o) s = .next s'
        ∧ SetsTeam s' t o.sd 4 id ∧ ∀ k, k ≠ t.tk → s'.team? k = s.team? k)

/-- R273: HALT sets sd to 1 when the queue ran and 0 when it was stopped, and stops it or lets it go; for a queue the partition does not
have sd is all ones and nothing changes. R42, R274: CANCEL sets sd to 1 for a unit that exists and has not completed, and cancels every
launch of it that is not done, whose teams end; a team that names its own launch retires the CANCEL first; for any other unit sd is 0 and
nothing changes. A launch whose packet stands unread in a queue of the partition exists too (R32): its cancel is kept for the packet. That
rests on log entry 31 (DEDUCED). -/
def Obligations.QueuesAndUnits : Prop :=
  ((∀ (o : SU) (s : State) (t : Team) (p : Part) (q : Queue), Runs s t → t.level = true → s.part? t.vf = some p →
      Tbl.get? p.queues (t.rs o.sa).toNat = some q →
      ∀ c ∈ [(Instr.haltStop, true), (Instr.haltGo, false)], ∃ s' t' p' q', exec (c.1 o) s = .next s'
        ∧ s' = { s with teams := s'.teams, parts := s'.parts } ∧ TeamAlone s s' t t' ∧ SetsTeam s' t o.sd (if q.stopped then 0 else 1) id
        ∧ s'.part? t.vf = some p' ∧ p' = { p with queues := p'.queues } ∧ Tbl.get? p'.queues (t.rs o.sa).toNat = some q'
        ∧ q' = { q with stopped := c.2 } ∧ ∀ k, k ≠ (t.rs o.sa).toNat → Tbl.get? p'.queues k = Tbl.get? p.queues k)
    ∧ (∀ (o : SU) (s : State) (t : Team), Runs s t → t.level = true → s.queue? t.vf (t.rs o.sa).toNat = none →
      ∀ c ∈ [Instr.haltStop, .haltGo], ∃ s' t', exec (c o) s = .next s' ∧ OneTeam s s' t t' ∧ SetsTeam s' t o.sd (BitVec.allOnes 64) id))
    ∧ (∀ (o : SU) (s : State) (t : Team) (a : QWord), Runs s t → t.level = true → s.Keyed → a = t.rs o.sa →
    ∀ c ∈ [((Instr.cancelLaunch, fun l => l.lid = fld a 23 0,
          fun _ => ∃ pkt ∈ s.queued t.vf, fld (pkt.getD 6 0) 47 24 = fld a 23 0) : (SU → Instr) × (Launch → Prop) × (Part → Prop)),
        (Instr.cancelPhase, fun l => l.job = fld a 31 16 ∧ l.phase = fld a 15 0,
          fun p => ∃ x ∈ p.phases, x.job = fld a 31 16 ∧ x.phase = fld a 15 0 ∧ x.done = false),
        (Instr.cancelJob, fun l => l.job = fld a 15 0, fun p => ∃ x ∈ p.phases, x.job = fld a 15 0)],
      ((∃ e ∈ s.launches, e.2.vf = t.vf ∧ e.2.done = false ∧ c.2.1 e.2) ∨ (∃ p, s.part? t.vf = some p ∧ c.2.2 p) →
        ∃ s', exec (c.1 o) s = .next s'
          ∧ ((∀ e ∈ s.launches, e.1 = t.launch → ¬ c.2.1 e.2) → SetsTeam s' t o.sd 1 id)
          ∧ (c.1 o = .cancelLaunch o → (∃ p, s.part? t.vf = some p ∧ c.2.2 p) →
              ∃ p', s'.part? t.vf = some p' ∧ fld a 23 0 ∈ p'.cancelled)
          ∧ (∀ uid l, s.launch? uid = some l → l.vf = t.vf → l.done = false → c.2.1 l →
              (∃ l', s'.launch? uid = some l' ∧ l'.cancel = true)
              ∧ (l.cancel = false → ∀ k u, s.team? k = some u → u.launch = uid →
                  ∃ u', s'.team? k = some u' ∧ u'.ended = true ∧ (k = t.tk → o.sd ≠ 0 → u'.sreg o.sd.toNat = 1 ∧ u'.clock = t.clock + 1))))
      ∧ (¬ (∃ e ∈ s.launches, e.2.vf = t.vf ∧ e.2.done = false ∧ c.2.1 e.2) → ¬ (∃ p, s.part? t.vf = some p ∧ c.2.2 p) →
        ∃ s' t', exec (c.1 o) s = .next s' ∧ OneTeam s s' t t' ∧ SetsTeam s' t o.sd 0 id))

/-- R86, R87, R91, R105: a load's piece is satisfied only when no older acquire, fence, overlapping load or overlapping atomic of its team
remains, its core holds the token for it where it needs one, and its bank is free; it takes its bytes from the sources of R87, its team
observes the stores it shows, and the last piece delivers the value. R342: one that would take a lost byte leaves its queue, and DATA is noted
for its lane (log entry 7, DEDUCED). R87:
one byte that a load returns comes from the newest older store of its team's queue, else the newest store of its core's view, else its
die's live replica outside the lease horizon, else its home. -/
def Obligations.LoadsSatisfied : Prop :=
  ((∀ (s : State) (t : Team) (e : TqEntry) (ps : List Piece) (acc : QWord) (p : Piece) (k : Nat) (g : Bool), s.team? t.tk = some t →
      t.tq.find? (fun x => x.id == e.id) = some e → e.op = .load ps acc → ps[k]? = some p → MaySatisfy t e.id e.base p.loc p.len →
      (e.lane = true ∨ s.mayRead t e.id p = true) → s.bankFree e.base e.dest.pass p.loc p.len = true → s.readsLost t e.id p = false →
      ∃ s' t', exec (.satisfyLoad t.tk e.id k g) s = .next s' ∧ TeamAlone s s' t t' ∧ QueuesOnly t t' ∧ t'.sq = t.sq ∧ t'.wait = t.wait
        ∧ (∀ i, i ∈ t'.observed ↔ i ∈ t.observed ∨ i ∈ (s.loadBytes t e.id p.loc p.len).2.1)
        ∧ (ps.length = 1 → t'.tq = (t.tq.map (s.reached t e p)).filter (fun x => x.id != e.id)
            ∧ Delivered t t' e.dest ((acc.toNat + (s.loadBytes t e.id p.loc p.len).1 * 2 ^ (8 * p.off)) % 2 ^ 64))
        ∧ (1 < ps.length → Delivered t t' .none 0 ∧ t'.tq = (t.tq.map (s.reached t e p)).map fun x => if x.id = e.id then
            { x with op := .load (ps.eraseIdx k) (BitVec.ofNat 64 (acc.toNat + (s.loadBytes t e.id p.loc p.len).1 * 2 ^ (8 * p.off))) }
            else x))
    ∧ (∀ (s : State) (t : Team) (e : TqEntry) (ps : List Piece) (acc : QWord) (p : Piece) (k : Nat) (g : Bool), s.team? t.tk = some t →
      t.tq.find? (fun x => x.id == e.id) = some e → e.op = .load ps acc → ps[k]? = some p →
      (¬ MaySatisfy t e.id e.base p.loc p.len ∨ (e.lane = false ∧ s.mayRead t e.id p = false)
        ∨ s.bankFree e.base e.dest.pass p.loc p.len = false) →
      exec (.satisfyLoad t.tk e.id k g) s = .next s)
    ∧ (∀ (s : State) (t : Team) (e : TqEntry) (ps : List Piece) (acc : QWord) (p : Piece) (k : Nat) (g : Bool), s.team? t.tk = some t →
      t.tq.find? (fun x => x.id == e.id) = some e → e.op = .load ps acc → ps[k]? = some p → MaySatisfy t e.id e.base p.loc p.len →
      (e.lane = true ∨ s.mayRead t e.id p = true) → s.bankFree e.base e.dest.pass p.loc p.len = true → s.readsLost t e.id p = true →
      ∃ s' t' f, exec (.satisfyLoad t.tk e.id k g) s = .next s' ∧ OneTeam s s' t t'
        ∧ t' = { t with tq := t.tq.filter fun x => x.id != e.id, late := t.late ++ [f] }
        ∧ f.cause = 0x48 ∧ f.detail = s.dataDetail p.loc ∧ f.addr = e.addr ∧ f.aux = BitVec.ofNat 64 p.loc ∧ f.prec = true ∧ f.pc = e.pc
        ∧ (∀ r L n tag m, e.dest = .vec r L n tag m → f.umask = BitVec.ofNat 1024 (2 ^ L))))
    ∧ (∀ (s : State) (t : Team) (id a : Nat),
    (∀ (l r : List SqEntry) (e : SqEntry) (v : QWord), t.sq = l ++ e :: r → e.op = .store v → e.id < id → e.loc ≤ a → a < e.loc + e.len →
      (∀ x ∈ r, x.id < id → x.op.isStore = true → ¬ (x.loc ≤ a ∧ a < x.loc + x.len)) →
      ((s.loadByte t id a).1).toNat = v.toNat / 2 ^ (8 * (a - e.loc)) % 256 ∧ (s.loadByte t id a).2.1 = [])
    ∧ ((∀ x ∈ t.sq, x.id < id → x.op.isStore = true → ¬ (x.loc ≤ a ∧ a < x.loc + x.len)) →
      (∀ (l r : List CvEntry) (e : CvEntry), s.cv t.core = l ++ e :: r → e.loc ≤ a → a < e.loc + e.len →
        (∀ x ∈ r, ¬ (x.loc ≤ a ∧ a < x.loc + x.len)) →
        ((s.loadByte t id a).1).toNat = e.v.toNat / 2 ^ (8 * (a - e.loc)) % 256
          ∧ (s.loadByte t id a).2.1 = if e.tk = t.tk then [] else [e.id])
      ∧ ((∀ x ∈ s.cv t.core, ¬ (x.loc ≤ a ∧ a < x.loc + x.len)) →
        (∀ r, a < 2 ^ 42 → t.horizon ≤ s.thyme → s.replica? t.die (a / 128) = some r → (s.loadByte t id a).1 = r.bytes.getD (a % 128) 0)
        ∧ (2 ^ 42 ≤ a ∨ s.thyme < t.horizon ∨ s.replica? t.die (a / 128) = none → (s.loadByte t id a).1 = Memory.get s.mem a))))

/-- R85, R90 to R92: a store leaves its queue only when no older acquire, fence or overlapping access of its team remains and its release
holds; it joins its core's view with no byte of memory changed, or, in a scratchpad, writes its bank, which serves it in that cycle. R85,
R88, R90, R105, R115: the oldest overlapping store of a core's view, once its core has the tokens, is performed at its home: memory takes
its bytes and nothing else, live replicas of its own die and of the home die take them too, COLLAPSE goes to every other die that RVEC
names (but one whose last collapse its lease has ended, R283), and it is Complete at once unless another die holds a live replica granted
before or a CACK is to come. A store with an older
overlapping one in the view, or without the tokens, is not performed. -/
def Obligations.StoresPerformed : Prop :=
  ((∀ (s : State) (t : Team) (e : SqEntry) (v : QWord), s.team? t.tk = some t → t.sq.find? (fun x => x.id == e.id) = some e →
      e.op = .store v → isBank e.loc = false → MayLeave s t e →
      ∃ s' t' c, exec (.leaveStoreQueue t.tk e.id) s = .next s' ∧ s' = { s with teams := s'.teams, cvs := s'.cvs } ∧ TeamAlone s s' t t'
        ∧ t' = { t with sq := t.sq.filter fun x => x.id != e.id } ∧ s'.cv t.core = s.cv t.core ++ [c]
        ∧ c.id = e.id ∧ c.tk = t.tk ∧ c.loc = e.loc ∧ c.len = e.len ∧ c.home = e.home ∧ c.v = v
        ∧ ∀ k, k ≠ t.core → s'.cv k = s.cv k)
    ∧ (∀ (s : State) (t : Team) (e : SqEntry) (v : QWord), s.team? t.tk = some t → t.sq.find? (fun x => x.id == e.id) = some e →
      e.op = .store v → isBank e.loc = true → s.lost = [] → s.writeFrozen e.loc = false →
      s.bankFree e.base e.dest.pass e.loc e.len = true → MayLeave s t e → s.Canonical →
      ∃ s' t', exec (.leaveStoreQueue t.tk e.id) s = .next s' ∧ s' = { s with teams := s'.teams, mem := s'.mem, cores := s'.cores }
        ∧ s'.cores = (s.serveBank e.base e.dest.pass e.loc e.len).cores
        ∧ s'.team? t.tk = some t' ∧ t' = { t with sq := t.sq.filter fun x => x.id != e.id }
        ∧ (∀ k, k ≠ t.tk → s'.team? k = s.team? k) ∧ Wrote s s' e.loc e.len v.toNat)
    ∧ (∀ (s : State) (t : Team) (e : SqEntry), s.team? t.tk = some t → t.sq.find? (fun x => x.id == e.id) = some e →
      e.op.isStore = true → s.lost = [] → ¬ MayLeave s t e → exec (.leaveStoreQueue t.tk e.id) s = .next s))
    ∧ ((∀ (s : State) (core : Nat) (l r : List CvEntry) (e : CvEntry), s.cv core = l ++ e :: r → (∀ x ∈ l, x.id ≠ e.id) →
      (∀ x ∈ l, overlap x.loc x.len e.loc e.len = false) → s.writeFrozen e.loc = false → s.lost = [] → s.Canonical → e.loc < 2 ^ 42 →
      s.mayWrite core e.home e.loc e.len = true → (∀ p ∈ s.partials, p.id ≠ e.id) → e.loc % 8 + e.len ≤ 8 →
      ∃ s', exec (.perform core e.id) s = .next s' ∧ Wrote s s' e.loc e.len e.v.toNat ∧ s'.teams = s.teams
        ∧ s'.cv core = (l ++ e :: r).filter (fun x => x.id != e.id) ∧ (∀ k, k ≠ core → s'.cv k = s.cv k)
        ∧ s'.coh = s.coh + 1
        ∧ (∀ x, x < 8 → (s.dir (l2Die e.home) (e.loc / 128)).rvec.getLsbD x = true → x ≠ coreDie core → x ≠ l2Die e.home →
            (x ∈ (s.dir (l2Die e.home) (e.loc / 128)).col → s.thyme < (s.dir (l2Die e.home) (e.loc / 128)).lapse
              ∨ (Tbl.get? s.replicas (replicaKey x (e.loc / 128))).isSome = true) →
            x ∈ (s'.dir (l2Die e.home) (e.loc / 128)).col)
        ∧ ((∃ p ∈ s'.partials, p.id = e.id) ↔ s.foreignReplica (e.loc / 128) (coreDie core) (l2Die e.home) s.coh = true
            ∨ ∃ x ∈ (s'.dir (l2Die e.home) (e.loc / 128)).col, x ≠ coreDie core)
        ∧ (∀ d q, Tbl.get? s.replicas (replicaKey d (e.loc / 128)) = some q → q.bytes.length = 128 → d < 8 →
            ∃ q', Tbl.get? s'.replicas (replicaKey d (e.loc / 128)) = some q'
              ∧ q'.exp = q.exp
              ∧ (d ≠ coreDie core → d ≠ l2Die e.home → q' = q)
              ∧ (d = coreDie core ∨ d = l2Die e.home → ∀ i, i < e.len →
                  (q'.bytes.getD (e.loc % 128 + i) 0).toNat = e.v.toNat / 2 ^ (8 * i) % 256)))
    ∧ (∀ (s : State) (core : Nat) (l r : List CvEntry) (e x : CvEntry), s.cv core = l ++ e :: r → (∀ y ∈ l, y.id ≠ e.id) → x ∈ l →
      overlap x.loc x.len e.loc e.len = true → exec (.perform core e.id) s = .next s)
    ∧ (∀ (s : State) (core : Nat) (e : CvEntry), (s.cv core).find? (fun x => x.id == e.id) = some e → e.lane = false →
      s.mayWrite core e.home e.loc e.len = false → exec (.perform core e.id) s = .next s))

/-- R95, R239 to R241: an atomic at its home reads the value there, writes the new one, and returns the old one to the register it named;
a compare that fails writes nothing, nor does a CASG whose new value is the old one. It waits for older overlapping stores of its team's
core, for its bank, and until no other core of the home die holds a token of its line (log entry 6, DEDUCED); one on a lost unit leaves its
queue, and DATA is noted for its lane (R342; log entry 7, DEDUCED). R144, R249 to R252, R314: an arrival
reaches its barrier, which counts it and completes the phase when EXP is reached, and BARA takes the phase; a TRIG marks its team; an
atomic on a remote object goes to its module and waits for the answer. That ARR wraps at 2^20 is log entry 67 (DESIGN CHOICE). -/
def Obligations.AtomicsPerformed : Prop :=
  ((∀ (s : State) (t : Team) (e : SqEntry) (old : Nat) (new : Option Nat), s.team? t.tk = some t →
      t.sq.find? (fun x => x.id == e.id) = some e → MayLeave s t e → s.cvClear t.core e.loc e.len = true → s.writeFrozen e.loc = false →
      s.bankFree e.base e.dest.pass e.loc e.len = true → s.mayAtomic t.core e.home e.loc = true → s.lost = [] → s.Canonical →
      e.space ≠ .remote → (e.len = 4 ∨ e.len = 8) → old = leNat (Memory.read s.mem e.loc e.len) →
      (match e.op with
        | .rmw o v => new = some (if e.len = 8 then (atomOp o (BitVec.ofNat 64 old) v).toNat
            else (atomOp o (BitVec.ofNat 32 old) (v.setWidth 32)).toNat)
        | .swap v => new = some (v.toNat % 2 ^ (8 * e.len))
        | .cas x v => new = if old = x.toNat % 2 ^ (8 * e.len) ∧ v.toNat % 2 ^ (8 * e.len) ≠ old then some (v.toNat % 2 ^ (8 * e.len))
            else none
        | .scas x v => new = if old = x.toNat % 2 ^ (8 * e.len) then some (v.toNat % 2 ^ (8 * e.len)) else none
        | .fadd .f32 v m => new = some (fp32.addC m old v.toNat)
        | .fadd .h2 v m => new = some (faddPair fp16 m (BitVec.ofNat 32 old) v).toNat
        | .fadd .b2 v m => new = some (faddPair bf16 m (BitVec.ofNat 32 old) v).toNat
        | _ => False) →
      ∃ s' t', exec (.atomicPerform t.tk e.id) s = .next s' ∧ s'.team? t.tk = some t' ∧ (∀ k, k ≠ t.tk → s'.team? k = s.team? k)
        ∧ QueuesOnly t t' ∧ t'.tq = t.tq ∧ t'.sq = t.sq.filter (fun x => x.id != e.id) ∧ t'.wait = t.wait
        ∧ Delivered t t' (if e.returns = true then e.dest else .none) old
        ∧ (match new with | some n => Wrote s s' e.loc e.len n | none => SameBytes s s'))
    ∧ (∀ (s : State) (t : Team) (e : SqEntry) (v : QWord) (o : AOp), s.team? t.tk = some t →
      t.sq.find? (fun x => x.id == e.id) = some e → e.op = .rmw o v → e.space ≠ .remote →
      (¬ MayLeave s t e ∨ s.cvClear t.core e.loc e.len = false ∨ s.writeFrozen e.loc = true
        ∨ s.bankFree e.base e.dest.pass e.loc e.len = false ∨ s.mayAtomic t.core e.home e.loc = false) →
      exec (.atomicPerform t.tk e.id) s = .next s)
    ∧ (∀ (s : State) (t : Team) (e : SqEntry) (v : QWord) (o : AOp), s.team? t.tk = some t →
      t.sq.find? (fun x => x.id == e.id) = some e → e.op = .rmw o v → e.space ≠ .remote → MayLeave s t e →
      s.cvClear t.core e.loc e.len = true → s.writeFrozen e.loc = false → s.bankFree e.base e.dest.pass e.loc e.len = true →
      s.mayAtomic t.core e.home e.loc = true → s.lostIn e.loc e.len ≠ [] →
      ∃ s' t' f, exec (.atomicPerform t.tk e.id) s = .next s' ∧ OneTeam s s' t t'
        ∧ t' = { t with sq := t.sq.filter fun x => x.id != e.id, late := t.late ++ [f] }
        ∧ f.cause = 0x48 ∧ f.detail = s.dataDetail e.loc ∧ f.addr = e.addr ∧ f.aux = BitVec.ofNat 64 e.loc ∧ f.prec = true ∧ f.pc = e.pc
        ∧ (∀ r L n tag m, e.dest = .vec r L n tag m → f.umask = BitVec.ofNat 1024 (2 ^ L))))
    ∧ ((∀ (s : State) (t : Team) (e : SqEntry) (k : BarKey) (b : Barrier), s.team? t.tk = some t →
      t.sq.find? (fun x => x.id == e.id) = some e → e.op = .arrive k → MayLeave s t e → s.barrier? k = some b →
      ∃ s' t' b', exec (.atomicPerform t.tk e.id) s = .next s' ∧ TeamAlone s s' t t' ∧ QueuesOnly t t'
        ∧ t'.sq = t.sq.filter (fun x => x.id != e.id) ∧ t'.tq = t.tq ∧ Delivered t t' e.dest b.ph ∧ s'.barrier? k = some b'
        ∧ b'.exp = b.exp
        ∧ (if 0 < b.exp ∧ b.exp ≤ (b.arr + 1) % 2 ^ 20 then b'.ph = (b.ph + 1) % 65536 ∧ b'.arr = 0
            else b'.ph = b.ph ∧ b'.arr = (b.arr + 1) % 2 ^ 20)
        ∧ (∀ w sd own, t.wait = some w → w.on = .bar k none sd own → t'.wait = some { w with on := .bar k (some b.ph) sd own }))
    ∧ (∀ (s : State) (t : Team) (e : SqEntry), s.team? t.tk = some t → t.sq.find? (fun x => x.id == e.id) = some e → e.op = .trig →
      MayLeave s t e →
      ∃ s' t', exec (.atomicPerform t.tk e.id) s = .next s' ∧ TeamAlone s s' t t'
        ∧ t' = { t with sq := t.sq.filter (fun x => x.id != e.id), trig := true })
    ∧ (∀ (s : State) (t : Team) (e : SqEntry) (o : AOp) (v : QWord), s.team? t.tk = some t →
      t.sq.find? (fun x => x.id == e.id) = some e → e.op = .rmw o v → e.space = .remote → MayLeave s t e → s.remoteWaits t.tk e.id = false →
      ∃ s' r, exec (.atomicPerform t.tk e.id) s = .next s' ∧ s' = { s with remotes := s'.remotes, out := s'.out, nextId := s'.nextId }
        ∧ r = ⟨s.modNum, s.nextId, remAsid e.loc, remObj e.loc, remOff e.loc, .rmw o e.len v⟩
        ∧ s'.remotes = s.remotes ++ [⟨s.nextId, remMod e.loc, r, .atom t.tk e, s.thyme⟩]
        ∧ s'.out = s.out ++ [.remote (remMod e.loc) r]))

/-- R94: a fence completes when every older load of its team is satisfied, every older returning atomic performed, and every older store
of its team, and every one it has observed, is at the level its scope asks, and at system scope every older copy to a remote object is over;
until then it stays in the team queue. R74, R88, R114: a
replica that goes of itself is removed and its die's bit at the home cleared, and an expiry does so with one whose lease has run out; a TLB
walk puts a granule's translation and descriptor into the
cluster's TLB, when the partition owns the granule. None changes a byte, a register or another replica. -/
def Obligations.FencesAndReplicas : Prop :=
  (∀ (s : State) (t : Team) (e : TqEntry) (sc : Scope), s.team? t.tk = some t → t.tq.find? (fun x => x.id == e.id) = some e →
    e.op = .fence sc →
    (s.releaseOk t e.id sc = true → ∃ s' t', exec (.fenceComplete t.tk e.id) s = .next s' ∧ OneTeam s s' t t'
        ∧ t' = { t with tq := t.tq.filter fun x => x.id != e.id })
    ∧ (∀ x ∈ t.tq, x.id < e.id → exec (.fenceComplete t.tk e.id) s = .next s)
    ∧ (∀ x ∈ t.sq, x.id < e.id → x.op.isStore = true → sc ≠ .team → x.space ≠ .lane → exec (.fenceComplete t.tk e.id) s = .next s)
    ∧ (∀ x ∈ t.sq, x.id < e.id → x.op.isAtomic = true → x.returns = true ∨ x.op.isCtr = true → exec (.fenceComplete t.tk e.id) s = .next s)
    ∧ (∀ k, ∀ x ∈ s.cv k, x.lane = false → (x.tk = t.tk ∧ x.id < e.id ∨ x.id ∈ t.observed) →
        sc = .fleet ∨ sc = .die ∨ sc = .partition ∨ sc = .system → exec (.fenceComplete t.tk e.id) s = .next s)
    ∧ (∀ p ∈ s.partials, s.foreignReplica p.line p.own p.home p.coh = true ∨ (p.await ≠ [] ∧ s.thyme < p.lapse) →
        (p.tk = t.tk ∧ p.id < e.id ∨ p.id ∈ t.observed) →
        sc = .partition ∨ sc = .system → exec (.fenceComplete t.tk e.id) s = .next s)
    ∧ (∀ r ∈ s.remotes, ∀ x, r.who = .atom t.tk x → x.id < e.id → sc = .system → exec (.fenceComplete t.tk e.id) s = .next s)
    ∧ (∀ c, ∀ x ∈ (s.core c).copies, x.tk = t.tk → x.id < e.id → x.away = true → sc = .system → exec (.fenceComplete t.tk e.id) s = .next s))
    ∧ ((∀ (s : State) (die line : Nat), ∃ s', exec (.replicaCollapse die line) s = .next s'
      ∧ s' = { s with replicas := s'.replicas, partials := s'.partials, dirs := s'.dirs, msgs := s'.msgs }
      ∧ Tbl.get? s'.replicas (replicaKey die line) = none
      ∧ (∀ r, Tbl.get? s.replicas (replicaKey die line) = some r → die < 8 → (s'.dir r.home line).rvec.getLsbD die = false)
      ∧ ∀ k, k ≠ replicaKey die line → Tbl.get? s'.replicas k = Tbl.get? s.replicas k)
    ∧ (∀ (s : State) (die line : Nat) (r : Replica), Tbl.get? s.replicas (replicaKey die line) = some r →
      (r.exp ≤ s.thyme → ∃ s', exec (.leaseExpiry die line) s = .next s'
        ∧ s' = { s with replicas := s'.replicas, partials := s'.partials, dirs := s'.dirs, msgs := s'.msgs }
        ∧ Tbl.get? s'.replicas (replicaKey die line) = none
        ∧ ∀ k, k ≠ replicaKey die line → Tbl.get? s'.replicas k = Tbl.get? s.replicas k)
      ∧ (s.thyme < r.exp → exec (.leaseExpiry die line) s = .next s))
    ∧ (∀ (s : State) (cl asid obj g st : Nat) (a : Asid) (d : Desc), Tbl.get? s.asids asid = some a → 0 < obj → obj < a.len → obj < 2 ^ 24 → g < 2 ^ 24 →
      (∀ e ∈ s.tlb, ¬ (e.cluster = cl ∧ e.asid = asid ∧ e.obj = obj ∧ e.gran = g)) → (s.tlb.filter fun e => e.cluster == cl).length < 8192 →
      s.lost = [] →
      d = (List.range 8).map (fun i => s.rdQ (a.base + 64 * obj + 8 * i)) → d.valid = true → d.bad = false → d.kind ≠ 4 →
      s.extBad d = false → granOf (s.extents d) g = some st →
      exec (.tlbWalk cl asid obj g) s =
        .next (if s.ownsGran a.vf st then { s with tlb := s.tlb ++ [⟨cl, asid, obj, g, st, d⟩] } else s)))

/-- R105 to R113, R115 and the chapter's opening sentence: the messages of the token protocol change no byte of memory, no team and no
queue, but for the recall of a privatised copy; only directory entries, messages in flight and the replica of a collapsed line. R105: a
line's 64 tokens on a die are at its home, at cores and in flight before and after every message. That a request is sent by one step of its
name and served by the next of that name is log entry 6 (DESIGN CHOICE). R108 to R111, Table 7.2: a core's
request is sent and then served: a GETS of a free line gets one token, a GETX of a line no other core holds gets all of the home's, and on
the line's own die sends COLLAPSE to the dies that RVEC names; a request that meets an open transaction gets a NACK, after two of which it
queues as persistent; DATA gives its tokens to the core; DOWN leaves the owner one; RECALL and EVICT take all; what carries the line carries
its bytes (Table 7.2). R113: the recall of a privatised copy performs the stores of its mask, where every store of the view to the line lies in
it. R115: a COLLAPSE whose die has no core to recall drops the die's replica and answers, where the home still waits for it; the CACK clears
the die's bit at the home, where the die holds no new replica. R283, R349: when the latest lease that the collapses of a line found has run
out, they are over without their CACKs. -/
def Obligations.TokenProtocol : Prop :=
  (∀ (s : State) (core line : Nat) (w : Bool),
    ∀ i ∈ [Instr.gets core line, .getx core line, .data core line, .down core line, .recall core line, .tack core line, .evict core line,
        .nack core line, .pers core line w, .collapse core line, .cack core line],
      (i = .recall core line → ∀ die, (s.dir die line).mode ≠ 3) →
      ∃ s', exec i s = .next s' ∧ s' = { s with dirs := s'.dirs, msgs := s'.msgs, replicas := s'.replicas, partials := s'.partials }
        ∧ ∀ k r, Tbl.get? s'.replicas k = some r → Tbl.get? s.replicas k = some r)
    ∧ (∀ (s : State) (core line : Nat) (w : Bool), s.LineOk line → s.Tokens64 line →
      ∀ i ∈ [Instr.gets core line, .getx core line, .data core line, .down core line, .recall core line, .tack core line, .evict core line,
        .nack core line, .pers core line w, .collapse core line, .cack core line], ∃ s', exec i s = .next s' ∧ s'.Tokens64 line)
    ∧ ((∀ (s : State) (core line : Nat), s.asking core line = false → (s.lineHome core line).isSome = true →
      (Tbl.getD (s.dir (coreDie core) line).nacks core 0 < 2 →
        exec (.gets core line) s = .next { s with msgs := s.msgs ++ [.gets (coreDie core) core line] }
        ∧ exec (.getx core line) s = .next { s with msgs := s.msgs ++ [.getx (coreDie core) core line] })
      ∧ (2 ≤ Tbl.getD (s.dir (coreDie core) line).nacks core 0 → ∀ w,
        exec (.pers core line w) s = .next { s with msgs := s.msgs ++ [.pers (coreDie core) core line w s.thyme] }))
    ∧ (∀ (s : State) (core line vf home : Nat) (d : Dir) (r : List Msg), Arrives s (.gets (coreDie core) core line) r core line vf home →
      d = s.dir (coreDie core) line → d.opened = none → d.mode ≠ 3 → 0 < d.htok → ∃ s', exec (.gets core line) s = .next s'
        ∧ s'.msgs = r ++ [.data (coreDie core) core line 1 (s.lineBytes (coreDie core) line)] ∧ (s'.dir (coreDie core) line).htok = d.htok - 1
        ∧ (d.mode = 0 → d.ptrs = [] → (s'.dir (coreDie core) line).mode = 1 ∧ (s'.dir (coreDie core) line).ptrs = [core % 48]))
    ∧ (∀ (s : State) (core line vf home : Nat) (d : Dir) (r : List Msg), Arrives s (.getx (coreDie core) core line) r core line vf home →
      d = s.dir (coreDie core) line → d.opened = none → coreDie core = l2Die home → core < 384 → d.rvec = 0 → d.col = [] →
      d.mode = 0 → d.htok = 64 → d.held core = 0 → s.coming core line = 0 → d.getx = [] → ∃ s', exec (.getx core line) s = .next s'
        ∧ s'.msgs = r ++ [.data (coreDie core) core line 64 (s.lineBytes (coreDie core) line)] ∧ (s'.dir (coreDie core) line).htok = 0
        ∧ (s'.dir (coreDie core) line).owner = some core ∧ (s'.dir (coreDie core) line).ptrs = [core % 48])
    ∧ (∀ (s : State) (core line vf home : Nat) (d : Dir) (r : List Msg), Arrives s (.getx (coreDie core) core line) r core line vf home →
      d = s.dir (coreDie core) line → d.opened = none → coreDie core = l2Die home →
      ∃ s', exec (.getx core line) s = .next s'
        ∧ ∀ x, x < 8 → x ≠ coreDie core → d.rvec.getLsbD x = true →
          (x ∈ d.col → s.thyme < d.lapse ∨ (Tbl.get? s.replicas (replicaKey x line)).isSome = true) → x ∈ (s'.dir (coreDie core) line).col)
    ∧ (∀ (s : State) (core line : Nat) (d : Dir) (r : List Msg), d = s.dir (coreDie core) line → d.opened.isSome = true →
      ∀ i ∈ [(Instr.gets core line, Msg.gets (coreDie core) core line), (.getx core line, .getx (coreDie core) core line)],
        s.msgs = i.2 :: r → ∃ s', exec i.1 s = .next s' ∧ s'.msgs = r ++ [.nack (coreDie core) core line]
        ∧ Tbl.getD (s'.dir (coreDie core) line).nacks core 0 = Tbl.getD d.nacks core 0 + 1)
    ∧ (∀ (s : State) (core line since : Nat) (w b : Bool) (d : Dir) (r : List Msg), d = s.dir (coreDie core) line → d.opened.isSome = true →
      s.msgs = .pers (coreDie core) core line w since :: r → ∃ s', exec (.pers core line b) s = .next s' ∧ s'.msgs = r
        ∧ (s'.dir (coreDie core) line).pers = d.pers ++ [(core, w, since)])
    ∧ (∀ (s : State) (die core line n : Nat) (b : List Byte) (r : List Msg), s.msgs = .data die core line n b :: r → ∃ s', exec (.data core line) s = .next s'
        ∧ s'.msgs = r ∧ (s'.dir die line).held core = (s.dir die line).held core + n)
    ∧ (∀ (s : State) (die core line : Nat) (r : List Msg), s.msgs = .down die core line :: r → s.coming core line = 0 →
      ∃ s', exec (.down core line) s = .next s' ∧ (s'.dir die line).held core = min ((s.dir die line).held core) 1
        ∧ s'.msgs = r ++ [.tack die core line ((s.dir die line).held core - 1)
            (if 0 < (s.dir die line).held core then some (s.lineBytes die line) else none)])
    ∧ (∀ (s : State) (die core line since : Nat) (r : List Msg), s.msgs = .recall die core line since :: r → s.coming core line = 0 →
      (s.dir die line).mode ≠ 3 → ∃ s', exec (.recall core line) s = .next s' ∧ (s'.dir die line).held core = 0
        ∧ s'.msgs = r ++ [.tack die core line ((s.dir die line).held core)
            (if (s.dir die line).owner = some core then some (s.lineBytes die line) else none)])
    ∧ (∀ (s : State) (core line since : Nat) (r : List Msg), s.msgs = .recall (coreDie core) core line since :: r → s.coming core line = 0 →
      (s.dir (coreDie core) line).mode = 3 → s.moves = [] → s.lost = [] → (∀ x ∈ s.cv core, x.loc % 8 + x.len ≤ 8) →
      (∀ x ∈ s.cv core, x.loc / 128 = line → (s.dir (coreDie core) line).covers core x.loc x.len = true) →
      ∃ s', exec (.recall core line) s = .next s'
        ∧ (s'.dir (coreDie core) line).held core = 0 ∧ s'.teams = s.teams
        ∧ (∃ m b, s'.msgs = m ++ [.tack (coreDie core) core line ((s.dir (coreDie core) line).held core) (some b)])
        ∧ ∀ e ∈ s.cv core, e.loc / 128 = line → ∀ x ∈ s'.cv core, x.id ≠ e.id)
    ∧ (∀ (s : State) (die core line n : Nat) (b : Option (List Byte)) (c : Nat) (w : Bool) (k : Nat) (r : List Msg), s.msgs = .tack die core line n b :: r →
      (s.dir die line).opened = some (c, w, k + 2) → ∃ s', exec (.tack core line) s = .next s' ∧ s'.msgs = r
        ∧ (s'.dir die line).htok = (s.dir die line).htok + n ∧ (s'.dir die line).opened = some (c, w, k + 1))
    ∧ (∀ (s : State) (core line : Nat) (d : Dir), d = s.dir (coreDie core) line → 0 < d.held core →
      (∀ m ∈ s.msgs, ∀ n b, m ≠ .evict (coreDie core) core line n b) →
      ∃ s', exec (.evict core line) s = .next s' ∧ (s'.dir (coreDie core) line).held core = 0
        ∧ s'.msgs = s.msgs ++ [.evict (coreDie core) core line (d.held core)
            (if d.owner = some core then some (s.lineBytes (coreDie core) line) else none)])
    ∧ (∀ (s : State) (core line n : Nat) (b : Option (List Byte)) (d : Dir) (r : List Msg), d = s.dir (coreDie core) line → d.opened = none → d.pers = [] →
      s.msgs = .evict (coreDie core) core line n b :: r → ∃ s', exec (.evict core line) s = .next s' ∧ s'.msgs = r
        ∧ (s'.dir (coreDie core) line).htok = d.htok + n ∧ (s'.dir (coreDie core) line).owner = if b.isSome = true then none else d.owner)
    ∧ (∀ (s : State) (die core line : Nat) (r : List Msg), s.msgs = .nack die core line :: r →
      exec (.nack core line) s = .next { s with msgs := r }))
    ∧ ((∀ (s : State) (die line : Nat) (r : List Msg), s.msgs = .collapse die line :: r → (s.dir die line).opened = none →
      (s.dir die line).mode = 0 → (s.dir die line).htok = 64 → (s.dir die line).pers = [] → ∃ s', exec (.collapse die line) s = .next s'
        ∧ s'.msgs = (r.filter fun m => !m.within die line) ++ (if s.collapsing die line = true then [.cack die line] else []) ∧ Tbl.get? s'.replicas (replicaKey die line) = none)
    ∧ (∀ (s : State) (die line : Nat), (s.dir die line).opened.isSome = true → exec (.collapse die line) s = .next s)
    ∧ (∀ (s : State) (die home line : Nat) (r : List Msg), s.msgs = .cack die line :: r → die < 8 → line < 2 ^ 40 →
      die ∈ (s.dir home line).col → ∃ s', exec (.cack die line) s = .next s' ∧ s'.msgs = r
        ∧ (s'.dir home line).rvec.getLsbD die
            = ((s.dir home line).rvec.getLsbD die && (Tbl.get? s.replicas (replicaKey die line)).isSome) ∧ die ∉ (s'.dir home line).col
        ∧ (∀ p ∈ s'.partials, p.line = line → die ∉ p.await)
        ∧ ∀ d, d < 8 → d ≠ die → (s'.dir home line).rvec.getLsbD d = (s.dir home line).rvec.getLsbD d)
    ∧ (∀ (s : State) (home line : Nat) (d : Dir), d = s.dir home line →
      ((d.col = [] ∨ s.thyme < d.lapse) → s.settleCol home line = s)
      ∧ (d.col ≠ [] → d.lapse ≤ s.thyme → ((s.settleCol home line).dir home line).col = []
        ∧ ∀ x, x < 8 → ((s.settleCol home line).dir home line).rvec.getLsbD x
            = (d.rvec.getLsbD x && !(decide (x ∈ d.col) && (Tbl.get? s.replicas (replicaKey x line)).isNone)))))

/-- R349, R364: a persistent request unserved for 20 µs, and a RECALL unanswered for 10 µs, isolate the silent core: the launches with teams on
it are cancelled with STATUS 4 and it is fused off; the loads of the requesting core that wait for the line fault COHERE 1. Before their time
neither does anything. What an isolation does to the tokens of the core is log entry 47 (DEDUCED). R118, R119, Table 7.3: at the end of Fennel's window every
granule's degree follows its descriptor and its counts, which start anew; the accesses of the window are kept for migration. -/
def Obligations.DeadlinesAndDegrees : Prop :=
  ((∀ (s : State) (core line silent since : Nat) (d : Dir), d = s.dir (coreDie core) line → s.Keyed →
      ((∃ w, d.pers.find? (fun p => p.1 == core) = some (core, w, since)) ∧ d.opened.map (·.1) ≠ some core)
        ∨ ((∀ p ∈ d.pers, p.1 ≠ core) ∧ d.opened.map (·.1) = some core ∧ d.urgent = some since) →
      (s.thyme < since + 20000 → exec (.persistentRequestTimeout core line silent) s = .next s)
      ∧ (since + 20000 ≤ s.thyme → ∃ s', exec (.persistentRequestTimeout core line silent) s = .next s' ∧ Isolated s s' silent
          ∧ (∀ p ∈ (s'.dir (coreDie core) line).pers, p.1 ≠ core) ∧ (s.launches = [] → SameBytes s s')
          ∧ ∀ k u e ps acc, s.team? k = some u → u.core = core → u.saved = none → e ∈ u.tq → e.op = .load ps acc →
              (∃ p ∈ ps, overlap p.loc p.len (128 * line) 128 = true) →
              ∃ u', s'.team? k = some u' ∧ (∀ x ∈ u'.tq, x.id ≠ e.id)
                ∧ ∃ f ∈ u'.late, f.cause = 0x49 ∧ f.detail = 1 ∧ f.addr = e.addr ∧ f.prec = true ∧ f.pc = e.pc))
    ∧ (∀ (s : State) (die core line since : Nat) (r : List Msg), s.msgs = .recall die core line since :: r → s.Keyed →
      (since + 10000 ≤ s.thyme → ∃ s', exec (.recallTimeout core line) s = .next s' ∧ Isolated s s' core)
      ∧ (s.thyme < since + 10000 → r = [] → exec (.recallTimeout core line) s = .next s)))
    ∧ (∀ (s : State), (s.window + 1) * 10000 ≤ s.thyme → ∃ s', exec .fennelWindowEnd s = .next s' ∧ s'.mem = s.mem ∧ s'.teams = s.teams
    ∧ ∀ g x, Tbl.get? s.grans g = some x → ∃ y, Tbl.get? s'.grans g = some y ∧ y.rm = 0 ∧ y.wr = 0 ∧ y.repl = x.repl ∧ y.last = x.acc ∧ y.acc = 0
      ∧ y.degree = (if x.repl = 1 then 0 else if x.repl = 2 then x.pdies - 1 else if x.rm < 8 * x.wr then x.degree - 1
          else if 16 ≤ x.rm then min (x.degree + 1) (x.pdies - 1) else x.degree))

/-- R96, R121, R122: an operation on a quiet element: a BCDEC within its die's allowance and a BCINC are served there at once; a BCDEC
above it waits and asks the home for the shortfall; BCREAD and BCSET go to the home's queue. R123, R124: the home grants a shortfall f
within its reserve Q as min(Q, max(f, Q / 2)), and the slice then serves the BCDEC that waited; a shortfall above the reserve, a BCREAD or
a BCSET starts a recall, into whose pool the reserve goes. -/
def Obligations.CounterServing : Prop :=
  (∀ (s : State) (t : Team) (e : SqEntry) (k : Nat) (op : CtrOp), s.team? t.tk = some t → t.sq.find? (fun x => x.id == e.id) = some e →
    e.op = .ctr k op → MayLeave s t e → s.cvClear t.core e.loc e.len = true → s.writeFrozen e.loc = false → Quiet (s.elem k) →
    Tbl.wf (s.elem k).alw = true →
    (∀ n, op = .decAll n ∨ op = .decPart n → n ≤ (s.elem k).allow t.die →
      ∃ s', exec (.atomicPerform t.tk e.id) s = .next s' ∧ CounterServed s s' t e.id e.dest (if op = .decAll n then 1 else n)
        ∧ (s'.elem k).allow t.die = (s.elem k).allow t.die - n ∧ (s'.elem k).value + n = (s.elem k).value)
    ∧ (∀ n p, op = .inc n → s.part? t.vf = some p → (s.elem k).allow t.die + n ≤ ctrMax / (2 * max p.dies.length 1) →
      ∃ s', exec (.atomicPerform t.tk e.id) s = .next s' ∧ CounterServed s s' t e.id e.dest 0
        ∧ (s'.elem k).value = (s.elem k).value + n)
    ∧ (∀ n, op = .decAll n ∨ op = .decPart n → (s.elem k).allow t.die < n →
      ∃ m s', exec (.atomicPerform t.tk e.id) s = .next m ∧ exec (.shortfallRequest k t.die) m = .next s' ∧ s'.teams = s.teams
        ∧ (s'.elem k).asked = [(t.die, n - (s.elem k).allow t.die)] ∧ ((s'.elem k).queue t.die).map CtrReq.op = [op]
        ∧ (s'.elem k).value = (s.elem k).value)
    ∧ (∀ v, op = .read ∨ op = .set v → ∃ s', exec (.atomicPerform t.tk e.id) s = .next s' ∧ s'.teams = s.teams
        ∧ (s'.elem k).hq.map CtrReq.op = [op] ∧ (s'.elem k).value = (s.elem k).value))
    ∧ ((∀ (s : State) (k d f n : Nat) (r : CtrReq) (e : Elem) (t : Team), e = s.elem k → e.recallOf = none → e.lost = false → e.hq = [] →
      e.asked = [(d, f)] → f ≤ e.reserve → e.queue d = [r] → r.op = .decAll n ∨ r.op = .decPart n → n = e.allow d + f →
      r.tk = t.tk → s.team? t.tk = some t → Tbl.wf e.alw = true →
      ∃ s', exec (.counterGrant k) s = .next s' ∧ CounterServed s s' t r.id r.dest (if r.op = .decAll n then 1 else n)
        ∧ (s'.elem k).reserve = e.reserve - min e.reserve (max f (e.reserve / 2))
        ∧ (s'.elem k).allow d = e.allow d + min e.reserve (max f (e.reserve / 2)) - n ∧ (s'.elem k).asked = []
        ∧ (s'.elem k).value + n = e.value)
    ∧ (∀ (s : State) (k : Nat) (e : Elem), e = s.elem k → e.recallOf = none → (e.hq ≠ [] ∨ ∃ a ∈ e.asked, e.reserve < a.2) →
      ∃ s', exec (.counterRecall k) s = .next s' ∧ s' = { s with elems := s'.elems } ∧ (s'.elem k).reserve = 0
        ∧ (s'.elem k).recallOf.map Recall.pool = some e.reserve ∧ (s'.elem k).asked = [] ∧ (s'.elem k).value = e.value)
    ∧ (∀ (s : State) (k : Nat), (s.elem k).recallOf = none → (s.elem k).hq = [] → (∀ a ∈ (s.elem k).asked, a.2 ≤ (s.elem k).reserve) →
      exec (.counterRecall k) s = .next s))

/-- R124, R125: each slice's answer puts its allowance into the pool; after the last one the waiting operation is served against the exact
value P, and the new value is shared out, floor(P / 2D) a die and the rest in the reserve. R124, R351, R352: a BCINC above its die's share
goes to the home's queue and starts a recall; a recall unanswered for 10 µs loses the element and its waiting operations fault COUNTER 4; an operation but a BCSET that reaches a lost
element faults COUNTER 3. -/
def Obligations.CounterRecalling : Prop :=
  ((∀ (s : State) (k die : Nat) (e : Elem) (r : Recall), e = s.elem k → e.recallOf = some r → die ∈ s.elemDies e → die ∉ r.answered →
      Tbl.wf e.alw = true → (∃ d ∈ s.elemDies e, d ≠ die ∧ d ∉ r.answered) →
      ∃ s', exec (.recallAnswer k die) s = .next s' ∧ s' = { s with elems := s'.elems } ∧ (s'.elem k).allow die = 0
        ∧ (s'.elem k).recallOf.map Recall.pool = some (r.pool + e.allow die) ∧ (s'.elem k).value = e.value)
    ∧ (∀ (s : State) (k die : Nat) (e : Elem) (r : Recall) (q : CtrReq) (t : Team) (P D : Nat), e = s.elem k → e.recallOf = some r →
      die ∈ s.elemDies e → die ∉ r.answered → (∀ d ∈ s.elemDies e, d ≠ die → d ∈ r.answered) → e.lost = false → e.hq = [q] →
      (∀ d, e.queue d = []) → q.tk = t.tk → s.team? t.tk = some t → P = r.pool + e.allow die → D = (s.elemDies e).length →
      (∀ n, q.op = .inc n → P + n ≤ ctrMax) →
      ∃ s', exec (.recallAnswer k die) s = .next s' ∧ CounterServed s s' t q.id q.dest (homeServes q.op P).1
        ∧ (s'.elem k).recallOf = none ∧ (s'.elem k).hq = []
        ∧ (s'.elem k).reserve = (homeServes q.op P).2 - (homeServes q.op P).2 / (2 * D) * D
        ∧ ∀ d ∈ s.elemDies e, (s'.elem k).allow d = (homeServes q.op P).2 / (2 * D)))
    ∧ ((∀ (s : State) (k die n : Nat) (e : Elem) (r : CtrReq) (rest : List CtrReq), e = s.elem k → e.lost = false → e.asked = [] → e.hq = [] →
      e.recallOf = none → e.queue die = r :: rest → r.op = .inc n → ctrMax / (2 * max (s.elemDies e).length 1) < e.allow die + n →
      ∃ s', exec (.forwardedBcinc k die) s = .next s' ∧ s' = { s with elems := s'.elems } ∧ (s'.elem k).hq = [r]
        ∧ (s'.elem k).queue die = rest ∧ (s'.elem k).recallOf.map Recall.pool = some e.reserve ∧ (s'.elem k).value = e.value)
    ∧ (∀ (s : State) (k die : Nat) (e : Elem) (r : Recall), e = s.elem k → e.recallOf = some r → die ∈ s.elemDies e → die ∉ r.answered →
      (s.thyme < r.since + 10000 → exec (.counterRecallTimeout k die) s = .next s)
      ∧ (r.since + 10000 ≤ s.thyme → (∀ d, e.queue d = []) → ∃ s', exec (.counterRecallTimeout k die) s = .next s'
          ∧ (s'.elem k).lost = true ∧ (s'.elem k).recallOf = none
          ∧ ∀ q t, e.hq = [q] → q.tk = t.tk → s.team? t.tk = some t → ∃ t' l, s'.team? t.tk = some t' ∧ t'.late = t.late ++ [l]
            ∧ l.cause = 0x46 ∧ l.detail = 4 ∧ t'.sq = t.sq.filter fun x => x.id != q.id))
    ∧ (∀ (s : State) (t : Team) (e : SqEntry) (k : Nat) (op : CtrOp), s.team? t.tk = some t → t.sq.find? (fun x => x.id == e.id) = some e →
      e.op = .ctr k op → MayLeave s t e → s.cvClear t.core e.loc e.len = true → s.writeFrozen e.loc = false → s.ctrWaits k t.tk e.id = false →
      (s.elem k).lost = true → (∀ v, op ≠ .set v) →
      ∃ s' t' l, exec (.atomicPerform t.tk e.id) s = .next s' ∧ s'.team? t.tk = some t' ∧ (∀ j, j ≠ t.tk → s'.team? j = s.team? j)
        ∧ t' = { t with sq := t.sq.filter fun x => x.id != e.id, late := t.late ++ [l] }
        ∧ l.cause = 0x46 ∧ l.detail = 3 ∧ l.addr = e.addr ∧ l.prec = true ∧ l.pc = e.pc))

/-- R12, R153, R154: a copy starts its next 256 bytes when its release holds, the streamer has room in the cycle, and its core's allowance
admits them or it has starved, and is charged C7; the first start of a chunk translates it (R75), and a chunk that cannot be translated
holds the copy for NOTPRESENT and drops it for any other cause (R345). R99, R258, R260: the pieces of a chunk, each within 8 aligned bytes,
are read at their homes once their bytes have been started and written once their bytes have been read, in any order; a window pads
elements outside its tensor and moves the others unchanged where the format stays. R99, R252, R253, R345, R346: a copy all of which has
moved, or that was dropped, completes once its writes and what it read have reached the level of its destination: it leaves the queue, its
token is freed, and it arrives at the transfer barrier it names. That ARR wraps at 2^20 is log entry 67 (DESIGN CHOICE), and what else must
hold before a piece moves (its lines' tokens, R105) log entry 6 (DEDUCED). -/
def Obligations.CopySteps : Prop :=
  ((∀ (s : State) (core : Nat) (t : Team) (c c1 : Copy), CopyIs s core t c → s.partReady core t c = true → c.part % 256 = 0 →
      (c.starve = true ∨ (s.core core).admits t.prio ((s.core core).cost 7) = true) →
      (c.part = 0 → s.mapChunk t c = .ok c1) → (c.part ≠ 0 → c1 = c) →
      ∃ s', exec (.copyChunk core c.id) s = .next s' ∧ ChunkDone s s' core c1)
    ∧ (∀ (s : State) (core : Nat) (t : Team) (c : Copy) (f : FInfo), CopyIs s core t c → s.partReady core t c = true → c.part = 0 →
      (c.starve = true ∨ (s.core core).admits t.prio ((s.core core).cost 7) = true) → s.mapChunk t c = .error f →
      ∃ s' t' l c', exec (.copyChunk core c.id) s = .next s' ∧ TeamAlone s s' t t' ∧ t' = { t with late := t.late ++ [l] }
        ∧ l.cause = f.cause ∧ l.detail = f.detail ∧ l.addr = f.addr ∧ l.prec = false
        ∧ (s'.core core).allow = (s.core core).allow ∧ (s'.core core).copies.find? (fun x => x.id == c.id) = some c'
        ∧ c' = if f.cause = 0x45 then { c with held := true } else { c with fail := true })
    ∧ (∀ (s : State) (core : Nat) (t : Team) (c : Copy), CopyIs s core t c →
      (s.partReady core t c = false ∨ (c.starve = false ∧ (s.core core).admits t.prio ((s.core core).cost 7) = false)) →
      exec (.copyChunk core c.id) s = .next s)
    ∧ (∀ (s : State) (t : Team) (c : Copy) (src dst : List Piece) (off n : Nat), c.win = none → off = 4096 * c.chunk →
      n = min 4096 (c.len - off) → s.endPieces t c.src .copyRead off n = .ok src → s.endPieces t c.dst .copyWrite off n = .ok dst →
      (∀ p ∈ src ++ dst, p.loc < 2 ^ 100) →
      s.mapChunk t c = .ok { c with
        reads := c.reads ++ src.map fun p => ⟨{ p with off := off + p.off }, off + p.off, c.src.obj⟩
        puts := c.puts ++ dst.map fun p => ⟨{ p with off := off + p.off }, off + p.off, c.dst.obj⟩ }))
    ∧ ((∀ (s : State) (core : Nat) (t : Team) (c : Copy) (i : Nat) (r : CopyPiece), CopyIs s core t c → c.reads[i]? = some r →
      s.mayCopyRead c r = true → r.p.loc < 2 ^ 100 → s.lost = [] → Tbl.wf c.buf = true →
      ∃ s' c', s.copyRead core c.id i = s' ∧ s'.teams = s.teams ∧ SameBytes s s'
        ∧ (s'.core core).copies.find? (fun x => x.id == c.id) = some c'
        ∧ c' = { c with reads := c.reads.eraseIdx i, buf := c'.buf, seen := c'.seen }
        ∧ (∀ x, x ∈ c'.seen ↔ x ∈ c.seen ∨ x ∈ s.writersOf 0 r.p.loc r.p.len)
        ∧ ∀ k, Tbl.get? c'.buf k = if r.p.off ≤ k ∧ k < r.p.off + r.p.len then some (Memory.get s.mem (r.p.loc + (k - r.p.off)))
            else Tbl.get? c.buf k)
    ∧ (∀ (s : State) (core : Nat) (t : Team) (c : Copy) (i : Nat) (w : CopyPiece) (bs : List Byte), CopyIs s core t c →
      c.puts[i]? = some w → s.putReady core c w = true → w.p.loc < 2 ^ 100 → s.lost = [] → c.bytes w.p.off w.p.len = some bs →
      ∃ s' c', s.copyWrite core c.id i = s' ∧ s'.teams = s.teams ∧ s'.mem = Memory.write s.mem w.p.loc bs
        ∧ (s'.core core).copies.find? (fun x => x.id == c.id) = some c'
        ∧ c' = { c with puts := c.puts.filter (· != w), writes := c.writes ++ [s.nextId], buf := c'.buf })
    ∧ (∀ (c : Copy) (off n : Nat) (b : Nat → Byte), c.win = none → (∀ k, k < n → Tbl.get? c.buf (off + k) = some (b k)) →
      c.bytes off n = some ((List.range n).map b))
    ∧ (∀ (c : Copy) (w : Window) (w0 w1 : Nat),
      (Desc.dim c.geo 0 ≤ w.i0 + w0 ∨ Desc.dim c.geo 1 ≤ w.i1 + w1 ∨ Desc.dim c.geo 2 ≤ w.i2 ∨ Desc.dim c.geo 3 ≤ w.i3) →
      c.elem w w0 w1 = some (if w.fmt (Desc.tfmt c.geo) = 6 then 0x7F else 0))
    ∧ (∀ (c : Copy) (w : Window) (w0 w1 : Nat) (bs : List Byte), w.dq = false → w.fmt (Desc.tfmt c.geo) = Desc.tfmt c.geo →
      w.i0 + w0 < Desc.dim c.geo 0 → w.i1 + w1 < Desc.dim c.geo 1 → w.i2 < Desc.dim c.geo 2 → w.i3 < Desc.dim c.geo 3 →
      tfBits (Desc.tfmt c.geo) ≠ 4 →
      c.source (Desc.elemOff c.geo (w.i0 + w0) (w.i1 + w1) w.i2 w.i3) ((tfBits (Desc.tfmt c.geo) + 7) / 8) = some bs →
      c.elem w w0 w1 = some (leNat bs)))
    ∧ ((∀ (s : State) (core : Nat) (t : Team) (c : Copy), CopyIs s core t c →
      (c.fail = true ∨ (c.held = false ∧ c.size ≤ c.begun ∧ s.copyOpen t c = true)) → c.reads = [] → c.puts = [] → c.remote = 0 →
      s.copyLevel c = true →
      ∃ s' t', exec (.copyComplete core c.id) s = .next s' ∧ TeamAlone s s' t t' ∧ TokenFreed t t' c.ct c.fail
        ∧ (s'.core core).copies = (s.core core).copies.filter (fun x => x.id != c.id)
        ∧ (c.arr = none → s'.crews = s.crews)
        ∧ (∀ n b, c.arr = some n → s.barrier? (.tb c.crew n) = some b → ∃ b', s'.barrier? (.tb c.crew n) = some b' ∧ b'.exp = b.exp
            ∧ (if 0 < b.exp ∧ b.exp ≤ (b.arr + 1) % 2 ^ 20 then b'.ph = (b.ph + 1) % 65536 ∧ b'.arr = 0
                else b'.ph = b.ph ∧ b'.arr = (b.arr + 1) % 2 ^ 20)
            ∧ (c.fail = true → b.ph < 65536 → b.ph ∈ b'.marks)))
    ∧ (∀ (s : State) (core : Nat) (t : Team) (c : Copy), CopyIs s core t c →
      ((c.fail = false ∧ c.begun < c.size) ∨ c.reads ≠ [] ∨ c.puts ≠ [] ∨ c.remote ≠ 0) → exec (.copyComplete core c.id) s = .next s))

/-- R100, R266: at their turn MZERO clears its tile, MLD loads it from the crew's scratchpad, MST stores it there in its format, rows rb
apart, a row of 32 accumulators a step, which its banks serve in that cycle (R80); none of them is charged then. R13: the engine of a core
takes one step in a core cycle. R154, R264, Table 14.5: a step of an MLOOP that the allowance admits, or that has starved, charges C6
and accumulates onto its tile; with 8-bit integer operands each element gains, modulo 2^32, the sum of sixteen products of A's elements,
read at issue, and B's bytes. A step that is not admitted does nothing. R154, R253: a command whose steps are taken, or that was dropped,
leaves the engine and frees its token; one that has started nothing for 512 core cycles starts without the test. That a step reads all its
bytes of B at once, and that an MLD or MST moves a row a step, is log entry 57 (DESIGN CHOICE; R100 leaves it open). -/
def Obligations.MatrixSteps : Prop :=
  (∀ (s : State) (core : Nat) (t : Team) (c : MatCmd) (r : List MatCmd), HeadIs s core t c r → s.matReady core t c = true → s.lost = [] →
    s.Canonical →
    (∀ mt, c.op = .mzero mt → ∃ s', exec (.matrixStep core) s = .next s' ∧ StepDone s s' core c r 0 ∧ s'.mem = s.mem
      ∧ (∀ x, x < 2048 → (s'.tile core mt).getD x 0 = 0) ∧ ∀ k, k < 16 → mt < 16 → k ≠ mt → s'.tile core k = s.tile core k)
    ∧ (∀ mt ra rb, c.op = .mld mt ra rb → ∃ s', exec (.matrixStep core) s = .next s' ∧ StepDone s s' core c r 0 ∧ s'.mem = s.mem
      ∧ ((s.tile core mt).length = 2048 → (s'.tile core mt).length = 2048 ∧ ∀ i j, i < 64 → j < 32 →
          (s'.tile core mt).getD (32 * i + j) 0 =
            if i = c.step then BitVec.ofNat 32 (leNat (Memory.read s.mem (s.crewLoc t + ra.toNat + i * rb.toNat + 4 * j) 4))
            else (s.tile core mt).getD (32 * i + j) 0)
      ∧ ∀ k, k < 16 → mt < 16 → k ≠ mt → s'.tile core k = s.tile core k)
    ∧ (∀ mt ra rb f mode w, c.op = .mst mt ra rb f mode → w = (match f with | .fp32 => 4 | .bf16 => 2 | .fp16 => 2 | .e4m3 => 1 | .e5m2 => 1) →
      (s.tile core mt).length = 2048 →
      ∃ s', exec (.matrixStep core) s = .next s' ∧ StepDone s s' core c r 0 ∧ s'.tiles = s.tiles
        ∧ (∀ i j b, i = c.step → j < 32 → b < w →
            (Memory.get s'.mem (s.crewLoc t + ra.toNat + i * rb.toNat + j * w + b)).toNat =
              (match f with
                | .fp32 => ((s.tile core mt).getD (32 * i + j) 0).toNat
                | .bf16 => bf16.narrow mode (fp32.dec ((s.tile core mt).getD (32 * i + j) 0).toNat)
                | .fp16 => fp16.narrow mode (fp32.dec ((s.tile core mt).getD (32 * i + j) 0).toNat)
                | .e4m3 => e4m3.narrow mode (fp32.dec ((s.tile core mt).getD (32 * i + j) 0).toNat)
                | .e5m2 => e5m2.narrow mode (fp32.dec ((s.tile core mt).getD (32 * i + j) 0).toNat)) / 2 ^ (8 * b) % 256)
        ∧ ∀ a, (a < s.crewLoc t + ra.toNat + c.step * rb.toNat ∨ s.crewLoc t + ra.toNat + c.step * rb.toNat + 32 * w ≤ a) →
            Memory.get s'.mem a = Memory.get s.mem a))
    ∧ (∀ (s : State) (core : Nat), (s.core core).stepped = true → exec (.matrixStep core) s = .next s)
    ∧ (∀ (s : State) (core : Nat) (t : Team) (c : MatCmd) (r : List MatCmd) (mt ks binc n boff : Nat) (rows : List (List Word)) (m : MState),
    HeadIs s core t c r → s.matReady core t c = true → s.lost = [] → c.op = .mloop mt ks binc n boff rows m →
    (c.starve = false → (s.core core).admits t.prio ((s.core core).cost 6) = false → exec (.matrixStep core) s = .next s)
    ∧ (c.starve = true ∨ (s.core core).admits t.prio ((s.core core).cost 6) = true →
      ∃ s', exec (.matrixStep core) s = .next s' ∧ StepDone s s' core c r ((s.core core).cost 6) ∧ s'.mem = s.mem
        ∧ (∀ k, k < 16 → mt < 16 → k ≠ mt → s'.tile core k = s.tile core k)
        ∧ (m.afmt = 7 → m.bfmt = 7 → 256 ≤ t.lanes → t.lanes < 512 → ∀ i j, i < 64 → j < 32 → (s'.tile core mt).getD (32 * i + j) 0 =
            BitVec.ofInt 32 (((s.tile core mt).getD (32 * i + j) 0).toInt + ((List.range 16).map fun k =>
              (BitVec.ofNat 8 (((rows.getD c.step []).getD (4 * i + k / 4) 0).toNat / 2 ^ (8 * (k % 4)))).toInt
                * (Memory.get s.mem (s.crewLoc t + (boff + c.step * binc) % 2 ^ 20 + 16 * j + k)).toInt).sum))))
    ∧ ((∀ (s : State) (core : Nat) (t : Team) (c : MatCmd) (r : List MatCmd), HeadIs s core t c r → (c.fail = true ∨ c.op.steps ≤ c.step) →
      ∃ s' t', exec (.engineCommandComplete core) s = .next s' ∧ TeamAlone s s' t t' ∧ TokenFreed t t' c.ct c.fail ∧ (s'.core core).mats = r
        ∧ s'.tiles = s.tiles)
    ∧ (∀ (s : State) (core : Nat) (t : Team) (c : MatCmd) (r : List MatCmd), HeadIs s core t c r → c.fail = false → c.step < c.op.steps →
      exec (.engineCommandComplete core) s = .next s)
    ∧ (∀ (s : State) (core : Nat) (t : Team) (c : MatCmd) (r : List MatCmd), HeadIs s core t c r → s.matReady core t c = true → s.lost = [] →
      c.op.isLoop = true → c.last + 512 ≤ s.cycle →
      ∃ s', exec (.engineStarvationStart core false) s = .next s' ∧ s'.teams = s.teams ∧ s'.mem = s.mem
        ∧ (s'.core core).allow = (s.core core).allow - ((s.core core).cost 6 : Nat)
        ∧ ∃ c', (s'.core core).mats = c' :: r ∧ c'.step = c.step + 1 ∧ c'.op = c.op)
    ∧ (∀ (s : State) (core : Nat) (t : Team) (c c1 : Copy), CopyIs s core t c → (s.core core).copies.find? (s.copyLate core) = some c →
      c.part % 256 = 0 → (c.part = 0 → s.mapChunk t { c with starve := true } = .ok c1) → (c.part ≠ 0 → c1 = c) →
      ∃ s', exec (.engineStarvationStart core true) s = .next s' ∧ ChunkDone s s' core c1)
    ∧ (∀ (s : State) (core : Nat), (∀ c ∈ (s.core core).copies, s.cycle < c.last + 512) → exec (.engineStarvationStart core true) s = .next s))

/-- R29, R309, R378, Table 3.1: a doorbell sets TAIL, and the event head is told; a packet at HEAD whose fields pass is read into a new
launch with nothing placed, and counted in its phase, which PEND closes; a packet with a field out of range is refused, and HEAD passes
it. R25, R26, R30, R31, R36: a team is placed with the indices, registers, stack, mask and level that its packet and its place in the grid
give, and its launch's counter rises. R31, R143, R145: the launch that the distributor serves next, when its room stands in clusters that
are awake, has its next fleet placed, or with COR = 1 all of them; memory changes only where scratchpads and lane-private regions are
cleared. A launch that has waited more than 1 ms and is the oldest of the highest priority reserves. That a team starts with no breakpoint
enabled is log entry 4 (DESIGN CHOICE), that a launch's 1 ms counts from the reading of its packet log entry 62 (DESIGN CHOICE). R32, R274: a
packet whose launch was cancelled while it stood unread is read as a cancelled launch (log entry 31, DEDUCED). -/
def Obligations.Placement : Prop :=
  ((∀ (s : State) (vf q n : Nat) (k : Queue), s.queue? vf q = some k →
      (∃ s', exec (.launchQueueDoorbell vf q n) s = .next s' ∧ s' = { s with parts := s'.parts }
        ∧ s'.queue? vf q = some { k with tail := n % 65536 })
      ∧ (k.held = [] → ∃ s', exec (.eventHeadDoorbell vf q n) s = .next s' ∧ s' = { s with parts := s'.parts }
        ∧ s'.queue? vf q = some { k with evhead := n % 65536 }))
    ∧ (∀ (s : State) (vf q : Nat) (p : Part) (k : Queue) (bs : List Byte) (l : Launch), PacketAt s vf q p k bs →
      l = newLaunch vf q k (packetOf bs) s.thyme → l.badField k.pmax false = none → s.neverFits p l = none → l.job ∉ p.jobCancel →
      l.lid ∉ p.cancelled → (∀ x ∈ p.phases, ¬ (x.job = l.job ∧ x.phase = l.phase)) →
      ∃ s', exec (.launchPacketRead vf q) s = .next s' ∧ s' = { s with launches := s'.launches, parts := s'.parts, nextId := s.nextId + 1 }
        ∧ s'.launch? s.nextId = some l ∧ (∀ u, u ≠ s.nextId → s'.launch? u = s.launch? u)
        ∧ s'.queue? vf q = some { k with waiting := some s.nextId }
        ∧ s'.phases vf = p.phases ++ [⟨l.job, l.phase, 1, l.pend, l.pend && l.jend, 0, q, false, false⟩])
    ∧ (∀ (s : State) (vf q : Nat) (p : Part) (k : Queue) (bs : List Byte) (l : Launch), PacketAt s vf q p k bs →
      l = newLaunch vf q k (packetOf bs) s.thyme → l.badField k.pmax false = none → s.neverFits p l = none → l.lid ∈ p.cancelled →
      (∀ x ∈ p.phases, ¬ (x.job = l.job ∧ x.phase = l.phase)) → (∀ e ∈ s.teams, e.2.launch ≠ s.nextId) →
      ∃ s' l', exec (.launchPacketRead vf q) s = .next s' ∧ s'.launch? s.nextId = some l' ∧ l'.cancel = true ∧ l'.status = 1
        ∧ s'.teams = s.teams ∧ ∃ p', s'.part? vf = some p' ∧ l.lid ∉ p'.cancelled)
    ∧ (∀ (s : State) (vf q f : Nat) (p : Part) (k : Queue) (bs : List Byte) (l : Launch), PacketAt s vf q p k bs →
      l = newLaunch vf q k (packetOf bs) s.thyme → (∀ x ∈ p.phases, ¬ (x.job = l.job ∧ x.phase = l.phase)) → l.badField k.pmax false = some f →
      ∃ s' k', exec (.launchPacketRead vf q) s = .next s' ∧ s'.teams = s.teams ∧ s'.queue? vf q = some k'
        ∧ k'.head = (k.head + 1) % 65536 ∧ k'.waiting = none))
    ∧ (∀ (s s' : State) (uid : Nat) (l : Launch) (fid cid tid slice : Nat), s.placeTeam uid l fid cid tid slice = some s' →
    s.launch? uid = some l → l.lanes ≤ 1024 →
    ∃ t l', Placed s s' uid l fid cid tid slice t ∧ (∀ k, k ≠ t.tk → s'.team? k = s.team? k)
      ∧ s'.launch? uid = some l' ∧ l'.counter = l.counter + 1 ∧ l'.next = l.next)
    ∧ ((∀ (s s1 : State) (u : Nat) (l : Launch), s.launch? u = some l → (∀ e ∈ s.launches, e.1 = u → e.2 = l) → l.gang = none →
      s.nextPlacement l.vf = some (u, s1) → s.wakes s1 = [] → s.Canonical →
      ∃ s' l', exec (.fleetPlacement u) s = .next s' ∧ s'.launch? u = some l' ∧ l'.next = l.next + (if l.cor then l.nfleets else 1)
        ∧ l'.placedAt.isSome = true ∧ ∀ a, Memory.get s'.mem a = Memory.get s.mem a ∨ Memory.get s'.mem a = 0)
    ∧ (∀ (s : State) (u : Nat) (l : Launch), s.launch? u = some l → l.gang = none → s.nextPlacement l.vf = none →
      exec (.fleetPlacement u) s = .next s)
    ∧ (∀ (s : State) (u : Nat) (l : Launch) (p : Part), s.launch? u = some l → s.part? l.vf = some p → (u, l) ∈ s.pending l.vf →
      l.readAt + 1000000 < s.thyme →
      (∀ e ∈ s.pending l.vf, e.1 ≠ u → e.2.readAt + 1000000 < s.thyme → e.2.prio < l.prio ∨ e.2.prio = l.prio ∧ l.readAt < e.2.readAt) →
      ∃ s', exec (.launchReservation u) s = .next s' ∧ s' = { s with parts := s'.parts } ∧ s'.part? l.vf = some { p with reserve := some u }))

/-- R35, R41, R249: an ended team leaves its slot once its engine commands are complete and its memory has reached partition scope; its
launch's counter falls, a barrier of its crew expects one arrival fewer, and nothing of another team changes. R37 to R39, R102: an ENQ's
items enter the tail of their list in lane order once its release holds and the area has room; one item at a time goes from a list's head
to a core whose teams name the list, and back to the head when none does; quiescence is noted. What an ended team waits for besides its engine
commands is log entry 17 (DEDUCED), that items leave a list in the order in which they entered log entry 66 (DESIGN CHOICE). -/
def Obligations.SlotsAndItems : Prop :=
  ((∀ (s : State) (t : Team) (l : Launch), s.team? t.tk = some t → s.mayLeaveSlot t = true → t.forked = false →
      s.launch? t.launch = some l → l.det = false → 2 ≤ l.counter →
      ∃ s' l', exec (.teamLeavesSlot t.tk) s = .next s' ∧ s'.team? t.tk = none ∧ (∀ k, k ≠ t.tk → s'.team? k = s.team? k)
        ∧ s'.mem = s.mem ∧ s'.launch? t.launch = some l' ∧ l'.counter = l.counter - 1 ∧ l'.nteams = l.nteams + 1 ∧ l'.done = l.done
        ∧ ∀ n b, s.barrier? (.cb t.crewKey n) = some b → ∃ b', s'.barrier? (.cb t.crewKey n) = some b' ∧ b'.exp = b.exp - 1
            ∧ (if 0 < b.exp - 1 ∧ b.exp - 1 ≤ b.arr then b'.ph = (b.ph + 1) % 65536 ∧ b'.arr = 0 else b'.ph = b.ph ∧ b'.arr = b.arr))
    ∧ (∀ (s : State) (t : Team), s.team? t.tk = some t → (t.ended = false ∨ t.tq ≠ [] ∨ t.sq ≠ []
        ∨ (∃ k, ∃ x ∈ (s.core k).copies, x.tk = t.tk) ∨ ∃ k, ∃ x ∈ (s.core k).mats, x.tk = t.tk) →
      exec (.teamLeavesSlot t.tk) s = .next s)
    ∧ (∀ (s : State) (t : Team) (l : Launch), s.team? t.tk = some t → s.mayLeaveSlot t = true → t.forked = true → t.origin = none →
      s.launch? t.launch = some l → l.counter = 1 → l.nfleets ≤ l.next → l.done = false →
      ∃ s' l', exec (.teamLeavesSlot t.tk) s = .next s' ∧ s'.launch? t.launch = some l' ∧ l'.done = true ∧ l'.trig = true ∧ l'.counter = 0
        ∧ l'.nteams = l.nteams + 1))
    ∧ ((∀ (s : State) (t : Team) (e : SqEntry) (i : Nat) (items : List QWord) (l : Launch), s.team? t.tk = some t →
      t.sq.find? (fun x => x.id == e.id) = some e → e.op = .enq i items → s.launch? t.launch = some l → l.cancel = false → MayLeave s t e →
      s.itemsHeld t.vf + items.length ≤ s.listRoom t.vf →
      ∃ s' t' l', exec (.itemsEnterList t.tk e.id) s = .next s' ∧ TeamAlone s s' t t'
        ∧ t' = { t with sq := t.sq.filter fun x => x.id != e.id } ∧ s'.launch? t.launch = some l'
        ∧ Tbl.getD l'.lists i [] = Tbl.getD l.lists i [] ++ items ∧ l'.nitems = l.nitems + items.length
        ∧ ∀ j, j ≠ i → Tbl.getD l'.lists j [] = Tbl.getD l.lists j [])
    ∧ (∀ (s : State) (core u i : Nat) (l : Launch) (x : QWord) (r : List QWord), s.launch? u = some l → Tbl.getD l.lists i [] = x :: r →
      l.det = false → s.names core u i = true → (s.core core).items.length < 1024 →
      ∃ s' l', exec (.itemQueueFill core u i) s = .next s' ∧ s'.teams = s.teams ∧ s'.mem = s.mem ∧ s'.launch? u = some l'
        ∧ Tbl.getD l'.lists i [] = r ∧ (s'.core core).items = (s.core core).items ++ [(u, i, x)])
    ∧ (∀ (s : State) (core u i : Nat) (l : Launch) (q : List (Nat × Nat × QWord)), s.launch? u = some l → s.names core u i = false →
      (s.core core).items = q → (∀ e ∈ q, e.1 = u ∧ e.2.1 = i) → q ≠ [] →
      ∃ s' l', exec (.itemReturn core u i) s = .next s' ∧ s'.teams = s.teams ∧ s'.mem = s.mem ∧ s'.launch? u = some l'
        ∧ Tbl.getD l'.lists i [] = q.map (fun e => e.2.2) ++ Tbl.getD l.lists i [] ∧ (s'.core core).items = [])
    ∧ (∀ (s : State) (u : Nat) (l : Launch), s.launch? u = some l →
      (s.quiescent u l = true → ∃ s', exec (.sageQuiescence u) s = .next s' ∧ s' = { s with launches := s'.launches }
        ∧ s'.launch? u = some { l with quiet := true })
      ∧ ((l.next < l.nfleets ∨ (∃ i x r, Tbl.getD l.lists i [] = x :: r)
          ∨ ∃ k t, s.team? k = some t ∧ t.launch = u ∧ s.endDone t = false ∧ t.wait = none) → exec (.sageQuiescence u) s = .next s)))

/-- R34, R39, R231, R250, R251, R253, R254: a waiting team becomes Ready when its condition holds, with the value its instruction returns (of
a transfer barrier with bit 63 where a failed transfer arrived at the phase; of WAITT with bit 63 where a command of an idle token failed), and
stays as it is while it does not. R55: a JOIN tests its frame again, Dill first, and pops it when its cell is zero. R246: a waiting WAITV tests
its word, of 32 or 64 bits, again; it returns the word when it meets the condition and waits on when it does not. R49, R50, R60: a module tick flags the running teams that hold a promotable frame, in launches that are not
deterministic, and no other; a deterministic team is flagged when its count reaches a multiple of its interval. -/
def Obligations.WaitsEnd : Prop :=
  ((∀ (s : State) (t : Team) (w : Wait) (k : BarKey) (q : Nat) (sd : BitVec 6) (own : Bool) (b : Barrier), Waits s t w →
      w.on = .bar k (some q) sd own → s.barrier? k = some b → b.ph < 65536 → (match k with | .tb .. => False | _ => True) →
      (PhaseComplete b q → ∃ s', exec (.waitReturn t.tk) s = .next s'
        ∧ WaitReturned s s' t sd (BitVec.ofNat 64 (if own then q else b.ph)))
      ∧ (¬ PhaseComplete b q → exec (.waitReturn t.tk) s = .next s))
    ∧ (∀ (s : State) (t : Team) (w : Wait), Waits s t w → w.on = .waitdep →
      (s.depsTest t = true → ∃ s', exec (.waitReturn t.tk) s = .next s' ∧ WaitReturned s s' t 0 0)
      ∧ (s.depsTest t = false → exec (.waitReturn t.tk) s = .next s))
    ∧ (∀ (s : State) (t : Team) (w : Wait) (k : BarKey) (q : Nat) (sd : BitVec 6) (b : Barrier), Waits s t w → w.on = .tb k q sd →
      s.barrier? k = some b → b.ph < 65536 →
      (PhaseComplete b q → ∃ s', exec (.waitReturn t.tk) s = .next s' ∧ WaitReturned s s' t sd
        (BitVec.ofNat 64 (b.ph + if (match k with | .tb .. => true | _ => false) = true ∧ q % 65536 ∈ b.marks then 2 ^ 63 else 0)))
      ∧ (¬ PhaseComplete b q → exec (.waitReturn t.tk) s = .next s))
    ∧ (∀ (s : State) (t : Team) (w : Wait) (m : BitVec 8) (any : Bool) (sd : BitVec 6), Waits s t w → w.on = .tok m any sd →
      (m = 0 ∨ (any = true ∧ ∃ k, k < 8 ∧ m.getLsbD k = true ∧ (t.token k).busy = 0)
          ∨ (any = false ∧ ∀ k, k < 8 → m.getLsbD k = true → (t.token k).busy = 0) →
        ∃ s' v, exec (.waitReturn t.tk) s = .next s' ∧ WaitReturned s s' t sd v ∧ TokenResult t m v)
      ∧ (any = false → (∃ k, k < 8 ∧ m.getLsbD k = true ∧ (t.token k).busy ≠ 0) → exec (.waitReturn t.tk) s = .next s)
      ∧ (m ≠ 0 → (∀ k, k < 8 → m.getLsbD k = true → (t.token k).busy ≠ 0) → exec (.waitReturn t.tk) s = .next s))
    ∧ (∀ (s s1 : State) (t t1 : Team) (w : Wait) (f : FrameHead), JoinTests s t w s1 t1 f →
      (f.jcell = 0 → ¬ (f.kind = 2 ∧ f.root = true) →
        ∃ s' t', exec (.waitReturn t.tk) s = .next s' ∧ TeamAlone s1 s' t1 t' ∧ t'.wait = none ∧ t'.pc = t.nextPc ∧ t'.clock = t.clock + 1
          ∧ (∀ r, t'.sreg r = if r = 62 then topFrame t else t.sreg r)
          ∧ t'.v = t.v ∧ t'.p = t.p ∧ t'.mask = t.mask ∧ t'.toks = t.toks ∧ t'.pending = t1.pending)
      ∧ (f.jcell ≠ 0 →
        ∃ s' t', exec (.waitReturn t.tk) s = .next s' ∧ TeamAlone s1 s' t1 t' ∧ t' = { t1 with observed := t'.observed } ∧ t'.wait = some w))
    ∧ (∀ (s : State) (t : Team) (w : Wait) (i : Nat) (sd : BitVec 6) (l : Launch), Waits s t w → w.on = .waitq i sd →
      s.launch? t.launch = some l →
      (l.quiet = true → s.enqsDone t.launch = true → ∃ s', exec (.waitReturn t.tk) s = .next s' ∧ WaitReturned s s' t sd 1)
      ∧ (l.quiet = false ∨ s.enqsDone t.launch = false → s.available t i ≠ [] →
        ∃ s', exec (.waitReturn t.tk) s = .next s' ∧ WaitReturned s s' t sd 0)
      ∧ (l.quiet = false ∨ s.enqsDone t.launch = false → s.available t i = [] → exec (.waitReturn t.tk) s = .next s)))
    ∧ (∀ (s : State) (t : Team) (w : Wait) (h v pol : QWord) (w32 : Bool) (c : WCond) (sd : BitVec 6) (g : Bool) (p : Piece) (n m : Nat),
    Waits s t w → w.on = .memw h v w32 c pol sd → n = (if w32 then 4 else 8) → (s.access t .global .load h 0 n n 2 0).res = .ok [p] →
    MaySatisfy t s.nextId s.nextId p.loc n → s.mayRead t s.nextId p = true → m = (s.loadBytes t s.nextId p.loc n).1 →
    ∃ s' t', exec (.waitvTest t.tk g) s = .next s' ∧ TeamAlone s s' t t'
      ∧ (if (if w32 = true then condW c (BitVec.ofNat 32 m) (v.setWidth 32) else condW c (BitVec.ofNat 64 m) v) = true then
          Returned s' t t' ∧ ∀ r, t'.sreg r = if r = sd.toNat ∧ r ≠ 0 then BitVec.ofNat 64 m else t.sreg r
        else t' = { t with observed := t'.observed }))
    ∧ ((∀ (s : State), s.nextTick ≤ s.thyme → s.Keyed →
      ∃ s', exec .heartbeatTick s = .next s' ∧ s'.mem = s.mem
        ∧ (s.hbiNext = none → s'.hbM = s.hbM + 1 ∧ s'.hbi = s.hbi) ∧ (∀ h, s.hbiNext = some h → s'.hbi = h ∧ s'.hbiNext = none)
        ∧ ∀ k t, s.team? k = some t →
          s'.team? k = some { t with pending := t.pending || (t.running && !s.isDet t && (s.oldest t).isSome) })
    ∧ (∀ (s : State), s.thyme < s.nextTick → exec .heartbeatTick s = .next s)
    ∧ (∀ (s : State) (t : Team) (l : Launch), s.team? t.tk = some t → s.launch? t.launch = some l → l.det = true → t.clock ≠ 0 →
      t.clock % l.hbi = 0 → t.hbAt ≠ t.clock →
      ∃ s' t', exec (.deterministicHeartbeat t.tk) s = .next s' ∧ OneTeam s s' t t'
        ∧ t' = { t with hbAt := t.clock, pending := t.pending || (s.oldest t).isSome }))

/-- R33, R103, R332: a saved team keeps its context at its restart point, its latches discarded, with the lease horizon and the stores it
must wait for; a restored one goes on where its crew and its launch allow (log entry 32, DESIGN CHOICE). R338: an imprecise fault noted for
the team comes first: it parks and is saved Parked. R359, Table 24.1: a wait longer than WAITLIM parks its team with cause WATCHDOG and the
wait's detail; RUNLIM parks a running team of a launch placed too long ago, once; a launch whose teams can only wait for one another parks
after 100 µs, which are counted from the step that finds it so (log entry 36, DEDUCED). R145: a cluster with no team and no engine command
for 50 µs is gated; a dispatch to a gated cluster wakes it first, and one in the cycle of the gating wins. -/
def Obligations.SavingAndWatching : Prop :=
  ((∀ (s : State) (t : Team), s.team? t.tk = some t → Unlisted s t → t.ended = false → t.saved = none → s.isDet t = false →
      t.lateFirst = none →
      ∃ s' t', exec (.preemption t.tk) s = .next s' ∧ TeamAlone s s' t t' ∧ t'.saved.map SaveInfo.die = some t.die
        ∧ t' = { t with
            pc := s.rpc t, lat := [], runStart := none, horizon := s.thyme + s.maxLease t.vf, owed := s.unperformed t, wait := t'.wait
            floor := 0, saved := t'.saved }
        ∧ t'.wait.map Wait.on = t.wait.map Wait.on)
    ∧ (∀ (s : State) (t : Team) (e : LateFault), s.team? t.tk = some t → Unlisted s t → t.running = true → t.lateFirst = some e →
      e.prec = false → Reports s t → ∃ s' t' k, exec (.preemption t.tk) s = .next s' ∧ TeamAlone s s' t t' ∧ t'.park = some k
        ∧ k.cause = e.info.cause ∧ k.detail = e.info.detail ∧ t'.saved.map SaveInfo.die = some t.die ∧ t'.late = t.late.erase e
        ∧ t'.pc = s.rpc t ∧ t'.lat = [] ∧ t'.clock = (if s.isDet t = true ∧ s.inRun t = true ∧ t.runStart.isSome = true then t.runClock else t.clock)
        ∧ t'.v = t.v ∧ t'.p = t.p ∧ t'.s = t.s ∧ t'.mask = t.mask)
    ∧ (∀ (s : State) (t : Team) (sl : Nat), s.team? t.tk = some t → t.ended = false → t.saved.isSome = true → t.park = none →
      s.mayRestore t sl = true →
      ∃ s' t', exec (.restore t.tk sl) s = .next s' ∧ TeamAlone s s' t t'
        ∧ t' = { t with saved := none, slice := sl, slot := s.freeSlot sl, wait := t'.wait, floor := 0, owed := s.unperformed t }
        ∧ t'.wait.map Wait.on = t.wait.map Wait.on)
    ∧ (∀ (s : State) (t : Team) (l : Launch) (c : Crew) (sl : Nat), s.team? t.tk = some t → t.forked = false → s.launch? t.launch = some l →
      l.bound = true → Tbl.get? s.crews t.crewKey = some c → c.core ≠ sl / 6 → exec (.restore t.tk sl) s = .next s))
    ∧ ((∀ (s : State) (t : Team) (w : Wait) (p : Part), Waits s t w → s.part? t.vf = some p → p.waitlim ≠ 0 →
      p.waitlim * 1000 ≤ w.spent + (s.thyme - w.since) → s.testWait t w true = s → Reports s t →
      ∃ s', exec (.watchdogWaitlim t.tk) s = .next s' ∧ Excepted s s' t 0x80 w.on.detail t.pc)
    ∧ (∀ (s : State) (t : Team) (w : Wait) (p : Part), Waits s t w → s.part? t.vf = some p →
      (p.waitlim = 0 ∨ w.spent + (s.thyme - w.since) < p.waitlim * 1000) → exec (.watchdogWaitlim t.tk) s = .next s)
    ∧ (∀ (s : State) (t : Team) (u at_ : Nat) (l : Launch) (p : Part), s.teams = [(t.tk, t)] → t.launch = u → s.launch? u = some l →
      l.placedAt = some at_ → l.done = false → s.part? l.vf = some p → p.runlim ≠ 0 → at_ + p.runlim * 1000000 ≤ s.thyme →
      t.running = true → t.rlFired = false → Reports s t →
      ∃ s' v, exec (.watchdogRunlim u) s = .next s' ∧ v = { t with rlFired := true } ∧ Excepted s s' v 0x80 8 t.pc)
    ∧ (∀ (s : State) (u : Nat) (l : Launch), s.launch? u = some l →
      (s.stuck u = false → ∃ s', exec (.deadlockDetection u) s = .next s' ∧ s' = { s with launches := s'.launches }
        ∧ s'.launch? u = some { l with dead := none })
      ∧ (s.stuck u = true → l.dead = none → ∃ s', exec (.deadlockDetection u) s = .next s' ∧ s' = { s with launches := s'.launches }
        ∧ s'.launch? u = some { l with dead := some s.thyme })
      ∧ (∀ d, s.stuck u = true → l.dead = some d → s.thyme < d + 100000 → exec (.deadlockDetection u) s = .next s)
      ∧ (∀ d t w, s.stuck u = true → l.dead = some d → d + 100000 ≤ s.thyme → s.teams = [(t.tk, t)] → t.wait = some w → t.running = true →
        Reports s t → ∃ s', exec (.deadlockDetection u) s = .next s' ∧ Excepted s s' t 0x81 w.on.detail t.pc)))
    ∧ ((∀ (s : State) (c : Nat), (s.cluster c).gated = false → (s.cluster c).waking = false → s.clusterBusy c = false →
      (s.cluster c).idle + 50000 ≤ s.thyme → ∃ s', exec (.clusterPowerGate c) s = .next s' ∧ s' = { s with clusters := s'.clusters }
        ∧ (s'.cluster c).gated = true ∧ s'.isGated c = false ∧ ∀ d, d ≠ c → s'.cluster d = s.cluster d)
    ∧ (∀ (s s1 : State) (u : Nat) (l : Launch), s.launch? u = some l → l.gang = none → s.nextPlacement l.vf = some (u, s1) →
      s.wakes s1 ≠ [] → ∃ s', exec (.fleetPlacement u) s = .next s' ∧ s' = { s with clusters := s'.clusters }
        ∧ ∀ c, s'.cluster c = if c ∈ s.wakes s1 then { s.cluster c with waking := true } else s.cluster c)
    ∧ (∀ (s : State) (c : Nat), s.clusterBusy c = true ∨ s.thyme < (s.cluster c).idle + 50000 → exec (.clusterPowerGate c) s = .next s)
    ∧ (∀ (s : State) (c : Nat), (s.cluster c).waking = true → ∃ s', exec (.clusterWake c) s = .next s'
        ∧ s' = { s with clusters := s'.clusters } ∧ (s'.cluster c).gated = false ∧ (s'.cluster c).waking = false
        ∧ (s'.cluster c).idle = s.thyme))

/-- R3, R150, R153: a core cycle advances time by four ninths of a nanosecond and each allowance by REFILL up to CAP, and no register; a
holder of a port that cannot issue gives it up to a floor-due team, and goes back to its restart point without its latches; where both holders
could, port 0's does (log entry 63, DESIGN CHOICE). R155, R363, Tables 9.4 and 24.7: readings put each stack into its state and the highest
into THERM; a stack that enters Critical has limit 1 and halves the REFILL of its die's cores; a limit moves one step each 100 µs, a Warm
stack's up at 90 degrees too (log entry 64, DESIGN CHOICE); Shutdown, a die at 125 degrees or too little coolant shuts the module down; after
10 s of self-refresh memory is as at power-on, where it reads zero (log entry 3, DESIGN CHOICE). R362, R363, Table 24.6: a sample sets the
module's total, and a die above 2,500 A in two samples running, which stand for 2 µs (log entry 24, DEDUCED), stops issuing; a die above 2,375
A halves its REFILL each 10 µs until it is below 2,250 A, and then doubles it back to its set value, of which a Critical stack holds half; a
trip switches the rail off for 1 ms and drops the die's replicas. -/
def Obligations.ClockAndPower : Prop :=
  ((∀ s : State, s.Keyed → s.todo = [] → fld s.status 7 0 = 1 ∨ fld s.status 7 0 = 3 →
      ∃ s', exec .allowanceRefill s = .next s' ∧ s'.cycle = s.cycle + 1 ∧ s'.frac < 9
      ∧ 9 * s'.thyme + s'.frac = 9 * s.thyme + s.frac + 4 ∧ s'.mem = s.mem ∧ s'.launches.map Prod.fst = s.launches.map Prod.fst
      ∧ (∀ c k, Tbl.get? s.cores c = some k → (s'.core c).allow = min (k.allow + (s.refillOf c : Nat)) (k.cap : Nat))
      ∧ ∀ k t, s.team? k = some t → ∃ t', s'.team? k = some t' ∧ (s.isDet t = false → t'.clock = t.clock) ∧ t' = { t with
          pc := t'.pc, lat := t'.lat, runStart := t'.runStart, clock := t'.clock, forced := t'.forced, floor := t'.floor })
    ∧ (∀ s : State, s.todo ≠ [] ∨ fld s.status 7 0 ≠ 1 ∧ fld s.status 7 0 ≠ 3 → exec .allowanceRefill s = .next s)
    ∧ (∀ (s : State) (sl : Nat) (a b d : Team), s.Keyed → (s.slice sl).p0.run = some a.tk → (s.slice sl).p1.run = some b.tk →
      s.team? a.tk = some a → d ∈ s.rotation sl → d.running = true → d.wait = none → 512 ≤ d.floor → d.tk ≠ a.tk → d.tk ≠ b.tk →
      (s.slice sl).p0.prot = false → s.eligible a = false →
      ∃ s' a', exec (.floorDue sl) s = .next s' ∧ s' = { s with teams := s'.teams, cores := s'.cores } ∧ s'.team? a.tk = some a'
        ∧ a' = { a with
            pc := s.rpc a, lat := [], runStart := none, forced := true
            clock := if s.isDet a = true ∧ s.inRun a = true ∧ a.runStart.isSome = true then a.runClock else a.clock }
        ∧ (∀ k, k ≠ a.tk → s'.team? k = s.team? k)
        ∧ (s'.slice sl).p0.run = none ∧ (s'.slice sl).p1 = (s.slice sl).p1)
    ∧ (∀ (s : State) (sl : Nat), (∀ d ∈ s.rotation sl, d.floor < 512 ∨ d.running = false ∨ d.wait ≠ none) → exec (.floorDue sl) s = .next s))
    ∧ ((∀ (s : State) (temps dieTemps : List Nat), temps.length = 32 → dieTemps.length = 8 → s.nextHeat ≤ s.thyme → (∀ t ∈ temps, t < 105) →
      (∀ t ∈ dieTemps, t < 125) →
      ∃ s', exec (.stackTemperatureSample temps dieTemps) s = .next s'
        ∧ s' = { s with srams := s'.srams, status := s'.status, dies := s'.dies, nextHeat := s.thyme + 10000 }
        ∧ (∀ d c, dieTemps[d]? = some c → s'.die d = { s.die d with temp := c })
        ∧ (∀ k t, temps[k]? = some t → HeatIs t (s'.stack k).heat ∧ (s'.stack k).temp = t ∧ (s'.stack k).limit = (s.stack k).limit)
        ∧ (∀ k, k < 32 → (s'.stack k).heat ≤ fld s'.status 15 8) ∧ (∃ k, k < 32 ∧ (s'.stack k).heat = fld s'.status 15 8)
        ∧ ∀ b, b < 8 ∨ 16 ≤ b → s'.status.getLsbD b = s.status.getLsbD b)
    ∧ (∀ (s : State) (temps dieTemps : List Nat), s.thyme < s.nextHeat → exec (.stackTemperatureSample temps dieTemps) s = .next s)
    ∧ (∀ (s : State) (temps dieTemps : List Nat) (k t : Nat), temps.length = 32 → s.nextHeat ≤ s.thyme → (∀ u ∈ temps, u < 115) → (∀ u ∈ dieTemps, u < 125) →
      temps[k]? = some t → 105 ≤ t → (s.stack k).heat < 3 →
      (∀ j u, j / 4 = k / 4 → j ≠ k → temps[j]? = some u → u < 105 ∨ 3 ≤ (s.stack j).heat) →
      ∃ s', exec (.stackTemperatureSample temps dieTemps) s = .next s' ∧ s'.stack k = ⟨1, 3, t, (s.stack k).next, (s.stack k).off⟩
        ∧ s'.teams = s.teams ∧ s'.mem = s.mem ∧ s'.die (k / 4) = { s.die (k / 4) with temp := (s'.die (k / 4)).temp }
        ∧ ∀ c, c / 48 = k / 4 → s'.core c = { s.core c with refill := (s.core c).refill / 2 })
    ∧ (∀ (s : State) (temps dieTemps : List Nat), temps.length = 32 → s.nextHeat ≤ s.thyme → fld s.status 7 0 ≠ 3 →
      (∃ t ∈ temps, 115 ≤ t) ∨ (∃ t ∈ dieTemps, 125 ≤ t) →
      ∃ s', exec (.stackTemperatureSample temps dieTemps) s = .next s' ∧ ShutDown s s' 4)
    ∧ (∀ s : State, fld s.status 7 0 ≠ 3 → ∃ s', exec .coolantFlowLow s = .next s' ∧ ShutDown s s' 5 ∧ ∀ k, k < 32 → (s'.stack k).heat = 4)
    ∧ (∀ (s : State) (k : Nat), s.thyme < (s.stack k).next → exec (.thermalLimitStep k) s = .next s)
    ∧ (∀ (s : State) (k : Nat), (s.stack k).next ≤ s.thyme → ∃ s' l, exec (.thermalLimitStep k) s = .next s'
      ∧ s' = { s with srams := s'.srams } ∧ (∀ j, j ≠ k → s'.stack j = s.stack j)
      ∧ s'.stack k = { s.stack k with limit := l, next := s.thyme + 100000 }
      ∧ ((s.stack k).heat = 0 ∨ (s.stack k).heat = 1 ∧ (s.stack k).temp ≤ 90 → l = min 8 ((s.stack k).limit + 1))
      ∧ ((s.stack k).heat = 2 → l = if (s.stack k).limit ≤ 2 then (s.stack k).limit else (s.stack k).limit - 1)
      ∧ ((s.stack k).heat = 1 ∧ 90 < (s.stack k).temp ∨ 3 ≤ (s.stack k).heat → l = (s.stack k).limit))
    ∧ ∀ (s : State) (t : Nat), s.refresh = some t →
      exec .t2SelfRefreshEnd s = .next (if t ≤ s.thyme then { s with refresh := none, mem := [] } else s))
    ∧ ((∀ (s : State) (amps mv : List Nat), s.nextAmps ≤ s.thyme → amps.length = 8 → mv.length = 8 → (∀ a ∈ amps, a ≤ 2750) → (∀ v ∈ mv, 380 ≤ v) →
      ∃ s', exec (.railCurrentSample amps mv) s = .next s' ∧ s' = { s with amps := amps, total := s'.total, dies := s'.dies, nextAmps := s.thyme + 1000 }
        ∧ (20000 < amps.sum → s'.total = amps.sum) ∧ (amps.sum < 19000 → s'.total = 0)
        ∧ (19000 ≤ amps.sum → amps.sum ≤ 20000 → s'.total = if s.total = 0 then 0 else amps.sum)
        ∧ ∀ d a, amps[d]? = some a → s'.die d = { s.die d with
            above := if 2500 < a then (s.die d).above + 1 else 0
            throttle := if 2500 < a ∧ 1 ≤ (s.die d).above then true else if a < 2250 then false else (s.die d).throttle })
    ∧ (∀ (s : State) (amps mv : List Nat), s.thyme < s.nextAmps → exec (.railCurrentSample amps mv) s = .next s)
    ∧ (∀ (s : State) (amps mv : List Nat) (d a v : Nat), s.nextAmps ≤ s.thyme → amps.length = 8 → mv.length = 8 → amps[d]? = some a → mv[d]? = some v →
      2750 < a ∨ v < 380 → 350 ≤ v → (∀ e b, e ≠ d → amps[e]? = some b → b ≤ 2750) → (∀ e w, e ≠ d → mv[e]? = some w → 380 ≤ w) →
      (s.die d).off = false → (s.die d).lost = false → (s.die d).tripAt = none → (∀ e ∈ s.teams, e.2.die = d → e.2.saved ≠ none) →
      ∃ s', exec (.railCurrentSample amps mv) s = .next s' ∧ s'.teams = s.teams ∧ s'.mem = s.mem ∧ (s'.die d).off = true
        ∧ (s'.die d).tripAt = some s.thyme ∧ (s'.die d).lost = false ∧ ∀ e ∈ s'.replicas, e.1 / 2 ^ 40 ≠ d)
    ∧ (∀ (s : State) (d : Nat), s.thyme < (s.die d).next → exec (.currentLimitStep d) s = .next s)
    ∧ (∀ (s : State) (d : Nat), (s.die d).next ≤ s.thyme →
      ∃ s' on, exec (.currentLimitStep d) s = .next s' ∧ s' = { s with dies := s'.dies, cores := s'.cores }
      ∧ s'.die d = { s.die d with limiting := on, next := s.thyme + 10000 } ∧ (∀ e, e ≠ d → s'.die e = s.die e)
      ∧ (2375 < s.amps.getD d 0 → on = true) ∧ (s.amps.getD d 0 < 2250 → on = false)
      ∧ (2250 ≤ s.amps.getD d 0 → s.amps.getD d 0 ≤ 2375 → on = (s.die d).limiting)
      ∧ (∀ c, c / 48 ≠ d → s'.core c = s.core c)
      ∧ ∀ c, c / 48 = d → ∃ r, s'.core c = { s.core c with refill := r }
        ∧ (on = true → 10 < (s.core c).refill → r = max 10 ((s.core c).refill / 2))
        ∧ (on = true → (s.core c).refill ≤ 10 → r = (s.core c).refill)
        ∧ (on = false → (∀ q, q < 4 → (s.stack (4 * d + q)).heat < 3) → r = max (s.core c).refill (min 160 (max 1 (2 * (s.core c).refill))))
        ∧ (on = false → (∃ q, q < 4 ∧ 3 ≤ (s.stack (4 * d + q)).heat) → r = max (s.core c).refill (min 80 (max 1 (2 * (s.core c).refill)))))
    ∧ ∀ (s : State) (d t : Nat), (s.die d).tripAt = some t → (s.die d).off = true → (s.die d).lost = false → fld s.status 7 0 ≠ 3 →
      if s.thyme < t + 1000000 then exec (.coreRailRestore d) s = .next s
      else ∃ s', exec (.coreRailRestore d) s = .next s' ∧ DieAlone s s' d { s.die d with off := false })

/-- R348, R353, R365, R366: the fourth corrected error of a row within an hour starts to spare it, where a spare is left, and the third of
a register-file lane within a minute retires its slice; an uncorrectable error makes its unit lost, changes no byte and starts to spare its
row; one in a register file parks its team with cause REGFILE, one Parked already anew, and retires the slice, which saves the team. The
row in which a unit lies is log entry 39 (DEDUCED). R350, R372: when a die's Thyme departs, every granule of a partition that includes it falls
to degree 0 and its replicas are told to collapse; a load at a home grants nothing until a LEASE after the resynchronisation (log entry 26,
DEDUCED); SYNC tells of the module's own departure. R75, R82, R83, R347: a migration that may start copies a granule while writes to it
wait; its end gives every byte the new place, with the extents and the mapping changed as one (log entry 38, DEDUCED), and is abandoned when a
line of the source or of the destination is lost; an invalidation that has drained removes the object's translations, translates what stands in
its teams' queues anew and completes its command (log entry 44, DEDUCED). -/
def Obligations.ErrorsAndThyme : Prop :=
  ((∀ (s : State) (r : MemRow), ∃ s', exec (.correctedError (.row r)) s = .next s' ∧ s'.teams = s.teams ∧ s'.mem = s.mem
      ∧ (s.rowCount r < 3 → s' = { s with rowErrs := s'.rowErrs } ∧ s'.rowCount r = s.rowCount r + 1)
      ∧ (3 ≤ s.rowCount r → .row r ∉ s.moves → r ∉ s.noSpare →
        (0 < s.spareLeft (Config.spareRegion r) → s' = { s with rowErrs := s'.rowErrs, moves := s.moves ++ [.row r] } ∧ s'.rowCount r = 0)
        ∧ (s.spareLeft (Config.spareRegion r) = 0 → s' = { s with rowErrs := s'.rowErrs, noSpare := s.noSpare ++ [r] } ∧ s'.rowCount r = 0)))
    ∧ (∀ (s : State) (sl lane : Nat), ∃ s', exec (.correctedError (.lane sl lane)) s = .next s'
      ∧ (s.laneErrs sl lane < 2 → s' = { s with regErrs := s'.regErrs } ∧ s'.laneErrs sl lane = s.laneErrs sl lane + 1)
      ∧ (2 ≤ s.laneErrs sl lane → sl ∈ s'.retired))
    ∧ (∀ (s : State) (die line : Nat), ∃ s', exec (.correctedError (.copy die line)) s = .next s' ∧ s'.refetched = s.refetched + 1
      ∧ s'.teams = s.teams ∧ s'.mem = s.mem ∧ Tbl.get? s'.replicas (replicaKey die line) = none
      ∧ (s.rowCount (.l2 (Config.l2Row die line)) < 3 →
        s'.rowCount (.l2 (Config.l2Row die line)) = s.rowCount (.l2 (Config.l2Row die line)) + 1))
    ∧ (∀ (s : State) (r : MemRow), exec (.spareSwap r) s = .next (if .row r ∈ s.moves then
        { s with moves := s.moves.filter fun m => m != .row r, spared := s.spared ++ [r] } else s))
    ∧ (∀ (s : State) (u : LostUnit), (∀ k, u ≠ .elem k) → ∃ s', exec (.uncorrectableError u) s = .next s'
      ∧ (match u with | .cached n => .line n | .mended a => .desc a | x => x) ∈ s'.lost ∧ (∀ x ∈ s.lost, x ∈ s'.lost)
      ∧ (∀ r, s.rowOfUnit u = some r → .row r ∉ s.moves → r ∉ s.noSpare → 0 < s.spareLeft (Config.spareRegion r) → .row r ∈ s'.moves)
      ∧ s' = { s with lost := s'.lost, lostCached := s'.lostCached, rowErrs := s'.rowErrs, moves := s'.moves, noSpare := s'.noSpare })
    ∧ (∀ (s : State) (k : Nat), ∃ s', exec (.uncorrectableError (.elem k)) s = .next s' ∧ (s'.elem k).lost = true ∧ s'.mem = s.mem
      ∧ ∀ j, j ≠ k → s'.elem j = s.elem j)
    ∧ (∀ (s : State) (t : Team) (detail lane : Nat), s.team? t.tk = some t → t.saved = none → t.ended = false → detail = 1 ∨ detail = 2 →
      ∃ s', exec (.regfileError t.tk detail lane) s = .next s' ∧ t.slice ∈ s'.retired)
    ∧ (∀ (s : State) (t : Team) (detail lane : Nat), s.Keyed → s.team? t.tk = some t → t.saved = none → t.ended = false →
      detail = 1 ∨ detail = 2 → Reports s t → (∀ e ∈ s.teams, e.1 ≠ t.tk → e.2.slice ≠ t.slice) →
      (∃ i, i < 6 ∧ 6 * (t.slice / 6) + i ≠ t.slice ∧ 6 * (t.slice / 6) + i ∉ s.retired) →
      ∃ s' t' k, exec (.regfileError t.tk detail lane) s = .next s' ∧ s'.team? t.tk = some t' ∧ t'.park = some k ∧ k.cause = 0x82
        ∧ k.detail = detail ∧ k.pc = t.pc ∧ (∀ j, j ≠ t.tk → s'.team? j = s.team? j) ∧ s'.retired = s.retired ++ (if t.slice ∈ s.retired then [] else [t.slice])
        ∧ (t.slice ∉ s.retired → t'.saved.isSome = true) ∧ t'.v = t.v ∧ t'.p = t.p ∧ t'.s = t.s ∧ t'.mask = t.mask)
    ∧ (∀ (s : State) (t : Team) (detail lane : Nat), s.team? t.tk = some t → t.saved.isSome = true ∨ t.ended = true →
      exec (.regfileError t.tk detail lane) s = .next s))
    ∧ ((∀ (s : State) (d : Nat), ∃ s', exec (.dieThymeDeparture d) s = .next s' ∧ s'.teams = s.teams ∧ s'.mem = s.mem ∧ (s'.die d).thyme = true
      ∧ (∀ vf p start g, (vf, p) ∈ s.parts → s.part? vf = some p → d ∈ p.dies → physGran (start * 65536) = some g → p.owns g = true →
        (Tbl.get? s.grans start).isSome = true → (s'.gran start).degree = 0)
      ∧ ((∀ e ∈ s.replicas, s.thyme < e.2.exp) → ∀ e ∈ s.replicas, ∀ p, s.part? e.2.vf = some p → d ∈ p.dies →
        (e.1 / 2 ^ 40) ∈ (s'.dir e.2.home (e.1 % 2 ^ 40)).col)
      ∧ ∀ vf p, s.part? vf = some p → d ∈ p.dies → s'.thymeFrozen vf = true)
    ∧ (∀ (s : State) (d : Nat), (s.die d).thyme = true → ∃ s', exec (.thymeResync d) s = .next s'
      ∧ DieAlone s s' d { s.die d with thyme := false, resync := some s.thyme }
      ∧ ∀ vf p, s.part? vf = some p → d ∈ p.dies → 0 < p.lease → s'.thymeFrozen vf = true)
    ∧ (∀ (s : State) (vf : Nat) (p : Part), s.part? vf = some p → (s.thymeFrozen vf = true ↔
      ∃ d ∈ p.dies, (s.die d).thyme = true ∨ ∃ r, (s.die d).resync = some r ∧ s.thyme < r + p.lease))
    ∧ (∀ (s : State) (t : Team) (loc home : Nat) (m : ReplMode) (again : Bool), s.thymeFrozen t.vf = true →
      (s.atHome t loc home m true again).replicas = s.replicas)
    ∧ (∀ s : State, ∃ s', exec .moduleThymeDeparture s = .next s' ∧ StatusBit s s' 24 true)
    ∧ ∀ s : State, ∃ s', exec .moduleThymeResync s = .next s' ∧ StatusBit s s' 24 false)
    ∧ ((∀ (s : State) (asid obj g dst src : Nat) (a : Asid) (d : Desc), Tbl.get? s.asids asid = some a → s.objDesc asid obj = some d →
      granOf (s.extents d) g = some src →
      (s.mayMigrate a.vf src dst = true → exec (.hotGranuleMigration asid obj g dst) s = .next { s with moves := s.moves ++ [.gran a.vf src dst] }
        ∧ (s.worn src = false → ∃ k, stackOf dst = some k ∧ (s.stack k).temp < 80) ∧ s.ownsGran a.vf dst = true ∧ s.mappings a.vf dst = []
        ∧ ∀ loc, loc / 65536 = src → loc < 2 ^ 42 → State.writeFrozen { s with moves := s.moves ++ [.gran a.vf src dst] } loc = true)
      ∧ (s.mayMigrate a.vf src dst = false → exec (.hotGranuleMigration asid obj g dst) s = .next s))
    ∧ (∀ (s : State) (vf src dst : Nat), s.moves = [.gran vf src dst] → s.pinsAllow vf src dst = true → s.Canonical → src ≠ dst →
      (∀ n, .line n ∈ s.lost → n / 512 ≠ src ∧ n / 512 ≠ dst) →
      ∃ s', exec (.migrationSwap src) s = .next s' ∧ s'.moves = []
        ∧ (∀ x, x < 65536 →
          (∀ asid o g d, (asid, o, g, d) ∈ s.mappings vf src →
            (dst * 65536 + x < d.extp ∨ d.extp + 8 * d.ecap ≤ dst * 65536 + x)
            ∧ (dst * 65536 + x < s.descLoc asid o + 8 ∨ s.descLoc asid o + 16 ≤ dst * 65536 + x)) →
          Memory.get s'.mem (dst * 65536 + x) = Memory.get s.mem (src * 65536 + x))
        ∧ ∀ asid o g d, (asid, o, g, d) ∈ s.mappings vf src → ∀ e ∈ s'.tlb, ¬ (e.asid = asid ∧ e.obj = o))
    ∧ (∀ (s : State) (vf src dst asid o g : Nat) (d : Desc) (es : List QWord), s.moves = [.gran vf src dst] → s.pinsAllow vf src dst = true →
      (∀ n, .line n ∈ s.lost → n / 512 ≠ src ∧ n / 512 ≠ dst) → s.mappings vf src = [(asid, o, g, d)] → dst < 2 ^ 26 →
      (∀ e ∈ s.extents d, fld e 25 0 + fld e 63 40 ≤ 2 ^ 26) → es = s.newExtents d src dst →
      (s.descLoc asid o + 16 ≤ d.extp ∨ d.extp + 8 * es.length ≤ s.descLoc asid o + 8) →
      ∃ s', exec (.migrationSwap src) s = .next s' ∧ (∀ i e, es[i]? = some e → s'.rdQ (d.extp + 8 * i) = e)
        ∧ fld (s'.rdQ (s.descLoc asid o + 8)) 63 52 = es.length ∧ fld (s'.rdQ (s.descLoc asid o + 8)) 51 0 = fld (d.q 1) 51 0
        ∧ ∀ k, granOf es k = if k = g then some dst else granOf (s.extents d) k)
    ∧ (∀ (s : State) (vf src dst n : Nat), s.moves = [.gran vf src dst] → .line n ∈ s.lost → n / 512 = src ∨ n / 512 = dst →
      exec (.migrationSwap src) s = .next { s with moves := [] })
    ∧ (∀ (s : State) (tag vf asid obj : Nat), s.jobs = [.tinval tag vf asid obj] →
      (s.drained asid obj = true → ∃ s', exec (.translationInvalidationComplete asid obj) s = .next s'
        ∧ s'.jobs = [.done tag 0 0] ∧ s'.mem = s.mem ∧ (∀ e ∈ s'.tlb, ¬ (e.asid = asid ∧ e.obj = obj))
        ∧ (∀ e ∈ s.tlb, ¬ (e.asid = asid ∧ e.obj = obj) → e ∈ s'.tlb) ∧ (∀ u ∈ s'.lost, u ∈ s.lost)
        ∧ .mended (s.descLoc asid obj) ∉ s'.lost ∧ (∀ x, .desc x ∈ s.lost → .desc x ∈ s'.lost)
        ∧ (∀ k x, Tbl.get? s.grans k = some x → (s.objMaps asid obj k = true ↔ x.obj ≠ asid * 2 ^ 24 + obj) →
          (s'.gran k).degree = 0 ∧ (s'.gran k).rm = 0 ∧ (s'.gran k).wr = 0)
        ∧ (∀ k x, Tbl.get? s.grans k = some x → (s.objMaps asid obj k = true ↔ x.obj = asid * 2 ^ 24 + obj) → s'.gran k = x)
        ∧ (s.Keyed → ∀ k t, s.team? k = some t → (∀ e ∈ t.tq, s.namesObj asid obj k e.addr = false) →
          (∀ e ∈ t.sq, s.namesObj asid obj k e.addr = false) → s'.team? k = some t)
        ∧ (s.Keyed → ∀ k t e a, s.team? k = some t → t.tq = [] → t.sq = [e] → e.space = .global → isPhys e.loc = true → e.op.isStore = true →
          s.namesObj asid obj k e.addr = true → s'.newPlace t e.addr e.loc = .ok a →
          s'.team? k = some { t with sq := [{ e with loc := a.1, home := a.2 }] })
        ∧ (s.counterGone asid obj = false → s'.elems = s.elems)
        ∧ (s.counterGone asid obj = true → obj < 2 ^ 24 → ∀ i, i < 2 ^ 37 → (s'.elem ((asid * 2 ^ 24 + obj) * 2 ^ 37 + i)).value = 0))
      ∧ (s.drained asid obj = false → exec (.translationInvalidationComplete asid obj) s = .next s)))

/-- R36, R307, R311, R312, R358, R369, R373: PCREATE makes a partition over zeroed free granules; PRESET, a VF's function-level reset and a hot
reset leave it as newly created, with nothing running in it and its memory zero, T2 under its new key too (log entry 3, DESIGN CHOICE);
PDESTROY frees its granules; refused commands change nothing. A reset waits for the rails of its dies and, its launches cancelled meanwhile,
for copies to other modules that are on their way (log entry 41, DEDUCED); the commands' operands are log entry 69's. R310, R358: PRESIZE first stops placement on the granules that leave; once the crews there have ended, every team is saved and
their work is done (log entry 20, DEDUCED) it has the new set, with the granules it gains zero; after 1 s without that it fails and the set is the
old one. -/
def Obligations.PartitionSets : Prop :=
  ((∀ (s : State) (tag vf mask lease : Nat) (rest : List (Nat × AdminCmd)), AdminAt s tag (.pcreate vf mask lease) rest →
      (vf < 32 → 0 < mask → mask < 2 ^ 32 → LeaseOk lease → s.part? vf = none → GransFree s (BitVec.ofNat 32 mask) →
        ∃ s' p, exec .pcreate s = .next s' ∧ NewPart s' vf (BitVec.ofNat 32 mask) lease p ∧ GransZero s' (BitVec.ofNat 32 mask)
          ∧ s'.ring = rest ∧ s'.jobs = [.done tag 0 0] ∧ s'.teams = s.teams ∧ ∀ u, u ≠ vf → s'.part? u = s.part? u)
      ∧ (32 ≤ vf ∨ mask = 0 ∨ 2 ^ 32 ≤ mask ∨ ¬ LeaseOk lease → Answered .pcreate s tag 2 rest)
      ∧ (vf < 32 → 0 < mask → mask < 2 ^ 32 → LeaseOk lease → (s.part? vf).isSome = true → Answered .pcreate s tag 5 rest)
      ∧ (vf < 32 → 0 < mask → mask < 2 ^ 32 → LeaseOk lease → s.part? vf = none → ¬ GransFree s (BitVec.ofNat 32 mask) →
        Answered .pcreate s tag 3 rest))
    ∧ (∀ (s : State) (tag vf : Nat) (p : Part) (rest : List (Nat × AdminCmd)), AdminAt s tag (.preset vf) rest → s.part? vf = some p →
      (ResetReady s vf p → ∃ s' q, exec .preset s = .next s' ∧ NewPart s' vf p.mask 1000 q ∧ PartEmpty s' vf ∧ GransZero s' p.mask
        ∧ s'.ring = rest ∧ s'.jobs = [.done tag 0 0])
      ∧ (s.railsUp p = false → s.awayBusy vf = false → exec .preset s = .next s)
      ∧ (s.awayBusy vf = true → ∃ s', exec .preset s = .next s' ∧ Cancelled s' vf ∧ s'.ring = s.ring ∧ s'.jobs = []
        ∧ (s'.part? vf).map Part.mask = some p.mask))
    ∧ (∀ (s : State) (tag vf : Nat) (p : Part) (rest : List (Nat × AdminCmd)), AdminAt s tag (.pdestroy vf) rest → s.part? vf = some p →
      ResetReady s vf p → ∃ s', exec .pdestroy s = .next s' ∧ s'.part? vf = none ∧ PartEmpty s' vf ∧ GransZero s' p.mask
        ∧ s'.ring = rest ∧ s'.jobs = [.done tag 0 0])
    ∧ (∀ (s : State) (vf : Nat) (p : Part), s.part? vf = some p →
      (ResetReady s vf p →
        ∃ s' q, exec (.vfFunctionLevelReset vf) s = .next s' ∧ NewPart s' vf p.mask 1000 q ∧ PartEmpty s' vf ∧ GransZero s' p.mask)
      ∧ (¬ ResetReady s vf p → ∃ s', exec (.vfFunctionLevelReset vf) s = .next s' ∧ vf ∈ s'.resets
        ∧ (s'.part? vf).map Part.mask = some p.mask ∧ (s.awayBusy vf = true → Cancelled s' vf)))
    ∧ (∀ s : State, ∃ s', exec .hotReset s = .next s'
      ∧ (∀ vf p, s.part? vf = some p → vf ∈ s'.resets ∨ (∃ q, NewPart s' vf p.mask 1000 q) ∧ PartEmpty s' vf)
      ∧ ((∀ d, (s.die d).off = false ∧ (s.die d).tripAt = none) → (∀ e ∈ s.parts, s.awayBusy e.1 = false) →
        (∀ e ∈ s.tlb, e.cluster < 96) →
        ∀ vf p, s.part? vf = some p → (∃ q, NewPart s' vf p.mask 1000 q) ∧ PartEmpty s' vf ∧ GransZero s' p.mask))
    ∧ ∀ s : State, ∃ s', exec .pfFunctionLevelReset s = .next s' ∧ s' = { s with ring := [], jobs := s'.jobs }
      ∧ ∀ j, j ∈ s'.jobs ↔ j ∈ s.jobs ∧ ∀ t x v, j ≠ .done t x v)
    ∧ ((∀ (s : State) (tag vf mask : Nat) (p : Part) (rest : List (Nat × AdminCmd)), AdminAt s tag (.presize vf mask) rest →
      s.part? vf = some p → 0 < mask → mask < 2 ^ 32 → (∀ e ∈ s.parts, e.2.resize = none) →
      GransFree s (BitVec.ofNat 32 mask &&& ~~~ p.mask) →
      ∃ s', exec .presize s = .next s' ∧ s' = { s with ring := rest, parts := s'.parts, jobs := [.presize tag vf] }
        ∧ s'.part? vf = some { p with
            resize := some (tag, BitVec.ofNat 32 mask, s.thyme), noPlace := p.mask &&& ~~~ BitVec.ofNat 32 mask }
        ∧ ∀ u, u ≠ vf → s'.part? u = s.part? u)
    ∧ (∀ (s : State) (tag vf t0 : Nat) (m : BitVec 32) (p : Part), s.parts = [(vf, p)] → p.resize = some (tag, m, t0) → s.crews = [] →
      (∀ e ∈ s.teams, e.2.vf = vf → e.2.saved ≠ none) → s.resizeQuiet vf p = true → s.jobs = [.presize tag vf] →
      ∃ s' q, exec .presize s = .next s' ∧ s'.part? vf = some q ∧ q = { p with mask := m, noPlace := 0, resize := none }
        ∧ GransZero s' (m &&& ~~~ p.mask) ∧ GransZero s' (p.mask &&& ~~~ m) ∧ s'.jobs = [.done tag 0 0] ∧ s'.teams = s.teams)
    ∧ (∀ (s : State) (tag vf t0 : Nat) (m : BitVec 32) (p : Part), s.part? vf = some p → p.resize = some (tag, m, t0) →
      s.jobs = [.presize tag vf] →
      (t0 + 1000000000 ≤ s.thyme → s.resizeClear vf p m = false →
        ∃ s', exec (.presizeTimeout vf) s = .next s' ∧ s' = { s with parts := s'.parts, jobs := [.done tag 10 0] }
          ∧ s'.part? vf = some { p with resize := none, noPlace := 0 })
      ∧ (s.thyme < t0 + 1000000000 ∨ s.resizeClear vf p m = true → exec (.presizeTimeout vf) s = .next s)))

/-- R45, R49, R65, R114, R307, R358, R359: the commands that set a partition's pools, lease and limits and the heartbeat interval set
those and nothing else; an operand out of range, a missing partition and pools under placed launches are answered by their status. R67,
R75, R119, R121, R307 to R309, R358: a queue is made empty and not stopped with the fields of its command, and removed only when stopped and
empty; OTSET names an ASID's object table, keeps the counters of the arrays that both tables map alike and makes granules mapped anew begin at
degree 0 (log entry 30, DEDUCED); TINVAL begins an invalidation; a doorbell reads commands of 64 bytes into an open ring, each by its OP, TAG
and VF, with an unknown OP and a non-zero reserved bit making it bad (its operands' qwords are log entry 69, DESIGN CHOICE); a completion is
posted and raises the PF's vector. R307, R318, R358, R373: STREAD puts the storage target's blocks into an object, STWRITE sends what is complete at
partition scope, once it is (log entry 20, DEDUCED), HOSTCPY copies either way; a failed target, transfer or link gives its status and,
towards the partition, leaves the bytes that came. -/
def Obligations.Administration : Prop :=
  (((∀ (s : State) (tag vf a an b bn c cn : Nat) (p : Part) (rest : List (Nat × AdminCmd)), AdminAt s tag (.pools vf a an b bn c cn) rest →
      s.part? vf = some p →
      ((∀ e ∈ s.launches, e.2.vf = vf → e.2.done = true ∨ e.2.next = 0) →
        PartSet .pools s tag vf { p with lanePool := poolOf a an, framePool := poolOf b bn, listPool := poolOf c cn } rest)
      ∧ ((∃ e ∈ s.launches, e.2.vf = vf ∧ e.2.done = false ∧ 0 < e.2.next) → Answered .pools s tag 5 rest))
    ∧ (∀ (s : State) (tag vf lease : Nat) (p : Part) (rest : List (Nat × AdminCmd)), AdminAt s tag (.setlease vf lease) rest →
      s.part? vf = some p →
      (LeaseOk lease → PartSet .setlease s tag vf { p with lease := lease, leases := p.leases ++ [(p.lease, s.thyme)] } rest)
      ∧ (¬ LeaseOk lease → Answered .setlease s tag 2 rest))
    ∧ (∀ (s : State) (tag hbi : Nat) (rest : List (Nat × AdminCmd)), AdminAt s tag (.sethbi hbi) rest →
      (2250 ≤ hbi → hbi < 2 ^ 24 → exec .sethbi s = .next { s with ring := rest, hbiNext := some hbi, jobs := [.done tag 0 0] })
      ∧ (hbi < 2250 ∨ 2 ^ 24 ≤ hbi → Answered .sethbi s tag 2 rest))
    ∧ (∀ (s : State) (tag vf w r : Nat) (p : Part) (rest : List (Nat × AdminCmd)), AdminAt s tag (.setwdog vf w r) rest →
      s.part? vf = some p → w < 2 ^ 32 → r < 2 ^ 32 → PartSet .setwdog s tag vf { p with waitlim := w, runlim := r } rest)
    ∧ ∀ (s : State) (tag vf x : Nat) (rest : List (Nat × AdminCmd)), s.part? vf = none →
      (AdminAt s tag (.setlease vf x) rest → Answered .setlease s tag 4 rest)
      ∧ (AdminAt s tag (.setwdog vf x x) rest → Answered .setwdog s tag 4 rest)
      ∧ (AdminAt s tag (.preset vf) rest → Answered .preset s tag 4 rest)
      ∧ (AdminAt s tag (.pdestroy vf) rest → Answered .pdestroy s tag 4 rest)
      ∧ (AdminAt s tag (.qdestroy vf x) rest → Answered .qdestroy s tag 4 rest))
    ∧ ((∀ (s : State) (tag vf q base size asid level pmax evb evsize : Nat) (p : Part) (a : Asid) (rest : List (Nat × AdminCmd)),
      AdminAt s tag (.qcreate vf q base size asid level pmax evb evsize) rest → s.part? vf = some p → q < 64 → RingOk size →
      RingOk evsize → asid < 1024 → level < 2 → pmax < 8 → Tbl.get? s.asids asid = some a → a.vf = vf →
      (Tbl.get? p.queues q = none → ∃ s' k, exec .qcreate s = .next s'
        ∧ s' = { s with ring := rest, parts := s'.parts, jobs := [.done tag 0 0] } ∧ s'.queue? vf q = some k
        ∧ k = { base := BitVec.ofNat 64 base, size := size, asid := asid, level := level == 1, pmax := pmax
                evb := BitVec.ofNat 64 evb, evsize := evsize, head := 0, tail := 0, evtail := 0, evhead := 0, stopped := false
                held := [], waiting := none }
        ∧ ∀ j, j ≠ q → s'.queue? vf j = s.queue? vf j)
      ∧ ((Tbl.get? p.queues q).isSome = true → Answered .qcreate s tag 5 rest))
    ∧ (∀ (s : State) (tag vf q : Nat) (k : Queue) (rest : List (Nat × AdminCmd)), AdminAt s tag (.qdestroy vf q) rest →
      s.queue? vf q = some k →
      (k.stopped = true ∧ k.waiting = none ∧ k.head = k.tail → ∃ s', exec .qdestroy s = .next s'
        ∧ s' = { s with ring := rest, parts := s'.parts, jobs := [.done tag 0 0] } ∧ s'.queue? vf q = none
        ∧ ∀ j, j ≠ q → s'.queue? vf j = s.queue? vf j)
      ∧ (¬ (k.stopped = true ∧ k.waiting = none ∧ k.head = k.tail) → Answered .qdestroy s tag 5 rest))
    ∧ (∀ (s : State) (tag vf asid base len : Nat) (p : Part) (rest : List (Nat × AdminCmd)), AdminAt s tag (.otset vf asid base len) rest →
      s.part? vf = some p → asid < 1024 → base < 2 ^ 42 → len ≤ 2 ^ 24 → (∀ a, Tbl.get? s.asids asid = some a → a.vf = vf) →
      (s.ownsGran vf (base / 65536) = true → ∃ s', exec .otset s = .next s'
        ∧ s' = { s with
            ring := rest, asids := s'.asids, elems := s'.elems, grans := s'.grans, dirs := s'.dirs, msgs := s'.msgs, jobs := [.done tag 0 0] }
        ∧ Tbl.get? s'.asids asid = some ⟨vf, base, len⟩
        ∧ (∀ o i, o < 2 ^ 24 → i < 2 ^ 37 → s.sameCounter s' asid o = false → (s'.elem ((asid * 2 ^ 24 + o) * 2 ^ 37 + i)).value = 0)
        ∧ (∀ o i, o < 2 ^ 24 → i < 2 ^ 37 → s.sameCounter s' asid o = true →
          s'.elem ((asid * 2 ^ 24 + o) * 2 ^ 37 + i) = s.elem ((asid * 2 ^ 24 + o) * 2 ^ 37 + i))
        ∧ (∀ g x, Tbl.get? s.grans g = some x →
          s'.gran g = if s.granRenewed s' asid g x = true then { x with degree := 0, rm := 0, wr := 0 } else x)
        ∧ ∀ j, j ≠ asid → Tbl.get? s'.asids j = Tbl.get? s.asids j)
      ∧ (s.ownsGran vf (base / 65536) = false → Answered .otset s tag 3 rest))
    ∧ (∀ (s : State) (tag vf asid obj : Nat) (p : Part) (a : Asid) (rest : List (Nat × AdminCmd)), AdminAt s tag (.tinval vf asid obj) rest →
      s.part? vf = some p → Tbl.get? s.asids asid = some a → a.vf = vf →
      (obj < 2 ^ 24 → exec .tinval s = .next { s with ring := rest, jobs := [.tinval tag vf asid obj] })
      ∧ (2 ^ 24 ≤ obj → Answered .tinval s tag 2 rest))
    ∧ (∀ (s : State) (cmds : List (List (BitVec 64))), ∃ s', exec (.adminDoorbell cmds) s = .next s'
      ∧ (s.adminOpen = false → s' = s)
      ∧ (s.adminOpen = true → s' = { s with ring := s.ring ++ cmds.map decodeCommand, adminHead := s.adminHead + cmds.length, out := s'.out }))
    ∧ (∀ (c : List (BitVec 64)) (q0 : BitVec 64), c.head? = some q0 → (decodeCommand c).1 = fld q0 55 40
      ∧ (fld q0 34 0 ≠ 0 → (decodeCommand c).2 = .bad)
      ∧ (fld q0 63 56 ∉ [1, 2, 3, 4, 5, 6, 7, 8, 0x10, 0x11, 0x12, 0x13, 0x20, 0x30, 0x31] → (decodeCommand c).2 = .bad))
    ∧ (∀ q0 q1 q2 q3 q4 q5 q6 q7 : BitVec 64, fld q0 34 0 = 0 → ∃ vf, vf = fld q0 39 35
      ∧ (fld q0 63 56 = 3 → (decodeCommand [q0, q1, q2, q3, q4, q5, q6, q7]).2 = .preset vf)
      ∧ (fld q0 63 56 = 4 → (decodeCommand [q0, q1, q2, q3, q4, q5, q6, q7]).2 = .pdestroy vf)
      ∧ (fld q0 63 56 = 7 → (decodeCommand [q0, q1, q2, q3, q4, q5, q6, q7]).2 = .sethbi q1.toNat)
      ∧ (fld q0 63 56 = 8 → (decodeCommand [q0, q1, q2, q3, q4, q5, q6, q7]).2 = .setwdog vf (fld q1 31 0) (fld q1 63 32))
      ∧ (fld q0 63 56 = 0x10 → fld q3 33 0 = 0 → (decodeCommand [q0, q1, q2, q3, q4, q5, q6, q7]).2 =
        .qcreate vf q1.toNat q2.toNat (fld q3 63 48) (fld q3 47 38) (fld q3 37 37) (fld q3 36 34) q4.toNat (fld q5 63 48))
      ∧ (fld q0 63 56 = 0x10 → fld q3 33 0 ≠ 0 → (decodeCommand [q0, q1, q2, q3, q4, q5, q6, q7]).2 = .bad)
      ∧ (fld q0 63 56 = 0x12 → (decodeCommand [q0, q1, q2, q3, q4, q5, q6, q7]).2 = .otset vf q1.toNat q2.toNat q3.toNat)
      ∧ (fld q0 63 56 = 0x13 → (decodeCommand [q0, q1, q2, q3, q4, q5, q6, q7]).2 = .tinval vf q1.toNat q2.toNat))
    ∧ (∀ (s : State) (tag st v : Nat) (r : List AdminJob), s.jobs = .done tag st v :: r →
      exec .adminCompletion s = .next { s with
        jobs := r, posted := s.posted ++ [(tag, st, v)], out := if s.hostLink = true then s.out ++ [.msix 32 0] else s.out })
    ∧ ∀ (s : State) (tag : Nat) (rest : List (Nat × AdminCmd)), AdminAt s tag .bad rest →
      exec .adminCompletion s = .next { s with
        ring := rest, posted := s.posted ++ [(tag, 1, 0)], out := if s.hostLink = true then s.out ++ [.msix 32 0] else s.out })
    ∧ ((∀ (s : State) (tag vf ns lba n h a : Nat) (p : Part) (bs : List Byte) (rest : List (Nat × AdminCmd)),
      AdminAt s tag (.stread vf ns lba n h) rest → s.part? vf = some p → s.vfAsid vf = some a →
      (Answered (.stread none) s tag 7 rest)
      ∧ (s.storageLink = false → bs.length = 4096 * n → Answered (.stread (some bs)) s tag 7 rest)
      ∧ (∀ s1, s.storageLink = true → bs.length = 4096 * n → State.storeHandle { s with ring := rest } a vf (BitVec.ofNat 64 h) bs = .ok s1 →
        exec (.stread (some bs)) s = .next { s1 with jobs := s1.jobs ++ [.stread tag vf a (BitVec.ofNat 64 h) (4096 * n)] }))
    ∧ (∀ (s : State) (tag vf a n : Nat) (h : QWord) (r : List AdminJob), s.jobs = .stread tag vf a h n :: r →
      (s.rangeComplete a vf h n = true → exec .adminCompletion s = .next { s with
        jobs := r, posted := s.posted ++ [(tag, 0, 0)], out := if s.hostLink = true then s.out ++ [.msix 32 0] else s.out })
      ∧ (s.rangeComplete a vf h n = false → exec .adminCompletion s = .next s))
    ∧ (∀ (s : State) (tag vf ns lba n h a : Nat) (p : Part) (bs : List Byte) (rest : List (Nat × AdminCmd)),
      AdminAt s tag (.stwrite vf ns lba n h) rest → s.part? vf = some p → s.vfAsid vf = some a →
      (Answered (.stwrite false) s tag 7 rest)
      ∧ (s.storageLink = false → Answered (.stwrite true) s tag 7 rest)
      ∧ (s.storageLink = true → State.rangeComplete { s with ring := rest } a vf (BitVec.ofNat 64 h) (4096 * n) = false →
        exec (.stwrite true) s = .next s)
      ∧ (s.storageLink = true → State.rangeComplete { s with ring := rest } a vf (BitVec.ofNat 64 h) (4096 * n) = true →
        State.readHandle { s with ring := rest } a vf (BitVec.ofNat 64 h) (4096 * n) = .ok bs →
        exec (.stwrite true) s = .next { s with ring := rest, out := s.out ++ [.store ns lba bs], jobs := [.done tag 0 0] }))
    ∧ (∀ (s : State) (tag vf addr h n a : Nat) (toHost : Bool) (p : Part) (rest : List (Nat × AdminCmd)),
      AdminAt s tag (.hostcpy vf addr h n toHost) rest → s.part? vf = some p → s.vfAsid vf = some a →
      (s.hostLink = false → ∀ d, Answered (.hostcpy d) s tag 6 rest)
      ∧ (s.hostLink = true → toHost = false → Answered (.hostcpy none) s tag 6 rest)
      ∧ (s.hostLink = true → toHost = true → ∀ d bs, State.readHandle { s with ring := rest } a vf (BitVec.ofNat 64 h) n = .ok bs →
        exec (.hostcpy d) s = .next { s with ring := rest, out := s.out ++ [.toHost addr bs], jobs := [.done tag 0 0] })
      ∧ (s.hostLink = true → toHost = false → ∀ bs s1, bs.length ≤ n →
        State.storeHandle { s with ring := rest } a vf (BitVec.ofNat 64 h) bs = .ok s1 →
        exec (.hostcpy (some bs)) s = .next { s1 with jobs := s1.jobs ++ [.done tag (if bs.length < n then 6 else 0) 0] }))
    ∧ ∀ (s s1 : State) (asid vf : Nat) (h : QWord) (bs : List Byte), s.Canonical → s.storeHandle asid vf h bs = .ok s1 →
      s1.teams = s.teams ∧ s1.launches = s.launches ∧ s1.ring = s.ring ∧ s1.jobs = s.jobs
        ∧ ∀ x, (∀ d ps, s.checkGlobal 999 asid .store h 0 bs.length 0 0 = .ok d →
          s.globalPieces 999 asid vf d (hObj h) (hOff h) bs.length = .ok ps → ∀ q ∈ ps, x < q.loc ∨ q.loc + q.len ≤ x) →
          Memory.get s1.mem x = Memory.get s.mem x))
    ∧ ∀ (s : State) (tag vf a b c d e f : Nat) (p : Part) (rest : List (Nat × AdminCmd)), s.part? vf = some p →
      (AdminAt s tag (.pools vf a b c d e f) rest → (∀ x ∈ s.launches, x.2.vf = vf → x.2.done = true ∨ x.2.next = 0) →
        ∃ s', Sys2Proof.Machine.exec .pools s = .next s' ∧ s'.jobs = [.done tag 0 0])
      ∧ (AdminAt s tag (.setlease vf a) rest → LeaseOk a → ∃ s', Sys2Proof.Machine.exec .setlease s = .next s' ∧ s'.jobs = [.done tag 0 0])
      ∧ (AdminAt s tag (.setwdog vf a b) rest → a < 2 ^ 32 → b < 2 ^ 32 →
        ∃ s', Sys2Proof.Machine.exec .setwdog s = .next s' ∧ s'.jobs = [.done tag 0 0])

/-- R315, R358, R370, R372: GANG makes this module a member; arms reach the leader, whose last one sends GO, 2 us ahead or at once in
eager mode; a member takes its GO; completions are gathered; a missing arm after 10 ms, a word from elsewhere or, in an eager member, 20
ms of silence give the gang up. That GANG names a queue and a ring entry and completes when it is accepted, and what becomes of an aborted
member, are log entry 40 (DEDUCED), its operands' qwords log entry 69 (DESIGN CHOICE). -/
def Obligations.GangProtocol : Prop :=
  (∀ (s : State) (tag vf n count member leader q entry : Nat) (eager : Bool) (k : Queue) (rest : List (Nat × AdminCmd)),
      AdminAt s tag (.gang vf n count member leader eager q entry) rest → s.queue? vf q = some k → Tbl.get? s.gangs n = none →
      2 ≤ count → count ≤ 64 → member < count → leader < 64 → entry < k.size → (eager = true ∨ s.status.getLsbD 24 = false) →
      (member = 0 ∨ leader = s.modNum ∨ leader ∈ s.routes) →
      (s.gangLaunch vf q entry = none → ∃ s', exec .gang s = .next s'
        ∧ s' = { s with ring := rest, gangs := s'.gangs, jobs := [.done tag 0 0] }
        ∧ s'.gang n = ⟨n, count, member, leader, eager, vf, q, entry, 0, false, [], none, s.thyme, 0, [], false, tag⟩)
      ∧ (∀ u l, s.gangLaunch vf q entry = some u → s.launch? u = some l → l.cor = true → ∃ s' l', exec .gang s = .next s'
        ∧ s'.jobs = [.done tag 0 0] ∧ s'.launch? u = some l' ∧ l'.gang = some n ∧ (s'.gang n).launch = u ∧ s'.teams = s.teams))
    ∧ (∀ (s : State) (tag vf n count member leader q entry : Nat) (k : Queue) (rest : List (Nat × AdminCmd)),
      AdminAt s tag (.gang vf n count member leader false q entry) rest → s.queue? vf q = some k → Tbl.get? s.gangs n = none →
      2 ≤ count → count ≤ 64 → member < count → leader < 64 → entry < k.size → s.gangLaunch vf q entry = none →
      s.status.getLsbD 24 = true → Answered .gang s tag 9 rest)
    ∧ (∀ (s : State) (n m : Nat) (g : Gang), Leads s n g → m ∉ g.arms →
      ((∃ i, 0 < i ∧ i < g.count ∧ i ≠ m ∧ i ∉ g.arms) → ∃ s', exec (.arm n m) s = .next s'
        ∧ GangAlone s s' n { g with arms := g.arms ++ [m] })
      ∧ ((∀ i, 0 < i → i < g.count → i = m ∨ i ∈ g.arms) → ∃ s' t0, exec (.arm n m) s = .next s'
        ∧ t0 = (if g.eager = true then s.thyme else s.thyme + 2000) ∧ s' = { s with gangs := s'.gangs, out := s.out ++ [.go n t0] }
        ∧ s'.gang n = { g with arms := g.arms ++ [m], go := some t0 }))
    ∧ (∀ (s : State) (n t0 : Nat) (g : Gang), s.gang n = g → g.number = n → g.member ≠ 0 → g.closed = false → g.go = none →
      ∃ s', exec (.go n t0) s = .next s' ∧ GangAlone s s' n { g with go := some t0 })
    ∧ (∀ (s s1 : State) (n : Nat) (g : Gang) (l : Launch), s.gang n = g → g.count ≠ 0 → s.launch? g.launch = some l →
      (∀ e ∈ s.launches, e.1 = g.launch → e.2 = l) → l.done = false → l.cancel = false → l.placed = false → s.gangMay l = true →
      s.tryPlace g.launch l = some s1 → s.wakes s1 = [] →
      ∃ s' l', exec (.gangStart n) s = .next s' ∧ s'.launch? g.launch = some l'
        ∧ l'.next = (if l.cor then l.next + l.nfleets else l.next + 1))
    ∧ (∀ (s : State) (n m : Nat) (g : Gang), s.gang n = g → g.number = n → g.count ≠ 0 → g.closed = false →
      ∃ s', exec (.abort n m) s = .next s' ∧ GangGivenUp s s' n ∧ (g.member = 0 → ∃ pre, s'.out = pre ++ [.abort n m]))
    ∧ (∀ (s : State) (n m : Nat) (g : Gang), s.gang n = g → g.number = n → g.count ≠ 0 → g.member = 0 → g.closed = false → m ∉ g.dones →
      ((∃ i, i < g.count ∧ i ≠ m ∧ i ∉ g.dones) → ∃ s', exec (.gangMemberCompletion n m) s = .next s'
        ∧ GangAlone s s' n { g with dones := g.dones ++ [m] })
      ∧ ((∀ i, i < g.count → i = m ∨ i ∈ g.dones) → ∃ s', exec (.gangMemberCompletion n m) s = .next s'
        ∧ s'.gang n = { g with dones := g.dones ++ [m], closed := true } ∧ s'.teams = s.teams))
    ∧ (∀ (s : State) (n : Nat) (g : Gang), Leads s n g →
      (∀ m, g.at_ + 10000000 ≤ s.thyme → 0 < m → m < g.count → m ∉ g.arms → (∀ i, 0 < i → i < m → i ∈ g.arms) →
        ∃ s' pre, exec (.gangTimerExpiry n) s = .next s' ∧ GangGivenUp s s' n ∧ s'.out = pre ++ [.abort n m])
      ∧ (s.thyme < g.at_ + 10000000 → exec (.gangTimerExpiry n) s = .next s))
    ∧ ∀ (s : State) (n : Nat) (g : Gang), s.gang n = g → g.number = n → g.count ≠ 0 → g.member ≠ 0 → g.closed = false → g.eager = true →
      g.armed = true → g.go = none →
      (g.armAt + 20000000 ≤ s.thyme → ∃ s', exec (.eagerGangTimeout n) s = .next s' ∧ GangGivenUp s s' n)
      ∧ (s.thyme < g.armAt + 20000000 → exec (.eagerGangTimeout n) s = .next s)

/-- R314, R371: a request is checked at its home as a local access is, and performed once: a read answers the bytes there, a write puts
its bytes there, an atomic answers the old value and writes the new one; a failed check is answered with its cause; a duplicate is
answered as before and changes nothing. R314, R345, R355, R371, R372: an answer ends its request: an atomic takes the old value, a copy's
chunk goes on; a refusal, a data error or a missing route for 1 ms is REMOTE for an atomic and drops a copy; a port goes down after 8
failed retries in a row or 1,000 in 1 ms, and the routes are then to be recomputed. The link below messages is log entry 22 (DESIGN CHOICE). -/
def Obligations.Fabric : Prop :=
  ((∀ (s : State) (r : RemoteReq) (n : Nat) (ps : List Piece), RemoteOk s r ps → r.op = .read n →
      ∃ s', exec (.remoteRequest r) s = .next s' ∧ s' = { s with out := s'.out, served := s'.served }
        ∧ Answers s s' r (.ok (ps.flatMap fun p => Memory.read s.mem p.loc p.len)))
    ∧ (∀ (s : State) (r : RemoteReq) (bs : List Byte) (p : Piece), RemoteOk s r [p] → r.op = .write bs → p.off = 0 → p.len = bs.length →
      s.Canonical →
      ∃ s', exec (.remoteRequest r) s = .next s' ∧ Answers s s' r (.ok []) ∧ s'.mem = Memory.write s.mem p.loc bs)
    ∧ (∀ (s : State) (r : RemoteReq) (o : AOp) (n old new : Nat) (v : QWord) (p : Piece), RemoteOk s r [p] → r.op = .rmw o n v →
      n = 4 ∨ n = 8 → old = leNat (Memory.read s.mem p.loc n) →
      new = (if n = 8 then (atomOp o (BitVec.ofNat 64 old) v).toNat else (atomOp o (BitVec.ofNat 32 old) (v.setWidth 32)).toNat) →
      s.Canonical →
      ∃ s', exec (.remoteRequest r) s = .next s' ∧ Answers s s' r (.ok (leBytes n old)) ∧ Wrote s s' p.loc n new)
    ∧ (∀ (s : State) (r : RemoteReq) (f : FInfo) (n : Nat), s.up = true → (∀ x ∈ s.served, ¬ (x.1 = r.src ∧ x.2.1 = r.seq)) →
      r.op = .read n → (Tbl.get? s.asids r.asid).isSome = true →
      s.checkGlobal 999 r.asid .copyRead (mkHandle r.obj r.off) 0 n 0 1 = .error f →
      ∃ s', exec (.remoteRequest r) s = .next s' ∧ s' = { s with out := s'.out, served := s'.served }
        ∧ Answers s s' r (.refused f.cause f.detail))
    ∧ (∀ (s : State) (r : RemoteReq) (a : RemoteAns), s.up = true → (r.src, r.seq, a) ∈ s.served →
      (∀ x ∈ s.served, x.1 = r.src → x.2.1 = r.seq → x.2.2 = a) →
      exec (.remoteRequest r) s = .next { s with out := s.out ++ [.answer r.src r.seq a] })
    ∧ ∀ (s : State) (r : RemoteReq), s.up = false → exec (.remoteRequest r) s = .next s)
    ∧ ((∀ (s : State) (t : Team) (e : SqEntry) (x : Remote) (a : RemoteAns), s.team? t.tk = some t → s.remotes.find? (fun r => r.id == x.id) = some x →
      x.who = .atom t.tk e →
      ∃ s', exec (.remoteReply x.id a) s = .next s' ∧ s' = { s with teams := s'.teams, remotes := s'.remotes }
        ∧ s'.remotes = s.remotes.filter (fun r => r.id != x.id)
        ∧ (match a with
          | .ok data => ∃ t', s'.team? t.tk = some t' ∧ QueuesOnly t t' ∧ t'.sq = t.sq.filter (fun y => y.id != e.id)
              ∧ Delivered t t' (if e.returns = true then e.dest else .none) (leNat data)
          | .refused c d => RemoteFails s s' t e 2 (256 * c + d)
          | .dataError => RemoteFails s s' t e 3 0))
    ∧ (∀ (s : State) (core cid : Nat) (x : Remote) (c : Copy) (bs : List Byte), s.remotes.find? (fun r => r.id == x.id) = some x →
      x.who = .chunk core cid → x.req.op = .write bs → (s.core core).copies = [c] → c.id = cid →
      ∃ s', exec (.remoteReply x.id (.ok [])) s = .next s' ∧ s'.teams = s.teams ∧ s'.mem = s.mem
        ∧ (s'.core core).copies = [{ c with
            remote := c.remote - 1, buf := if c.reads = [] ∧ c.puts = [] ∧ c.remote ≤ 1 then [] else c.buf }])
    ∧ (∀ (s : State) (core cid n : Nat) (x : Remote) (c : Copy) (data : List Byte), s.remotes.find? (fun r => r.id == x.id) = some x →
      x.who = .chunk core cid → x.req.op = .read n → (s.core core).copies = [c] → c.id = cid → c.fail = false →
      ∃ s' c', exec (.remoteReply x.id (.ok data)) s = .next s' ∧ s'.teams = s.teams ∧ s'.mem = s.mem ∧ (s'.core core).copies = [c']
        ∧ c' = { c with remote := c.remote - 1, buf := c'.buf }
        ∧ (∀ i b, data[i]? = some b → Tbl.get? c'.buf (x.req.off - hOff c.src.reg + i) = some b)
        ∧ ∀ k, (k < x.req.off - hOff c.src.reg ∨ x.req.off - hOff c.src.reg + data.length ≤ k) → Tbl.get? c'.buf k = Tbl.get? c.buf k)
    ∧ (∀ (s : State) (t : Team) (e : SqEntry) (x : Remote), s.team? t.tk = some t → s.remotes.find? (fun r => r.id == x.id) = some x →
      x.who = .atom t.tk e →
      (x.dest ∉ s.routes → x.at_ + 1000000 ≤ s.thyme → ∃ s', exec (.remoteNoRoute x.id) s = .next s' ∧ RemoteFails s s' t e 1 x.dest
        ∧ s'.remotes = s.remotes.filter (fun r => r.id != x.id))
      ∧ (x.dest ∈ s.routes ∨ s.thyme < x.at_ + 1000000 → exec (.remoteNoRoute x.id) s = .next s))
    ∧ (∀ (s : State) (k : Nat) (ok : Bool) (p : FabPort), Tbl.get? s.ports k = some p → p.up = true → p.eth = false → ∃ s' q,
      exec (.flitRetry k ok) s = .next s' ∧ s' = { s with ports := s'.ports, status := s'.status, routing := s.routing || !q.up } ∧ Tbl.get? s'.ports k = some q
        ∧ q.fails = (if ok = true then 0 else p.fails + 1)
        ∧ (q.up = true ↔ q.fails < 8 ∧ (p.times.filter fun t => decide (s.thyme < t + 1000000)).length < 999)
        ∧ ∀ j, j ≠ k → Tbl.get? s'.ports j = Tbl.get? s.ports j)
    ∧ ∀ (s : State) (reach : List Nat), exec (.routesRecomputed reach) s = .next { s with routes := reach, routing := false })

/-- R306, R373: a host write through BAR2 puts its bytes at the addresses its offsets name, and a poisoned one is discarded whole; a read
answers the bytes there; the link drops MSI-X messages while it is down. R316, R317, R374, R375: an image that passes brings the module up
with T1 zero, its 18 ports up and the administration queue open; one that fails leaves recovery with its reason, until a later image
passes and is written to the boot flash, from which the module then boots; SPDM and Redfish requests are answered and change nothing else.
The bytes of SPDM replies are log entry 12 (DESIGN CHOICE), the form and moment of a management reply log entry 21 (DESIGN CHOICE), the routes
that a boot sets and the links below messages log entry 22 (DESIGN CHOICE). -/
def Obligations.HostAndBoot : Prop :=
  ((∀ (s : State) (vf off : Nat) (bs : List Byte), s.Canonical → s.hostLink = true → s.lost = [] → s.moves = [] →
      (∀ i, i < bs.length → (s.bar2Addr vf (off + i)).isSome = true) →
      ∃ s', exec (.hostBar2Write vf off bs false) s = .next s' ∧ s'.teams = s.teams
        ∧ (∀ i a, i < bs.length → s.bar2Addr vf (off + i) = some a → Memory.get s'.mem a = bs.getD i 0)
        ∧ ∀ a, (∀ i, i < bs.length → s.bar2Addr vf (off + i) ≠ some a) → Memory.get s'.mem a = Memory.get s.mem a)
    ∧ (∀ (s : State) (vf off : Nat) (bs : List Byte), exec (.hostBar2Write vf off bs true) s = .next s)
    ∧ (∀ (s : State) (vf off n : Nat), s.hostLink = true → s.lost = [] → (∀ i, i < n → (s.bar2Addr vf (off + i)).isSome = true) →
      ∃ bs, exec (.hostBar2Read vf off n) s = .next { s with out := s.out ++ [.bar2 bs] } ∧ bs.length = n
        ∧ ∀ i a, i < n → s.bar2Addr vf (off + i) = some a → bs.getD i 0 = Memory.get s.mem a)
    ∧ (∀ s : State, exec .pcieLinkDown s = .next { s with hostLink := false } ∧ exec .pcieLinkUp s = .next { s with hostLink := true })
    ∧ ∀ (s : State) (vf q : Nat), s.hostLink = false → s.msix vf q = s)
    ∧ ((∀ (s : State) (c : ImageCheck), fld s.status 7 0 = 0 → s.flash = some .good ∨ s.flash = none ∧ c = .good →
      ∃ s', exec (.boot c) s = .next s'
      ∧ s' = { s with
          status := s'.status, mem := s'.mem, dies := s'.dies, srams := s'.srams, ports := s'.ports, routes := Config.bootRoutes
          adminOpen := true }
      ∧ (∀ d, s'.die d = { s.die d with off := (s.die d).lost }) ∧ (∀ k, s'.stack k = { s.stack k with off := false })
      ∧ fld s'.status 7 0 = 1 ∧ (∀ k, k < 18 → Tbl.get? s'.ports k = some ⟨true, false, 0, []⟩) ∧ (∀ a, a < 2 ^ 37 → Memory.get s'.mem a = 0)
      ∧ (s.Canonical → ∀ a, 2 ^ 37 ≤ a → Memory.get s'.mem a = Memory.get s.mem a))
    ∧ (∀ (s : State) (c : ImageCheck) (r : Nat), (c = .badSignature ∧ r = 1) ∨ (c = .badKey ∧ r = 2) ∨ (c = .unreadable ∧ r = 3) →
      (fld s.status 7 0 = 0 → s.flash = none → ∃ s', exec (.boot c) s = .next s' ∧ InRecovery s s' r)
      ∧ (fld s.status 7 0 = 2 → ∃ s', exec (.recoveryRetry c) s = .next s' ∧ InRecovery s s' r))
    ∧ (∀ s : State, fld s.status 7 0 = 2 → ∃ s', exec (.recoveryRetry .good) s = .next s' ∧ s' = { s with status := s'.status, flash := some .good }
      ∧ fld s'.status 7 0 = 0 ∧ fld s'.status 39 32 = 0)
    ∧ (∀ s : State, fld s.status 7 0 ≠ 0 → (∀ c, exec (.boot c) s = .next s))
    ∧ (∀ s : State, fld s.status 7 0 = 1 ∨ fld s.status 7 0 = 3 →
      (∀ i ∈ [Instr.getVersion, .getCapabilities, .getDigests, .getMeasurements],
        ∃ bs, exec i s = .next { s with out := s.out ++ [.spdm 0x13 bs] })
      ∧ (∀ off len, ∃ bs, exec (.getCertificate off len) s = .next { s with out := s.out ++ [.spdm 0x13 bs] } ∧ bs.length ≤ len)
      ∧ (∀ nonce, exec (.challenge nonce) s = .next { s with out := s.out ++ [.spdm 0x13 (Config.spdmSign nonce)] })
      ∧ (∀ offered, .rsassa3072Sha256 ∉ offered →
        exec (.negotiateAlgorithms offered) s = .next { s with out := s.out ++ [.spdm 0x13 []] })
      ∧ (∀ offered, .rsassa3072Sha256 ∈ offered →
        exec (.negotiateAlgorithms offered) s = .next { s with out := s.out ++ [.spdm 0x13 (Config.spdmBytes 2)] })
      ∧ ∀ item, exec (.redfishRequest item) s = .next { s with out := s.out ++ [.redfish item (s.report item)] })
    ∧ (∀ s : State, fld s.status 7 0 = 2 → exec .getMeasurements s = .next { s with out := s.out ++ [.spdm 0x13 (Config.measurements 6 s.fused)] })
    ∧ ∀ (s : State) (item : RedfishItem), fld s.status 7 0 = 2 → exec (.redfishRequest item) s =
      .next (if item = .moduleStatus then { s with out := s.out ++ [.redfish item [s.status.toNat]] } else s))
end

