-- ==== Sys2Proof/Laws/Exec.lean ====
section
/-! SUPPORT. exec of each constructor is its meaning. -/

namespace Sys2Proof.Machine

@[simp] theorem exec_vadd (o s) : exec (.vadd o) s = execVadd o s := rfl
@[simp] theorem exec_vsub (o s) : exec (.vsub o) s = execVsub o s := rfl
@[simp] theorem exec_vmul (o s) : exec (.vmul o) s = execVmul o s := rfl
@[simp] theorem exec_vmulh (o s) : exec (.vmulh o) s = execVmulh o s := rfl
@[simp] theorem exec_vmulhn (o s) : exec (.vmulhn o) s = execVmulhn o s := rfl
@[simp] theorem exec_vmad (o s) : exec (.vmad o) s = execVmad o s := rfl
@[simp] theorem exec_vmin (o s) : exec (.vmin o) s = execVmin o s := rfl
@[simp] theorem exec_vmax (o s) : exec (.vmax o) s = execVmax o s := rfl
@[simp] theorem exec_vminn (o s) : exec (.vminn o) s = execVminn o s := rfl
@[simp] theorem exec_vmaxn (o s) : exec (.vmaxn o) s = execVmaxn o s := rfl
@[simp] theorem exec_vand (o s) : exec (.vand o) s = execVand o s := rfl
@[simp] theorem exec_vor (o s) : exec (.vor o) s = execVor o s := rfl
@[simp] theorem exec_vxor (o s) : exec (.vxor o) s = execVxor o s := rfl
@[simp] theorem exec_vandn (o s) : exec (.vandn o) s = execVandn o s := rfl
@[simp] theorem exec_vshl (o s) : exec (.vshl o) s = execVshl o s := rfl
@[simp] theorem exec_vshr (o s) : exec (.vshr o) s = execVshr o s := rfl
@[simp] theorem exec_vsar (o s) : exec (.vsar o) s = execVsar o s := rfl
@[simp] theorem exec_vrot (o s) : exec (.vrot o) s = execVrot o s := rfl
@[simp] theorem exec_vaddc (o s) : exec (.vaddc o) s = execVaddc o s := rfl
@[simp] theorem exec_vsubb (o s) : exec (.vsubb o) s = execVsubb o s := rfl
@[simp] theorem exec_vabsd (o s) : exec (.vabsd o) s = execVabsd o s := rfl
@[simp] theorem exec_vclz (o s) : exec (.vclz o) s = execVclz o s := rfl
@[simp] theorem exec_vpopc (o s) : exec (.vpopc o) s = execVpopc o s := rfl
@[simp] theorem exec_vbrev (o s) : exec (.vbrev o) s = execVbrev o s := rfl
@[simp] theorem exec_vsel (o s) : exec (.vsel o) s = execVsel o s := rfl
@[simp] theorem exec_vmov (o s) : exec (.vmov o) s = execVmov o s := rfl
@[simp] theorem exec_vbfx (o s) : exec (.vbfx o) s = execVbfx o s := rfl
@[simp] theorem exec_vbfi (o s) : exec (.vbfi o) s = execVbfi o s := rfl
@[simp] theorem exec_vadds (o s) : exec (.vadds o) s = execVadds o s := rfl
@[simp] theorem exec_vsubs (o s) : exec (.vsubs o) s = execVsubs o s := rfl
@[simp] theorem exec_vdiv (o s) : exec (.vdiv o) s = execVdiv o s := rfl
@[simp] theorem exec_vrem (o s) : exec (.vrem o) s = execVrem o s := rfl
@[simp] theorem exec_vcmp (o s) : exec (.vcmp o) s = execVcmp o s := rfl
@[simp] theorem exec_vcmpf (o s) : exec (.vcmpf o) s = execVcmpf o s := rfl
@[simp] theorem exec_vpop (o s) : exec (.vpop o) s = execVpop o s := rfl
@[simp] theorem exec_vp2v (o s) : exec (.vp2v o) s = execVp2v o s := rfl
@[simp] theorem exec_vv2p (o s) : exec (.vv2p o) s = execVv2p o s := rfl
@[simp] theorem exec_vfcls (o s) : exec (.vfcls o) s = execVfcls o s := rfl
@[simp] theorem exec_fadd (o s) : exec (.fadd o) s = execFadd o s := rfl
@[simp] theorem exec_fsub (o s) : exec (.fsub o) s = execFsub o s := rfl
@[simp] theorem exec_fmul (o s) : exec (.fmul o) s = execFmul o s := rfl
@[simp] theorem exec_ffma (o s) : exec (.ffma o) s = execFfma o s := rfl
@[simp] theorem exec_fnma (o s) : exec (.fnma o) s = execFnma o s := rfl
@[simp] theorem exec_fmin (o s) : exec (.fmin o) s = execFmin o s := rfl
@[simp] theorem exec_fmax (o s) : exec (.fmax o) s = execFmax o s := rfl
@[simp] theorem exec_fneg (o s) : exec (.fneg o) s = execFneg o s := rfl
@[simp] theorem exec_fabs (o s) : exec (.fabs o) s = execFabs o s := rfl
@[simp] theorem exec_frcp (o s) : exec (.frcp o) s = execFrcp o s := rfl
@[simp] theorem exec_frsq (o s) : exec (.frsq o) s = execFrsq o s := rfl
@[simp] theorem exec_fsqrt (o s) : exec (.fsqrt o) s = execFsqrt o s := rfl
@[simp] theorem exec_fexp2 (o s) : exec (.fexp2 o) s = execFexp2 o s := rfl
@[simp] theorem exec_flog2 (o s) : exec (.flog2 o) s = execFlog2 o s := rfl
@[simp] theorem exec_frint (o s) : exec (.frint o) s = execFrint o s := rfl
@[simp] theorem exec_fscale (o s) : exec (.fscale o) s = execFscale o s := rfl
@[simp] theorem exec_hadd2 (o s) : exec (.hadd2 o) s = execHadd2 o s := rfl
@[simp] theorem exec_hmul2 (o s) : exec (.hmul2 o) s = execHmul2 o s := rfl
@[simp] theorem exec_hfma2 (o s) : exec (.hfma2 o) s = execHfma2 o s := rfl
@[simp] theorem exec_badd2 (o s) : exec (.badd2 o) s = execBadd2 o s := rfl
@[simp] theorem exec_bmul2 (o s) : exec (.bmul2 o) s = execBmul2 o s := rfl
@[simp] theorem exec_bfma2 (o s) : exec (.bfma2 o) s = execBfma2 o s := rfl
@[simp] theorem exec_fdiv (o s) : exec (.fdiv o) s = execFdiv o s := rfl
@[simp] theorem exec_cvt (o s) : exec (.cvt o) s = execCvt o s := rfl
@[simp] theorem exec_cvtscQ (o s) : exec (.cvtscQ o) s = execCvtscQ o s := rfl
@[simp] theorem exec_cvtscD (o s) : exec (.cvtscD o) s = execCvtscD o s := rfl
@[simp] theorem exec_pack (o s) : exec (.pack o) s = execPack o s := rfl
@[simp] theorem exec_unpk (o s) : exec (.unpk o) s = execUnpk o s := rfl
@[simp] theorem exec_dot4i8 (o s) : exec (.dot4i8 o) s = execDot4i8 o s := rfl
@[simp] theorem exec_dot4n8 (o s) : exec (.dot4n8 o) s = execDot4n8 o s := rfl
@[simp] theorem exec_dot8i4 (o s) : exec (.dot8i4 o) s = execDot8i4 o s := rfl
@[simp] theorem exec_dot4e4 (o s) : exec (.dot4e4 o) s = execDot4e4 o s := rfl
@[simp] theorem exec_dot4e5 (o s) : exec (.dot4e5 o) s = execDot4e5 o s := rfl
@[simp] theorem exec_dot8f4 (o s) : exec (.dot8f4 o) s = execDot8f4 o s := rfl
@[simp] theorem exec_qscale (o s) : exec (.qscale o) s = execQscale o s := rfl
@[simp] theorem exec_i2f (o s) : exec (.i2f o) s = execI2f o s := rfl
@[simp] theorem exec_f2i (o s) : exec (.f2i o) s = execF2i o s := rfl
@[simp] theorem exec_xshfl (o s) : exec (.xshfl o) s = execXshfl o s := rfl
@[simp] theorem exec_xup (o s) : exec (.xup o) s = execXup o s := rfl
@[simp] theorem exec_xdn (o s) : exec (.xdn o) s = execXdn o s := rfl
@[simp] theorem exec_xbfly (o s) : exec (.xbfly o) s = execXbfly o s := rfl
@[simp] theorem exec_xbcast (o s) : exec (.xbcast o) s = execXbcast o s := rfl
@[simp] theorem exec_xscan (o s) : exec (.xscan o) s = execXscan o s := rfl
@[simp] theorem exec_vaddi (o s) : exec (.vaddi o) s = execVaddi o s := rfl
@[simp] theorem exec_vandi (o s) : exec (.vandi o) s = execVandi o s := rfl
@[simp] theorem exec_vori (o s) : exec (.vori o) s = execVori o s := rfl
@[simp] theorem exec_vxori (o s) : exec (.vxori o) s = execVxori o s := rfl
@[simp] theorem exec_vshli (o s) : exec (.vshli o) s = execVshli o s := rfl
@[simp] theorem exec_vshri (o s) : exec (.vshri o) s = execVshri o s := rfl
@[simp] theorem exec_vsari (o s) : exec (.vsari o) s = execVsari o s := rfl
@[simp] theorem exec_vldi (o s) : exec (.vldi o) s = execVldi o s := rfl
@[simp] theorem exec_ldl (o s) : exec (.ldl o) s = execLdl o s := rfl
@[simp] theorem exec_stl (o s) : exec (.stl o) s = execStl o s := rfl
@[simp] theorem exec_ldc (o s) : exec (.ldc o) s = execLdc o s := rfl
@[simp] theorem exec_stc (o s) : exec (.stc o) s = execStc o s := rfl
@[simp] theorem exec_ldf (o s) : exec (.ldf o) s = execLdf o s := rfl
@[simp] theorem exec_stf (o s) : exec (.stf o) s = execStf o s := rfl
@[simp] theorem exec_ldd (o s) : exec (.ldd o) s = execLdd o s := rfl
@[simp] theorem exec_std (o s) : exec (.std o) s = execStd o s := rfl
@[simp] theorem exec_ldg (o s) : exec (.ldg o) s = execLdg o s := rfl
@[simp] theorem exec_stg (o s) : exec (.stg o) s = execStg o s := rfl
@[simp] theorem exec_atomg (o s) : exec (.atomg o) s = execAtomg o s := rfl
@[simp] theorem exec_atomgn (o s) : exec (.atomgn o) s = execAtomgn o s := rfl
@[simp] theorem exec_casg (o s) : exec (.casg o) s = execCasg o s := rfl
@[simp] theorem exec_xchg (o s) : exec (.xchg o) s = execXchg o s := rfl
@[simp] theorem exec_faddg (o s) : exec (.faddg o) s = execFaddg o s := rfl
@[simp] theorem exec_atomc (o s) : exec (.atomc o) s = execAtomc o s := rfl
@[simp] theorem exec_sadd (o s) : exec (.sadd o) s = execSadd o s := rfl
@[simp] theorem exec_ssub (o s) : exec (.ssub o) s = execSsub o s := rfl
@[simp] theorem exec_smul (o s) : exec (.smul o) s = execSmul o s := rfl
@[simp] theorem exec_smulh (o s) : exec (.smulh o) s = execSmulh o s := rfl
@[simp] theorem exec_sand (o s) : exec (.sand o) s = execSand o s := rfl
@[simp] theorem exec_sor (o s) : exec (.sor o) s = execSor o s := rfl
@[simp] theorem exec_sxor (o s) : exec (.sxor o) s = execSxor o s := rfl
@[simp] theorem exec_sshl (o s) : exec (.sshl o) s = execSshl o s := rfl
@[simp] theorem exec_sshr (o s) : exec (.sshr o) s = execSshr o s := rfl
@[simp] theorem exec_ssar (o s) : exec (.ssar o) s = execSsar o s := rfl
@[simp] theorem exec_smin (o s) : exec (.smin o) s = execSmin o s := rfl
@[simp] theorem exec_smax (o s) : exec (.smax o) s = execSmax o s := rfl
@[simp] theorem exec_scmp (o s) : exec (.scmp o) s = execScmp o s := rfl
@[simp] theorem exec_spopc (o s) : exec (.spopc o) s = execSpopc o s := rfl
@[simp] theorem exec_sclz (o s) : exec (.sclz o) s = execSclz o s := rfl
@[simp] theorem exec_smov (o s) : exec (.smov o) s = execSmov o s := rfl
@[simp] theorem exec_saddi (o s) : exec (.saddi o) s = execSaddi o s := rfl
@[simp] theorem exec_sandi (o s) : exec (.sandi o) s = execSandi o s := rfl
@[simp] theorem exec_sori (o s) : exec (.sori o) s = execSori o s := rfl
@[simp] theorem exec_sxori (o s) : exec (.sxori o) s = execSxori o s := rfl
@[simp] theorem exec_sshli (o s) : exec (.sshli o) s = execSshli o s := rfl
@[simp] theorem exec_sshri (o s) : exec (.sshri o) s = execSshri o s := rfl
@[simp] theorem exec_sldi (o s) : exec (.sldi o) s = execSldi o s := rfl
@[simp] theorem exec_sldu (o s) : exec (.sldu o) s = execSldu o s := rfl
@[simp] theorem exec_hmake (o s) : exec (.hmake o) s = execHmake o s := rfl
@[simp] theorem exec_haddo (o s) : exec (.haddo o) s = execHaddo o s := rfl
@[simp] theorem exec_redadd (o s) : exec (.redadd o) s = execRedadd o s := rfl
@[simp] theorem exec_redmin (o s) : exec (.redmin o) s = execRedmin o s := rfl
@[simp] theorem exec_redmax (o s) : exec (.redmax o) s = execRedmax o s := rfl
@[simp] theorem exec_redfadd (o s) : exec (.redfadd o) s = execRedfadd o s := rfl
@[simp] theorem exec_ballot (o s) : exec (.ballot o) s = execBallot o s := rfl
@[simp] theorem exec_anyl (o s) : exec (.anyl o) s = execAnyl o s := rfl
@[simp] theorem exec_vbcs (o s) : exec (.vbcs o) s = execVbcs o s := rfl
@[simp] theorem exec_vgetl (o s) : exec (.vgetl o) s = execVgetl o s := rfl
@[simp] theorem exec_vsetl (o s) : exec (.vsetl o) s = execVsetl o s := rfl
@[simp] theorem exec_bra (o s) : exec (.bra o) s = execBra o s := rfl
@[simp] theorem exec_bz (o s) : exec (.bz o) s = execBz o s := rfl
@[simp] theorem exec_bnz (o s) : exec (.bnz o) s = execBnz o s := rfl
@[simp] theorem exec_call (o s) : exec (.call o) s = execCall o s := rfl
@[simp] theorem exec_ret (o s) : exec (.ret o) s = execRet o s := rfl
@[simp] theorem exec_jmpi (o s) : exec (.jmpi o) s = execJmpi o s := rfl
@[simp] theorem exec_rpush (o s) : exec (.rpush o) s = execRpush o s := rfl
@[simp] theorem exec_brv (o s) : exec (.brv o) s = execBrv o s := rfl
@[simp] theorem exec_rjoin (s) : exec (.rjoin) s = execRjoin s := rfl
@[simp] theorem exec_lpush (o s) : exec (.lpush o) s = execLpush o s := rfl
@[simp] theorem exec_brk (o s) : exec (.brk o) s = execBrk o s := rfl
@[simp] theorem exec_cont (o s) : exec (.cont o) s = execCont o s := rfl
@[simp] theorem exec_bloop (o s) : exec (.bloop o) s = execBloop o s := rfl
@[simp] theorem exec_tend (s) : exec (.tend) s = execTend s := rfl
@[simp] theorem exec_yield (s) : exec (.yield) s = execYield s := rfl
@[simp] theorem exec_nop (s) : exec (.nop) s = execNop s := rfl
@[simp] theorem exec_fork (o s) : exec (.fork o) s = execFork o s := rfl
@[simp] theorem exec_forkv (o s) : exec (.forkv o) s = execForkv o s := rfl
@[simp] theorem exec_forkl (o s) : exec (.forkl o) s = execForkl o s := rfl
@[simp] theorem exec_join (s) : exec (.join) s = execJoin s := rfl
@[simp] theorem exec_take (o s) : exec (.take o) s = execTake o s := rfl
@[simp] theorem exec_ppt (s) : exec (.ppt) s = execPpt s := rfl
@[simp] theorem exec_fres (o s) : exec (.fres o) s = execFres o s := rfl
@[simp] theorem exec_frget (o s) : exec (.frget o) s = execFrget o s := rfl
@[simp] theorem exec_enq (o s) : exec (.enq o) s = execEnq o s := rfl
@[simp] theorem exec_refill (o s) : exec (.refill o) s = execRefill o s := rfl
@[simp] theorem exec_waitq (o s) : exec (.waitq o) s = execWaitq o s := rfl
@[simp] theorem exec_trig (s) : exec (.trig) s = execTrig s := rfl
@[simp] theorem exec_waitdep (s) : exec (.waitdep) s = execWaitdep s := rfl
@[simp] theorem exec_sldg (o s) : exec (.sldg o) s = execSldg o s := rfl
@[simp] theorem exec_sstg (o s) : exec (.sstg o) s = execSstg o s := rfl
@[simp] theorem exec_sldc (o s) : exec (.sldc o) s = execSldc o s := rfl
@[simp] theorem exec_sstc (o s) : exec (.sstc o) s = execSstc o s := rfl
@[simp] theorem exec_sldf (o s) : exec (.sldf o) s = execSldf o s := rfl
@[simp] theorem exec_sstf (o s) : exec (.sstf o) s = execSstf o s := rfl
@[simp] theorem exec_sldd (o s) : exec (.sldd o) s = execSldd o s := rfl
@[simp] theorem exec_sstd (o s) : exec (.sstd o) s = execSstd o s := rfl
@[simp] theorem exec_satom (o s) : exec (.satom o) s = execSatom o s := rfl
@[simp] theorem exec_scas (o s) : exec (.scas o) s = execScas o s := rfl
@[simp] theorem exec_sxch (o s) : exec (.sxch o) s = execSxch o s := rfl
@[simp] theorem exec_bcdecAll (o s) : exec (.bcdecAll o) s = execBcdecAll o s := rfl
@[simp] theorem exec_bcdecPart (o s) : exec (.bcdecPart o) s = execBcdecPart o s := rfl
@[simp] theorem exec_bcinc (o s) : exec (.bcinc o) s = execBcinc o s := rfl
@[simp] theorem exec_bcread (o s) : exec (.bcread o) s = execBcread o s := rfl
@[simp] theorem exec_bcset (o s) : exec (.bcset o) s = execBcset o s := rfl
@[simp] theorem exec_fence (o s) : exec (.fence o) s = execFence o s := rfl
@[simp] theorem exec_ifence (o s) : exec (.ifence o) s = execIfence o s := rfl
@[simp] theorem exec_waitv (o s) : exec (.waitv o) s = execWaitv o s := rfl
@[simp] theorem exec_pfetch (o s) : exec (.pfetch o) s = execPfetch o s := rfl
@[simp] theorem exec_repl (o s) : exec (.repl o) s = execRepl o s := rfl
@[simp] theorem exec_bara (o s) : exec (.bara o) s = execBara o s := rfl
@[simp] theorem exec_barw (o s) : exec (.barw o) s = execBarw o s := rfl
@[simp] theorem exec_baraw (o s) : exec (.baraw o) s = execBaraw o s := rfl
@[simp] theorem exec_tbinit (o s) : exec (.tbinit o) s = execTbinit o s := rfl
@[simp] theorem exec_tbarr (o s) : exec (.tbarr o) s = execTbarr o s := rfl
@[simp] theorem exec_tbwait (o s) : exec (.tbwait o) s = execTbwait o s := rfl
@[simp] theorem exec_waitt (o s) : exec (.waitt o) s = execWaitt o s := rfl
@[simp] theorem exec_cpy (o s) : exec (.cpy o) s = execCpy o s := rfl
@[simp] theorem exec_cpyt (o s) : exec (.cpyt o) s = execCpyt o s := rfl
@[simp] theorem exec_mloop (o s) : exec (.mloop o) s = execMloop o s := rfl
@[simp] theorem exec_mld (o s) : exec (.mld o) s = execMld o s := rfl
@[simp] theorem exec_mst (o s) : exec (.mst o) s = execMst o s := rfl
@[simp] theorem exec_mzero (o s) : exec (.mzero o) s = execMzero o s := rfl
@[simp] theorem exec_mscl (o s) : exec (.mscl o) s = execMscl o s := rfl
@[simp] theorem exec_sysr (o s) : exec (.sysr o) s = execSysr o s := rfl
@[simp] theorem exec_sysw (o s) : exec (.sysw o) s = execSysw o s := rfl
@[simp] theorem exec_rmset (o s) : exec (.rmset o) s = execRmset o s := rfl
@[simp] theorem exec_prio (o s) : exec (.prio o) s = execPrio o s := rfl
@[simp] theorem exec_trap (o s) : exec (.trap o) s = execTrap o s := rfl
@[simp] theorem exec_brkpt (o s) : exec (.brkpt o) s = execBrkpt o s := rfl
@[simp] theorem exec_eret (o s) : exec (.eret o) s = execEret o s := rfl
@[simp] theorem exec_tctlState (o s) : exec (.tctlState o) s = execTctlState o s := rfl
@[simp] theorem exec_tctlPark (o s) : exec (.tctlPark o) s = execTctlPark o s := rfl
@[simp] theorem exec_tctlResume (o s) : exec (.tctlResume o) s = execTctlResume o s := rfl
@[simp] theorem exec_tctlKill (o s) : exec (.tctlKill o) s = execTctlKill o s := rfl
@[simp] theorem exec_tctlAbort (o s) : exec (.tctlAbort o) s = execTctlAbort o s := rfl
@[simp] theorem exec_tctlDbg (o s) : exec (.tctlDbg o) s = execTctlDbg o s := rfl
@[simp] theorem exec_haltStop (o s) : exec (.haltStop o) s = execHaltStop o s := rfl
@[simp] theorem exec_haltGo (o s) : exec (.haltGo o) s = execHaltGo o s := rfl
@[simp] theorem exec_cancelLaunch (o s) : exec (.cancelLaunch o) s = execCancelLaunch o s := rfl
@[simp] theorem exec_cancelPhase (o s) : exec (.cancelPhase o) s = execCancelPhase o s := rfl
@[simp] theorem exec_cancelJob (o s) : exec (.cancelJob o) s = execCancelJob o s := rfl
@[simp] theorem exec_impreciseFault (tk s) : exec (.impreciseFault tk) s = execImpreciseFault tk s := rfl
@[simp] theorem exec_satisfyLoad (tk id piece grant s) : exec (.satisfyLoad tk id piece grant) s = execSatisfyLoad tk id piece grant s := rfl
@[simp] theorem exec_replicaCollapse (die line s) : exec (.replicaCollapse die line) s = execReplicaCollapse die line s := rfl
@[simp] theorem exec_leaseExpiry (die line s) : exec (.leaseExpiry die line) s = execLeaseExpiry die line s := rfl
@[simp] theorem exec_leaveStoreQueue (tk id s) : exec (.leaveStoreQueue tk id) s = execLeaveStoreQueue tk id s := rfl
@[simp] theorem exec_perform (core id s) : exec (.perform core id) s = execPerform core id s := rfl
@[simp] theorem exec_atomicPerform (tk id s) : exec (.atomicPerform tk id) s = execAtomicPerform tk id s := rfl
@[simp] theorem exec_fenceComplete (tk id s) : exec (.fenceComplete tk id) s = execFenceComplete tk id s := rfl
@[simp] theorem exec_tlbWalk (cluster asid obj gran s) : exec (.tlbWalk cluster asid obj gran) s = execTlbWalk cluster asid obj gran s := rfl
@[simp] theorem exec_gets (core line s) : exec (.gets core line) s = execGets core line s := rfl
@[simp] theorem exec_getx (core line s) : exec (.getx core line) s = execGetx core line s := rfl
@[simp] theorem exec_data (core line s) : exec (.data core line) s = execData core line s := rfl
@[simp] theorem exec_down (core line s) : exec (.down core line) s = execDown core line s := rfl
@[simp] theorem exec_recall (core line s) : exec (.recall core line) s = execRecall core line s := rfl
@[simp] theorem exec_tack (core line s) : exec (.tack core line) s = execTack core line s := rfl
@[simp] theorem exec_evict (core line s) : exec (.evict core line) s = execEvict core line s := rfl
@[simp] theorem exec_nack (core line s) : exec (.nack core line) s = execNack core line s := rfl
@[simp] theorem exec_pers (core line write s) : exec (.pers core line write) s = execPers core line write s := rfl
@[simp] theorem exec_collapse (die line s) : exec (.collapse die line) s = execCollapse die line s := rfl
@[simp] theorem exec_cack (die line s) : exec (.cack die line) s = execCack die line s := rfl
@[simp] theorem exec_fennelWindowEnd (s) : exec (.fennelWindowEnd) s = execFennelWindowEnd s := rfl
@[simp] theorem exec_shortfallRequest (elem die s) : exec (.shortfallRequest elem die) s = execShortfallRequest elem die s := rfl
@[simp] theorem exec_counterGrant (elem s) : exec (.counterGrant elem) s = execCounterGrant elem s := rfl
@[simp] theorem exec_counterRecall (elem s) : exec (.counterRecall elem) s = execCounterRecall elem s := rfl
@[simp] theorem exec_recallAnswer (elem die s) : exec (.recallAnswer elem die) s = execRecallAnswer elem die s := rfl
@[simp] theorem exec_forwardedBcinc (elem die s) : exec (.forwardedBcinc elem die) s = execForwardedBcinc elem die s := rfl
@[simp] theorem exec_counterRecallTimeout (elem die s) : exec (.counterRecallTimeout elem die) s = execCounterRecallTimeout elem die s := rfl
@[simp] theorem exec_persistentRequestTimeout (core line silent s) : exec (.persistentRequestTimeout core line silent) s = execPersistentRequestTimeout core line silent s := rfl
@[simp] theorem exec_recallTimeout (core line s) : exec (.recallTimeout core line) s = execRecallTimeout core line s := rfl
@[simp] theorem exec_copyChunk (core id s) : exec (.copyChunk core id) s = execCopyChunk core id s := rfl
@[simp] theorem exec_copyComplete (core id s) : exec (.copyComplete core id) s = execCopyComplete core id s := rfl
@[simp] theorem exec_matrixStep (core s) : exec (.matrixStep core) s = execMatrixStep core s := rfl
@[simp] theorem exec_engineCommandComplete (core s) : exec (.engineCommandComplete core) s = execEngineCommandComplete core s := rfl
@[simp] theorem exec_engineStarvationStart (core copy s) : exec (.engineStarvationStart core copy) s = execEngineStarvationStart core copy s := rfl
@[simp] theorem exec_launchQueueDoorbell (vf q tail s) : exec (.launchQueueDoorbell vf q tail) s = execLaunchQueueDoorbell vf q tail s := rfl
@[simp] theorem exec_eventHeadDoorbell (vf q head s) : exec (.eventHeadDoorbell vf q head) s = execEventHeadDoorbell vf q head s := rfl
@[simp] theorem exec_adminDoorbell (cmds s) : exec (.adminDoorbell cmds) s = execAdminDoorbell cmds s := rfl
@[simp] theorem exec_launchPacketRead (vf q s) : exec (.launchPacketRead vf q) s = execLaunchPacketRead vf q s := rfl
@[simp] theorem exec_fleetPlacement (launch s) : exec (.fleetPlacement launch) s = execFleetPlacement launch s := rfl
@[simp] theorem exec_launchReservation (launch s) : exec (.launchReservation launch) s = execLaunchReservation launch s := rfl
@[simp] theorem exec_teamLeavesSlot (tk s) : exec (.teamLeavesSlot tk) s = execTeamLeavesSlot tk s := rfl
@[simp] theorem exec_itemsEnterList (tk id s) : exec (.itemsEnterList tk id) s = execItemsEnterList tk id s := rfl
@[simp] theorem exec_itemQueueFill (core launch list s) : exec (.itemQueueFill core launch list) s = execItemQueueFill core launch list s := rfl
@[simp] theorem exec_itemReturn (core launch list s) : exec (.itemReturn core launch list) s = execItemReturn core launch list s := rfl
@[simp] theorem exec_sageQuiescence (launch s) : exec (.sageQuiescence launch) s = execSageQuiescence launch s := rfl
@[simp] theorem exec_waitReturn (tk s) : exec (.waitReturn tk) s = execWaitReturn tk s := rfl
@[simp] theorem exec_waitvTest (tk grant s) : exec (.waitvTest tk grant) s = execWaitvTest tk grant s := rfl
@[simp] theorem exec_heartbeatTick (s) : exec (.heartbeatTick) s = execHeartbeatTick s := rfl
@[simp] theorem exec_deterministicHeartbeat (tk s) : exec (.deterministicHeartbeat tk) s = execDeterministicHeartbeat tk s := rfl
@[simp] theorem exec_floorDue (slice s) : exec (.floorDue slice) s = execFloorDue slice s := rfl
@[simp] theorem exec_preemption (tk s) : exec (.preemption tk) s = execPreemption tk s := rfl
@[simp] theorem exec_restore (tk slice s) : exec (.restore tk slice) s = execRestore tk slice s := rfl
@[simp] theorem exec_clusterPowerGate (cluster s) : exec (.clusterPowerGate cluster) s = execClusterPowerGate cluster s := rfl
@[simp] theorem exec_clusterWake (cluster s) : exec (.clusterWake cluster) s = execClusterWake cluster s := rfl
@[simp] theorem exec_stackTemperatureSample (temps dieTemps s) : exec (.stackTemperatureSample temps dieTemps) s = execStackTemperatureSample temps dieTemps s := rfl
@[simp] theorem exec_thermalLimitStep (stack s) : exec (.thermalLimitStep stack) s = execThermalLimitStep stack s := rfl
@[simp] theorem exec_hotGranuleMigration (asid obj gran dst s) : exec (.hotGranuleMigration asid obj gran dst) s = execHotGranuleMigration asid obj gran dst s := rfl
@[simp] theorem exec_migrationSwap (src s) : exec (.migrationSwap src) s = execMigrationSwap src s := rfl
@[simp] theorem exec_coolantFlowLow (s) : exec (.coolantFlowLow) s = execCoolantFlowLow s := rfl
@[simp] theorem exec_t2SelfRefreshEnd (s) : exec (.t2SelfRefreshEnd) s = execT2SelfRefreshEnd s := rfl
@[simp] theorem exec_railCurrentSample (amps millivolts s) : exec (.railCurrentSample amps millivolts) s = execRailCurrentSample amps millivolts s := rfl
@[simp] theorem exec_currentLimitStep (die s) : exec (.currentLimitStep die) s = execCurrentLimitStep die s := rfl
@[simp] theorem exec_coreRailRestore (die s) : exec (.coreRailRestore die) s = execCoreRailRestore die s := rfl
@[simp] theorem exec_correctedError (site s) : exec (.correctedError site) s = execCorrectedError site s := rfl
@[simp] theorem exec_spareSwap (row s) : exec (.spareSwap row) s = execSpareSwap row s := rfl
@[simp] theorem exec_uncorrectableError (unit s) : exec (.uncorrectableError unit) s = execUncorrectableError unit s := rfl
@[simp] theorem exec_regfileError (tk detail lane s) : exec (.regfileError tk detail lane) s = execRegfileError tk detail lane s := rfl
@[simp] theorem exec_dieThymeDeparture (die s) : exec (.dieThymeDeparture die) s = execDieThymeDeparture die s := rfl
@[simp] theorem exec_thymeResync (die s) : exec (.thymeResync die) s = execThymeResync die s := rfl
@[simp] theorem exec_moduleThymeDeparture (s) : exec (.moduleThymeDeparture) s = execModuleThymeDeparture s := rfl
@[simp] theorem exec_watchdogWaitlim (tk s) : exec (.watchdogWaitlim tk) s = execWatchdogWaitlim tk s := rfl
@[simp] theorem exec_watchdogRunlim (launch s) : exec (.watchdogRunlim launch) s = execWatchdogRunlim launch s := rfl
@[simp] theorem exec_deadlockDetection (launch s) : exec (.deadlockDetection launch) s = execDeadlockDetection launch s := rfl
@[simp] theorem exec_translationInvalidationComplete (asid obj s) : exec (.translationInvalidationComplete asid obj) s = execTranslationInvalidationComplete asid obj s := rfl
@[simp] theorem exec_hostBar2Write (vf off data poisoned s) : exec (.hostBar2Write vf off data poisoned) s = execHostBar2Write vf off data poisoned s := rfl
@[simp] theorem exec_hostBar2Read (vf off n s) : exec (.hostBar2Read vf off n) s = execHostBar2Read vf off n s := rfl
@[simp] theorem exec_pcreate (s) : exec (.pcreate) s = execPcreate s := rfl
@[simp] theorem exec_presize (s) : exec (.presize) s = execPresize s := rfl
@[simp] theorem exec_presizeTimeout (vf s) : exec (.presizeTimeout vf) s = execPresizeTimeout vf s := rfl
@[simp] theorem exec_preset (s) : exec (.preset) s = execPreset s := rfl
@[simp] theorem exec_pdestroy (s) : exec (.pdestroy) s = execPdestroy s := rfl
@[simp] theorem exec_pools (s) : exec (.pools) s = execPools s := rfl
@[simp] theorem exec_setlease (s) : exec (.setlease) s = execSetlease s := rfl
@[simp] theorem exec_sethbi (s) : exec (.sethbi) s = execSethbi s := rfl
@[simp] theorem exec_setwdog (s) : exec (.setwdog) s = execSetwdog s := rfl
@[simp] theorem exec_qcreate (s) : exec (.qcreate) s = execQcreate s := rfl
@[simp] theorem exec_qdestroy (s) : exec (.qdestroy) s = execQdestroy s := rfl
@[simp] theorem exec_otset (s) : exec (.otset) s = execOtset s := rfl
@[simp] theorem exec_tinval (s) : exec (.tinval) s = execTinval s := rfl
@[simp] theorem exec_gang (s) : exec (.gang) s = execGang s := rfl
@[simp] theorem exec_stread (data s) : exec (.stread data) s = execStread data s := rfl
@[simp] theorem exec_stwrite (ok s) : exec (.stwrite ok) s = execStwrite ok s := rfl
@[simp] theorem exec_hostcpy (data s) : exec (.hostcpy data) s = execHostcpy data s := rfl
@[simp] theorem exec_adminCompletion (s) : exec (.adminCompletion) s = execAdminCompletion s := rfl
@[simp] theorem exec_arm (gang member s) : exec (.arm gang member) s = execArm gang member s := rfl
@[simp] theorem exec_go (gang t0 s) : exec (.go gang t0) s = execGo gang t0 s := rfl
@[simp] theorem exec_gangStart (gang s) : exec (.gangStart gang) s = execGangStart gang s := rfl
@[simp] theorem exec_abort (gang member s) : exec (.abort gang member) s = execAbort gang member s := rfl
@[simp] theorem exec_gangMemberCompletion (gang member s) : exec (.gangMemberCompletion gang member) s = execGangMemberCompletion gang member s := rfl
@[simp] theorem exec_gangTimerExpiry (gang s) : exec (.gangTimerExpiry gang) s = execGangTimerExpiry gang s := rfl
@[simp] theorem exec_eagerGangTimeout (gang s) : exec (.eagerGangTimeout gang) s = execEagerGangTimeout gang s := rfl
@[simp] theorem exec_remoteRequest (r s) : exec (.remoteRequest r) s = execRemoteRequest r s := rfl
@[simp] theorem exec_remoteReply (id a s) : exec (.remoteReply id a) s = execRemoteReply id a s := rfl
@[simp] theorem exec_remoteNoRoute (id s) : exec (.remoteNoRoute id) s = execRemoteNoRoute id s := rfl
@[simp] theorem exec_flitRetry (port ok s) : exec (.flitRetry port ok) s = execFlitRetry port ok s := rfl
@[simp] theorem exec_pcieLinkDown (s) : exec (.pcieLinkDown) s = execPcieLinkDown s := rfl
@[simp] theorem exec_pcieLinkUp (s) : exec (.pcieLinkUp) s = execPcieLinkUp s := rfl
@[simp] theorem exec_hotReset (s) : exec (.hotReset) s = execHotReset s := rfl
@[simp] theorem exec_pfFunctionLevelReset (s) : exec (.pfFunctionLevelReset) s = execPfFunctionLevelReset s := rfl
@[simp] theorem exec_vfFunctionLevelReset (vf s) : exec (.vfFunctionLevelReset vf) s = execVfFunctionLevelReset vf s := rfl
@[simp] theorem exec_boot (image s) : exec (.boot image) s = execBoot image s := rfl
@[simp] theorem exec_recoveryRetry (image s) : exec (.recoveryRetry image) s = execRecoveryRetry image s := rfl
@[simp] theorem exec_getVersion (s) : exec (.getVersion) s = execGetVersion s := rfl
@[simp] theorem exec_getCapabilities (s) : exec (.getCapabilities) s = execGetCapabilities s := rfl
@[simp] theorem exec_negotiateAlgorithms (offered s) : exec (.negotiateAlgorithms offered) s = execNegotiateAlgorithms offered s := rfl
@[simp] theorem exec_getDigests (s) : exec (.getDigests) s = execGetDigests s := rfl
@[simp] theorem exec_getCertificate (off len s) : exec (.getCertificate off len) s = execGetCertificate off len s := rfl
@[simp] theorem exec_challenge (nonce s) : exec (.challenge nonce) s = execChallenge nonce s := rfl
@[simp] theorem exec_getMeasurements (s) : exec (.getMeasurements) s = execGetMeasurements s := rfl
@[simp] theorem exec_redfishRequest (item s) : exec (.redfishRequest item) s = execRedfishRequest item s := rfl
@[simp] theorem exec_allowanceRefill (s) : exec (.allowanceRefill) s = execAllowanceRefill s := rfl
@[simp] theorem exec_moduleThymeResync (s) : exec (.moduleThymeResync) s = execModuleThymeResync s := rfl
@[simp] theorem exec_routesRecomputed (reach s) : exec (.routesRecomputed reach) s = execRoutesRecomputed reach s := rfl

end Sys2Proof.Machine
end

