-- ==== Sys2Proof/Laws/Sparse.lean ====
section
/-! SUPPORT. Tables and memory: a read after a write, what a write leaves alone, and the canonical form that every memory
operation keeps. -/

namespace Sys2Proof.Machine

/-! ## Tables -/

@[simp] theorem Tbl.get?_set_self {α : Type} (t : Tbl α) (n : Nat) (a : α) : Tbl.get? (Tbl.set t n a) n = some a := by
  induction t with
  | nil => simp [Tbl.set, Tbl.get?]
  | cons e r ih =>
    obtain ⟨k, b⟩ := e
    simp only [Tbl.set]
    split
    · simp [Tbl.get?]
    · split
      · simp [Tbl.get?]
      · have : k ≠ n := fun h => by simp_all
        simp [Tbl.get?, this, ih]

theorem Tbl.get?_set_ne {α : Type} (t : Tbl α) (n m : Nat) (a : α) (h : m ≠ n) : Tbl.get? (Tbl.set t n a) m = Tbl.get? t m := by
  induction t with
  | nil => simp [Tbl.set, Tbl.get?, Ne.symm h]
  | cons e r ih =>
    obtain ⟨k, b⟩ := e
    simp only [Tbl.set]
    split
    · simp [Tbl.get?, Ne.symm h]
    · split
      · rename_i h2
        subst h2
        simp [Tbl.get?, Ne.symm h]
      · simp [Tbl.get?, ih]

theorem Tbl.get?_set {α : Type} (t : Tbl α) (n m : Nat) (a : α) :
    Tbl.get? (Tbl.set t n a) m = if m = n then some a else Tbl.get? t m := by
  split
  · subst_vars; simp
  · exact Tbl.get?_set_ne _ _ _ _ ‹_›

theorem Tbl.getD_set {α : Type} (t : Tbl α) (n m : Nat) (a d : α) :
    Tbl.getD (Tbl.set t n a) m d = if m = n then a else Tbl.getD t m d := by
  simp only [Tbl.getD, Tbl.get?_set]
  split <;> rfl

theorem Tbl.get?_modify {α : Type} (t : Tbl α) (n m : Nat) (f : α → α) :
    Tbl.get? (Tbl.modify t n f) m = if m = n then (Tbl.get? t n).map f else Tbl.get? t m := by
  unfold Tbl.modify
  cases h : Tbl.get? t n <;> simp [Tbl.get?_set]
  intro h2
  rw [h2, h]

theorem Tbl.get?_mapVals {α : Type} (t : Tbl α) (n : Nat) (f : α → α) :
    Tbl.get? (Tbl.mapVals t f) n = (Tbl.get? t n).map f := by
  induction t with
  | nil => rfl
  | cons e r ih =>
    obtain ⟨k, b⟩ := e
    simp only [Tbl.mapVals, List.map, Tbl.get?] at *
    split <;> simp_all

theorem Tbl.get?_del {α : Type} (t : Tbl α) (n m : Nat) :
    Tbl.get? (Tbl.del t n) m = if m = n then none else Tbl.get? t m := by
  induction t with
  | nil => simp [Tbl.del, Tbl.get?]
  | cons e r ih =>
    obtain ⟨k, b⟩ := e
    simp only [Tbl.del] at ih
    by_cases h : k = n
    · subst h
      simp only [Tbl.del, List.filter_cons, bne_self_eq_false, Bool.false_eq_true, if_false, ih, Tbl.get?]
      by_cases h2 : m = k
      · simp [h2]
      · simp [h2, Ne.symm h2]
    · have hb : (k != n) = true := by simp [h]
      simp only [Tbl.del, List.filter_cons, hb, if_true, Tbl.get?, ih]
      by_cases h2 : k = m
      · subst h2; simp [h]
      · simp [h2]

/-- A set changes an entry or adds one. -/
theorem Tbl.mem_set {α : Type} (t : Tbl α) (n : Nat) (a : α) (e : Nat × α) (h : e ∈ Tbl.set t n a) : e = (n, a) ∨ e ∈ t := by
  induction t with
  | nil => simp [Tbl.set] at h; exact .inl h
  | cons x r ih =>
    obtain ⟨k, b⟩ := x
    simp only [Tbl.set] at h
    split at h
    · simpa using h
    · split at h
      · simp only [List.mem_cons] at h ⊢; tauto
      · simp only [List.mem_cons] at h ⊢
        rcases h with h | h
        · exact .inr (.inl h)
        · rcases ih h with h | h
          · exact .inl h
          · exact .inr (.inr h)

/-! ## Memory: the canonical form as rising keys with no unlisted value -/

/-- The canonical form as a proposition. -/
theorem Memory.wf_iff (m : Memory) : Memory.wf m = true ↔ m.Pairwise (fun a b => a.1 < b.1) ∧ ∀ e ∈ m, e.2 ≠ Memory.unlisted := by
  induction m with
  | nil => simp [Memory.wf]
  | cons x r ih =>
    obtain ⟨k, b⟩ := x
    cases r with
    | nil => simp [Memory.wf]
    | cons y r =>
      obtain ⟨k', c⟩ := y
      simp only [Memory.wf, Bool.and_eq_true, decide_eq_true_eq, ih, List.pairwise_cons, List.mem_cons, forall_eq_or_imp]
      constructor
      · rintro ⟨⟨h1, h2⟩, ⟨h3, h4⟩, h5, h6⟩
        exact ⟨⟨⟨h2, fun a ha => Nat.lt_trans h2 (h3 a ha)⟩, h3, h4⟩, h1, h5, h6⟩
      · rintro ⟨⟨⟨h2, h3⟩, h4, h5⟩, h1, h6, h7⟩
        exact ⟨⟨h1, h2⟩, ⟨h4, h5⟩, h6, h7⟩

theorem Memory.mem_set (m : Memory) (a : Nat) (b : Byte) (e : Nat × Byte) (h : e ∈ Memory.set m a b) :
    (e = (a, b) ∧ b ≠ Memory.unlisted) ∨ e ∈ m := by
  induction m with
  | nil =>
    simp only [Memory.set] at h
    split at h <;> simp_all
  | cons x r ih =>
    obtain ⟨k, c⟩ := x
    simp only [Memory.set] at h
    split at h
    · split at h <;> simp_all
    · split at h
      · split at h <;> simp_all
        tauto
      · simp only [List.mem_cons] at h ⊢
        rcases h with h | h
        · exact .inr (.inl h)
        · rcases ih h with h | h
          · exact .inl h
          · exact .inr (.inr h)

/-- A write keeps the canonical form. -/
theorem Memory.wf_set (m : Memory) (a : Nat) (b : Byte) (h : Memory.wf m = true) : Memory.wf (Memory.set m a b) = true := by
  rw [Memory.wf_iff] at *
  obtain ⟨h1, h2⟩ := h
  refine ⟨?_, fun e he => ?_⟩
  · induction m with
    | nil =>
      simp only [Memory.set]
      split <;> simp
    | cons x r ih =>
      obtain ⟨k, c⟩ := x
      have hr : List.Pairwise (fun a b => a.1 < b.1) r := (List.pairwise_cons.mp h1).2
      have hk := (List.pairwise_cons.mp h1).1
      simp only [Memory.set]
      split
      · split
        · exact h1
        · rename_i hlt _
          refine List.pairwise_cons.mpr ⟨?_, h1⟩
          intro e he
          rcases List.mem_cons.mp he with rfl | he
          · exact hlt
          · exact Nat.lt_trans hlt (hk e he)
      · split
        · rename_i heq
          subst heq
          split
          · exact hr
          · exact List.pairwise_cons.mpr ⟨hk, hr⟩
        · rename_i h3 h4
          refine List.pairwise_cons.mpr ⟨?_, ih hr fun e he => h2 e (List.mem_cons_of_mem _ he)⟩
          intro e he
          rcases Memory.mem_set r a b e he with ⟨rfl, _⟩ | he
          · simp only; omega
          · exact hk e he
  · rcases Memory.mem_set m a b e he with ⟨rfl, hb⟩ | he
    · exact hb
    · exact h2 e he

/-- A write of a list of bytes keeps the canonical form. -/
theorem Memory.wf_write (bs : List Byte) (m : Memory) (a : Nat) (h : Memory.wf m = true) : Memory.wf (Memory.write m a bs) = true := by
  induction bs generalizing m a with
  | nil => exact h
  | cons b r ih => exact ih _ _ (Memory.wf_set m a b h)

/-- Dropping entries keeps the canonical form. -/
theorem Memory.wf_filter (m : Memory) (p : Host.Cell → Bool) (h : Memory.wf m = true) : Memory.wf (m.filter p) = true := by
  rw [Memory.wf_iff] at *
  exact ⟨h.1.filter p, fun e he => h.2 e (List.mem_filter.mp he).1⟩

theorem Memory.wf_zero (m : Memory) (lo hi : Nat) (h : Memory.wf m = true) : Memory.wf (Memory.zero m lo hi) = true :=
  Memory.wf_filter m _ h

/-! ## Reading after writing -/

/-- In the canonical form a read finds the entry of its address, wherever it stands. -/
theorem Memory.get_of_lt (m : Memory) (a : Nat) (h : ∀ e ∈ m, a < e.1) : Memory.get m a = Memory.unlisted := by
  cases m with
  | nil => rfl
  | cons x r =>
    obtain ⟨k, c⟩ := x
    have : a < k := h (k, c) (by simp)
    simp [Memory.get, this, Nat.ne_of_gt this]

/-- A read after a write to the same address gives the value written. -/
theorem Memory.get_set_self (m : Memory) (a : Nat) (b : Byte) (h : Memory.wf m = true) : Memory.get (Memory.set m a b) a = b := by
  have hp := ((Memory.wf_iff m).mp h).1
  clear h
  induction m with
  | nil =>
    simp only [Memory.set]
    split
    · simp_all [Memory.get]
    · simp [Memory.get]
  | cons x r ih =>
    obtain ⟨k, c⟩ := x
    have hk := (List.pairwise_cons.mp hp).1
    simp only [Memory.set]
    split
    · rename_i hlt
      split
      · rename_i hb
        simp [Memory.get, hb, hlt, Nat.ne_of_gt hlt]
      · simp [Memory.get]
    · split
      · rename_i heq
        subst heq
        split
        · rename_i hb
          rw [hb]
          exact Memory.get_of_lt r a hk
        · simp [Memory.get]
      · rename_i h3 h4
        simp only [Memory.get, if_neg (Ne.symm h4), if_neg h3]
        exact ih (List.pairwise_cons.mp hp).2

/-- A write leaves every other address alone. -/
theorem Memory.get_set_ne (m : Memory) (a c : Nat) (b : Byte) (h : Memory.wf m = true) (hc : c ≠ a) :
    Memory.get (Memory.set m a b) c = Memory.get m c := by
  have hp := ((Memory.wf_iff m).mp h).1
  clear h
  induction m with
  | nil =>
    simp only [Memory.set]
    split
    · rfl
    · simp [Memory.get, Ne.symm hc]
  | cons x r ih =>
    obtain ⟨k, d⟩ := x
    have hk := (List.pairwise_cons.mp hp).1
    simp only [Memory.set]
    split
    · rename_i hlt
      split
      · rfl
      · simp only [Memory.get, if_neg (Ne.symm hc)]
        split
        · have h1 : k ≠ c := by omega
          have h2 : c < k := by omega
          simp [h1, h2]
        · rfl
    · split
      · rename_i heq
        subst heq
        split
        · simp only [Memory.get, if_neg (Ne.symm hc)]
          split
          · exact Memory.get_of_lt r c fun e he => by have := hk e he; omega
          · rfl
        · simp [Memory.get, Ne.symm hc]
      · simp only [Memory.get, ih (List.pairwise_cons.mp hp).2]

/-- What a read gives after a write of bytes: the byte written there, else what was there. -/
theorem Memory.get_write (bs : List Byte) (m : Memory) (a c : Nat) (h : Memory.wf m = true) :
    Memory.get (Memory.write m a bs) c = if a ≤ c ∧ c < a + bs.length then bs.getD (c - a) 0 else Memory.get m c := by
  induction bs generalizing m a with
  | nil =>
    have : ¬ (a ≤ c ∧ c < a + ([] : List Byte).length) := by simp
    simp only [this, if_false, Memory.write]
  | cons b r ih =>
    simp only [Memory.write, ih (Memory.set m a b) (a + 1) (Memory.wf_set m a b h), List.length_cons]
    by_cases h1 : c = a
    · subst h1
      have h2 : ¬ (c + 1 ≤ c ∧ c < c + 1 + r.length) := by omega
      have h3 : c ≤ c ∧ c < c + (r.length + 1) := by omega
      simp [Memory.get_set_self m c b h]
    · by_cases h2 : a + 1 ≤ c ∧ c < a + 1 + r.length
      · have h3 : a ≤ c ∧ c < a + (r.length + 1) := by omega
        rw [if_pos h2, if_pos h3]
        have h4 : c - a = (c - (a + 1)) + 1 := by omega
        rw [h4, List.getD_cons_succ]
      · have h3 : ¬ (a ≤ c ∧ c < a + (r.length + 1)) := by omega
        rw [if_neg h2, if_neg h3, Memory.get_set_ne m a c b h h1]

/-- Reading back the bytes written. -/
theorem Memory.read_write (bs : List Byte) (m : Memory) (a : Nat) (h : Memory.wf m = true) :
    Memory.read (Memory.write m a bs) a bs.length = bs := by
  have key : ∀ (n c : Nat), a ≤ c → c + n = a + bs.length →
      Memory.read (Memory.write m a bs) c n = bs.drop (c - a) := by
    intro n
    induction n with
    | zero =>
      intro c _ hc2
      simp only [Memory.read]
      exact (List.drop_eq_nil_of_le (by omega)).symm
    | succ n ih =>
      intro c hc1 hc2
      have hlt : c - a < bs.length := by omega
      simp only [Memory.read, Memory.get_write bs m a c h, ih (c + 1) (by omega) (by omega)]
      rw [if_pos ⟨hc1, by omega⟩, List.drop_eq_getElem_cons hlt, List.getD_eq_getElem _ _ hlt]
      congr 2
      omega
  have := key bs.length a (Nat.le_refl a) rfl
  simpa using this

theorem Memory.get_read_of_lt (m : Memory) (n a i : Nat) (h : i < n) : (Memory.read m a n).getD i 0 = Memory.get m (a + i) := by
  induction n generalizing a i with
  | zero => omega
  | succ n ih =>
    cases i with
    | zero => simp [Memory.read]
    | succ i =>
      simp only [Memory.read, List.getD_cons_succ, ih (a + 1) i (by omega)]
      congr 1
      omega

end Sys2Proof.Machine
end

