-- ==== Sys2Proof/Laws/State.lean ====
section
/-! SUPPORT. What each update of the state or of a team leaves alone, one lemma per field, and what it changes. -/

namespace Sys2Proof.Machine

/-! ## putTeam changes teams alone -/

@[simp] theorem State.putTeam_agenda (s : State) (t : Team) : (s.putTeam t).agenda = s.agenda := rfl
@[simp] theorem State.putTeam_todo (s : State) (t : Team) : (s.putTeam t).todo = s.todo := rfl
@[simp] theorem State.putTeam_duties (s : State) (t : Team) : (s.putTeam t).duties = s.duties := rfl
@[simp] theorem State.putTeam_cur (s : State) (t : Team) : (s.putTeam t).cur = s.cur := rfl
@[simp] theorem State.putTeam_nextId (s : State) (t : Team) : (s.putTeam t).nextId = s.nextId := rfl
@[simp] theorem State.putTeam_coh (s : State) (t : Team) : (s.putTeam t).coh = s.coh := rfl
@[simp] theorem State.putTeam_free (s : State) (t : Team) : (s.putTeam t).free = s.free := rfl
@[simp] theorem State.putTeam_cycle (s : State) (t : Team) : (s.putTeam t).cycle = s.cycle := rfl
@[simp] theorem State.putTeam_thyme (s : State) (t : Team) : (s.putTeam t).thyme = s.thyme := rfl
@[simp] theorem State.putTeam_frac (s : State) (t : Team) : (s.putTeam t).frac = s.frac := rfl
@[simp] theorem State.putTeam_hbi (s : State) (t : Team) : (s.putTeam t).hbi = s.hbi := rfl
@[simp] theorem State.putTeam_hbiNext (s : State) (t : Team) : (s.putTeam t).hbiNext = s.hbiNext := rfl
@[simp] theorem State.putTeam_hbM (s : State) (t : Team) : (s.putTeam t).hbM = s.hbM := rfl
@[simp] theorem State.putTeam_hbBase (s : State) (t : Team) : (s.putTeam t).hbBase = s.hbBase := rfl
@[simp] theorem State.putTeam_window (s : State) (t : Team) : (s.putTeam t).window = s.window := rfl
@[simp] theorem State.putTeam_status (s : State) (t : Team) : (s.putTeam t).status = s.status := rfl
@[simp] theorem State.putTeam_mem (s : State) (t : Team) : (s.putTeam t).mem = s.mem := rfl
@[simp] theorem State.putTeam_tiles (s : State) (t : Team) : (s.putTeam t).tiles = s.tiles := rfl
@[simp] theorem State.putTeam_launches (s : State) (t : Team) : (s.putTeam t).launches = s.launches := rfl
@[simp] theorem State.putTeam_fleets (s : State) (t : Team) : (s.putTeam t).fleets = s.fleets := rfl
@[simp] theorem State.putTeam_crews (s : State) (t : Team) : (s.putTeam t).crews = s.crews := rfl
@[simp] theorem State.putTeam_parts (s : State) (t : Team) : (s.putTeam t).parts = s.parts := rfl
@[simp] theorem State.putTeam_cores (s : State) (t : Team) : (s.putTeam t).cores = s.cores := rfl
@[simp] theorem State.putTeam_dies (s : State) (t : Team) : (s.putTeam t).dies = s.dies := rfl
@[simp] theorem State.putTeam_srams (s : State) (t : Team) : (s.putTeam t).srams = s.srams := rfl
@[simp] theorem State.putTeam_clusters (s : State) (t : Team) : (s.putTeam t).clusters = s.clusters := rfl
@[simp] theorem State.putTeam_cvs (s : State) (t : Team) : (s.putTeam t).cvs = s.cvs := rfl
@[simp] theorem State.putTeam_partials (s : State) (t : Team) : (s.putTeam t).partials = s.partials := rfl
@[simp] theorem State.putTeam_replicas (s : State) (t : Team) : (s.putTeam t).replicas = s.replicas := rfl
@[simp] theorem State.putTeam_grans (s : State) (t : Team) : (s.putTeam t).grans = s.grans := rfl
@[simp] theorem State.putTeam_tlb (s : State) (t : Team) : (s.putTeam t).tlb = s.tlb := rfl
@[simp] theorem State.putTeam_asids (s : State) (t : Team) : (s.putTeam t).asids = s.asids := rfl
@[simp] theorem State.putTeam_dirs (s : State) (t : Team) : (s.putTeam t).dirs = s.dirs := rfl
@[simp] theorem State.putTeam_msgs (s : State) (t : Team) : (s.putTeam t).msgs = s.msgs := rfl
@[simp] theorem State.putTeam_elems (s : State) (t : Team) : (s.putTeam t).elems = s.elems := rfl
@[simp] theorem State.putTeam_lost (s : State) (t : Team) : (s.putTeam t).lost = s.lost := rfl
@[simp] theorem State.putTeam_moves (s : State) (t : Team) : (s.putTeam t).moves = s.moves := rfl
@[simp] theorem State.putTeam_rowErrs (s : State) (t : Team) : (s.putTeam t).rowErrs = s.rowErrs := rfl
@[simp] theorem State.putTeam_spared (s : State) (t : Team) : (s.putTeam t).spared = s.spared := rfl
@[simp] theorem State.putTeam_noSpare (s : State) (t : Team) : (s.putTeam t).noSpare = s.noSpare := rfl
@[simp] theorem State.putTeam_regErrs (s : State) (t : Team) : (s.putTeam t).regErrs = s.regErrs := rfl
@[simp] theorem State.putTeam_refetched (s : State) (t : Team) : (s.putTeam t).refetched = s.refetched := rfl
@[simp] theorem State.putTeam_retired (s : State) (t : Team) : (s.putTeam t).retired = s.retired := rfl
@[simp] theorem State.putTeam_fused (s : State) (t : Team) : (s.putTeam t).fused = s.fused := rfl
@[simp] theorem State.putTeam_ports (s : State) (t : Team) : (s.putTeam t).ports = s.ports := rfl
@[simp] theorem State.putTeam_routes (s : State) (t : Team) : (s.putTeam t).routes = s.routes := rfl
@[simp] theorem State.putTeam_modNum (s : State) (t : Team) : (s.putTeam t).modNum = s.modNum := rfl
@[simp] theorem State.putTeam_remotes (s : State) (t : Team) : (s.putTeam t).remotes = s.remotes := rfl
@[simp] theorem State.putTeam_served (s : State) (t : Team) : (s.putTeam t).served = s.served := rfl
@[simp] theorem State.putTeam_gangs (s : State) (t : Team) : (s.putTeam t).gangs = s.gangs := rfl
@[simp] theorem State.putTeam_ring (s : State) (t : Team) : (s.putTeam t).ring = s.ring := rfl
@[simp] theorem State.putTeam_jobs (s : State) (t : Team) : (s.putTeam t).jobs = s.jobs := rfl
@[simp] theorem State.putTeam_posted (s : State) (t : Team) : (s.putTeam t).posted = s.posted := rfl
@[simp] theorem State.putTeam_adminOpen (s : State) (t : Team) : (s.putTeam t).adminOpen = s.adminOpen := rfl
@[simp] theorem State.putTeam_adminBase (s : State) (t : Team) : (s.putTeam t).adminBase = s.adminBase := rfl
@[simp] theorem State.putTeam_adminSize (s : State) (t : Team) : (s.putTeam t).adminSize = s.adminSize := rfl
@[simp] theorem State.putTeam_hostLink (s : State) (t : Team) : (s.putTeam t).hostLink = s.hostLink := rfl
@[simp] theorem State.putTeam_refresh (s : State) (t : Team) : (s.putTeam t).refresh = s.refresh := rfl
@[simp] theorem State.putTeam_lostCached (s : State) (t : Team) : (s.putTeam t).lostCached = s.lostCached := rfl
@[simp] theorem State.putTeam_routing (s : State) (t : Team) : (s.putTeam t).routing = s.routing := rfl
@[simp] theorem State.putTeam_adminHead (s : State) (t : Team) : (s.putTeam t).adminHead = s.adminHead := rfl
@[simp] theorem State.putTeam_resets (s : State) (t : Team) : (s.putTeam t).resets = s.resets := rfl
@[simp] theorem State.putTeam_flash (s : State) (t : Team) : (s.putTeam t).flash = s.flash := rfl
@[simp] theorem State.putTeam_coolant (s : State) (t : Team) : (s.putTeam t).coolant = s.coolant := rfl
@[simp] theorem State.putTeam_amps (s : State) (t : Team) : (s.putTeam t).amps = s.amps := rfl
@[simp] theorem State.putTeam_total (s : State) (t : Team) : (s.putTeam t).total = s.total := rfl
@[simp] theorem State.putTeam_nextAmps (s : State) (t : Team) : (s.putTeam t).nextAmps = s.nextAmps := rfl
@[simp] theorem State.putTeam_nextHeat (s : State) (t : Team) : (s.putTeam t).nextHeat = s.nextHeat := rfl
@[simp] theorem State.putTeam_out (s : State) (t : Team) : (s.putTeam t).out = s.out := rfl

/-! ## modTeam changes teams alone -/

@[simp] theorem State.modTeam_agenda (s : State) (tk : Nat) (f : Team → Team) : (s.modTeam tk f).agenda = s.agenda := rfl
@[simp] theorem State.modTeam_todo (s : State) (tk : Nat) (f : Team → Team) : (s.modTeam tk f).todo = s.todo := rfl
@[simp] theorem State.modTeam_duties (s : State) (tk : Nat) (f : Team → Team) : (s.modTeam tk f).duties = s.duties := rfl
@[simp] theorem State.modTeam_cur (s : State) (tk : Nat) (f : Team → Team) : (s.modTeam tk f).cur = s.cur := rfl
@[simp] theorem State.modTeam_nextId (s : State) (tk : Nat) (f : Team → Team) : (s.modTeam tk f).nextId = s.nextId := rfl
@[simp] theorem State.modTeam_coh (s : State) (tk : Nat) (f : Team → Team) : (s.modTeam tk f).coh = s.coh := rfl
@[simp] theorem State.modTeam_free (s : State) (tk : Nat) (f : Team → Team) : (s.modTeam tk f).free = s.free := rfl
@[simp] theorem State.modTeam_cycle (s : State) (tk : Nat) (f : Team → Team) : (s.modTeam tk f).cycle = s.cycle := rfl
@[simp] theorem State.modTeam_thyme (s : State) (tk : Nat) (f : Team → Team) : (s.modTeam tk f).thyme = s.thyme := rfl
@[simp] theorem State.modTeam_frac (s : State) (tk : Nat) (f : Team → Team) : (s.modTeam tk f).frac = s.frac := rfl
@[simp] theorem State.modTeam_hbi (s : State) (tk : Nat) (f : Team → Team) : (s.modTeam tk f).hbi = s.hbi := rfl
@[simp] theorem State.modTeam_hbiNext (s : State) (tk : Nat) (f : Team → Team) : (s.modTeam tk f).hbiNext = s.hbiNext := rfl
@[simp] theorem State.modTeam_hbM (s : State) (tk : Nat) (f : Team → Team) : (s.modTeam tk f).hbM = s.hbM := rfl
@[simp] theorem State.modTeam_hbBase (s : State) (tk : Nat) (f : Team → Team) : (s.modTeam tk f).hbBase = s.hbBase := rfl
@[simp] theorem State.modTeam_window (s : State) (tk : Nat) (f : Team → Team) : (s.modTeam tk f).window = s.window := rfl
@[simp] theorem State.modTeam_status (s : State) (tk : Nat) (f : Team → Team) : (s.modTeam tk f).status = s.status := rfl
@[simp] theorem State.modTeam_mem (s : State) (tk : Nat) (f : Team → Team) : (s.modTeam tk f).mem = s.mem := rfl
@[simp] theorem State.modTeam_tiles (s : State) (tk : Nat) (f : Team → Team) : (s.modTeam tk f).tiles = s.tiles := rfl
@[simp] theorem State.modTeam_launches (s : State) (tk : Nat) (f : Team → Team) : (s.modTeam tk f).launches = s.launches := rfl
@[simp] theorem State.modTeam_fleets (s : State) (tk : Nat) (f : Team → Team) : (s.modTeam tk f).fleets = s.fleets := rfl
@[simp] theorem State.modTeam_crews (s : State) (tk : Nat) (f : Team → Team) : (s.modTeam tk f).crews = s.crews := rfl
@[simp] theorem State.modTeam_parts (s : State) (tk : Nat) (f : Team → Team) : (s.modTeam tk f).parts = s.parts := rfl
@[simp] theorem State.modTeam_cores (s : State) (tk : Nat) (f : Team → Team) : (s.modTeam tk f).cores = s.cores := rfl
@[simp] theorem State.modTeam_dies (s : State) (tk : Nat) (f : Team → Team) : (s.modTeam tk f).dies = s.dies := rfl
@[simp] theorem State.modTeam_srams (s : State) (tk : Nat) (f : Team → Team) : (s.modTeam tk f).srams = s.srams := rfl
@[simp] theorem State.modTeam_clusters (s : State) (tk : Nat) (f : Team → Team) : (s.modTeam tk f).clusters = s.clusters := rfl
@[simp] theorem State.modTeam_cvs (s : State) (tk : Nat) (f : Team → Team) : (s.modTeam tk f).cvs = s.cvs := rfl
@[simp] theorem State.modTeam_partials (s : State) (tk : Nat) (f : Team → Team) : (s.modTeam tk f).partials = s.partials := rfl
@[simp] theorem State.modTeam_replicas (s : State) (tk : Nat) (f : Team → Team) : (s.modTeam tk f).replicas = s.replicas := rfl
@[simp] theorem State.modTeam_grans (s : State) (tk : Nat) (f : Team → Team) : (s.modTeam tk f).grans = s.grans := rfl
@[simp] theorem State.modTeam_tlb (s : State) (tk : Nat) (f : Team → Team) : (s.modTeam tk f).tlb = s.tlb := rfl
@[simp] theorem State.modTeam_asids (s : State) (tk : Nat) (f : Team → Team) : (s.modTeam tk f).asids = s.asids := rfl
@[simp] theorem State.modTeam_dirs (s : State) (tk : Nat) (f : Team → Team) : (s.modTeam tk f).dirs = s.dirs := rfl
@[simp] theorem State.modTeam_msgs (s : State) (tk : Nat) (f : Team → Team) : (s.modTeam tk f).msgs = s.msgs := rfl
@[simp] theorem State.modTeam_elems (s : State) (tk : Nat) (f : Team → Team) : (s.modTeam tk f).elems = s.elems := rfl
@[simp] theorem State.modTeam_lost (s : State) (tk : Nat) (f : Team → Team) : (s.modTeam tk f).lost = s.lost := rfl
@[simp] theorem State.modTeam_moves (s : State) (tk : Nat) (f : Team → Team) : (s.modTeam tk f).moves = s.moves := rfl
@[simp] theorem State.modTeam_rowErrs (s : State) (tk : Nat) (f : Team → Team) : (s.modTeam tk f).rowErrs = s.rowErrs := rfl
@[simp] theorem State.modTeam_spared (s : State) (tk : Nat) (f : Team → Team) : (s.modTeam tk f).spared = s.spared := rfl
@[simp] theorem State.modTeam_noSpare (s : State) (tk : Nat) (f : Team → Team) : (s.modTeam tk f).noSpare = s.noSpare := rfl
@[simp] theorem State.modTeam_regErrs (s : State) (tk : Nat) (f : Team → Team) : (s.modTeam tk f).regErrs = s.regErrs := rfl
@[simp] theorem State.modTeam_refetched (s : State) (tk : Nat) (f : Team → Team) : (s.modTeam tk f).refetched = s.refetched := rfl
@[simp] theorem State.modTeam_retired (s : State) (tk : Nat) (f : Team → Team) : (s.modTeam tk f).retired = s.retired := rfl
@[simp] theorem State.modTeam_fused (s : State) (tk : Nat) (f : Team → Team) : (s.modTeam tk f).fused = s.fused := rfl
@[simp] theorem State.modTeam_ports (s : State) (tk : Nat) (f : Team → Team) : (s.modTeam tk f).ports = s.ports := rfl
@[simp] theorem State.modTeam_routes (s : State) (tk : Nat) (f : Team → Team) : (s.modTeam tk f).routes = s.routes := rfl
@[simp] theorem State.modTeam_modNum (s : State) (tk : Nat) (f : Team → Team) : (s.modTeam tk f).modNum = s.modNum := rfl
@[simp] theorem State.modTeam_remotes (s : State) (tk : Nat) (f : Team → Team) : (s.modTeam tk f).remotes = s.remotes := rfl
@[simp] theorem State.modTeam_served (s : State) (tk : Nat) (f : Team → Team) : (s.modTeam tk f).served = s.served := rfl
@[simp] theorem State.modTeam_gangs (s : State) (tk : Nat) (f : Team → Team) : (s.modTeam tk f).gangs = s.gangs := rfl
@[simp] theorem State.modTeam_ring (s : State) (tk : Nat) (f : Team → Team) : (s.modTeam tk f).ring = s.ring := rfl
@[simp] theorem State.modTeam_jobs (s : State) (tk : Nat) (f : Team → Team) : (s.modTeam tk f).jobs = s.jobs := rfl
@[simp] theorem State.modTeam_posted (s : State) (tk : Nat) (f : Team → Team) : (s.modTeam tk f).posted = s.posted := rfl
@[simp] theorem State.modTeam_adminOpen (s : State) (tk : Nat) (f : Team → Team) : (s.modTeam tk f).adminOpen = s.adminOpen := rfl
@[simp] theorem State.modTeam_adminBase (s : State) (tk : Nat) (f : Team → Team) : (s.modTeam tk f).adminBase = s.adminBase := rfl
@[simp] theorem State.modTeam_adminSize (s : State) (tk : Nat) (f : Team → Team) : (s.modTeam tk f).adminSize = s.adminSize := rfl
@[simp] theorem State.modTeam_hostLink (s : State) (tk : Nat) (f : Team → Team) : (s.modTeam tk f).hostLink = s.hostLink := rfl
@[simp] theorem State.modTeam_refresh (s : State) (tk : Nat) (f : Team → Team) : (s.modTeam tk f).refresh = s.refresh := rfl
@[simp] theorem State.modTeam_lostCached (s : State) (tk : Nat) (f : Team → Team) : (s.modTeam tk f).lostCached = s.lostCached := rfl
@[simp] theorem State.modTeam_routing (s : State) (tk : Nat) (f : Team → Team) : (s.modTeam tk f).routing = s.routing := rfl
@[simp] theorem State.modTeam_adminHead (s : State) (tk : Nat) (f : Team → Team) : (s.modTeam tk f).adminHead = s.adminHead := rfl
@[simp] theorem State.modTeam_resets (s : State) (tk : Nat) (f : Team → Team) : (s.modTeam tk f).resets = s.resets := rfl
@[simp] theorem State.modTeam_flash (s : State) (tk : Nat) (f : Team → Team) : (s.modTeam tk f).flash = s.flash := rfl
@[simp] theorem State.modTeam_coolant (s : State) (tk : Nat) (f : Team → Team) : (s.modTeam tk f).coolant = s.coolant := rfl
@[simp] theorem State.modTeam_amps (s : State) (tk : Nat) (f : Team → Team) : (s.modTeam tk f).amps = s.amps := rfl
@[simp] theorem State.modTeam_total (s : State) (tk : Nat) (f : Team → Team) : (s.modTeam tk f).total = s.total := rfl
@[simp] theorem State.modTeam_nextAmps (s : State) (tk : Nat) (f : Team → Team) : (s.modTeam tk f).nextAmps = s.nextAmps := rfl
@[simp] theorem State.modTeam_nextHeat (s : State) (tk : Nat) (f : Team → Team) : (s.modTeam tk f).nextHeat = s.nextHeat := rfl
@[simp] theorem State.modTeam_out (s : State) (tk : Nat) (f : Team → Team) : (s.modTeam tk f).out = s.out := rfl

/-! ## modPart changes parts alone -/

@[simp] theorem State.modPart_agenda (s : State) (vf : Nat) (f : Part → Part) : (s.modPart vf f).agenda = s.agenda := rfl
@[simp] theorem State.modPart_todo (s : State) (vf : Nat) (f : Part → Part) : (s.modPart vf f).todo = s.todo := rfl
@[simp] theorem State.modPart_duties (s : State) (vf : Nat) (f : Part → Part) : (s.modPart vf f).duties = s.duties := rfl
@[simp] theorem State.modPart_cur (s : State) (vf : Nat) (f : Part → Part) : (s.modPart vf f).cur = s.cur := rfl
@[simp] theorem State.modPart_nextId (s : State) (vf : Nat) (f : Part → Part) : (s.modPart vf f).nextId = s.nextId := rfl
@[simp] theorem State.modPart_coh (s : State) (vf : Nat) (f : Part → Part) : (s.modPart vf f).coh = s.coh := rfl
@[simp] theorem State.modPart_free (s : State) (vf : Nat) (f : Part → Part) : (s.modPart vf f).free = s.free := rfl
@[simp] theorem State.modPart_cycle (s : State) (vf : Nat) (f : Part → Part) : (s.modPart vf f).cycle = s.cycle := rfl
@[simp] theorem State.modPart_thyme (s : State) (vf : Nat) (f : Part → Part) : (s.modPart vf f).thyme = s.thyme := rfl
@[simp] theorem State.modPart_frac (s : State) (vf : Nat) (f : Part → Part) : (s.modPart vf f).frac = s.frac := rfl
@[simp] theorem State.modPart_hbi (s : State) (vf : Nat) (f : Part → Part) : (s.modPart vf f).hbi = s.hbi := rfl
@[simp] theorem State.modPart_hbiNext (s : State) (vf : Nat) (f : Part → Part) : (s.modPart vf f).hbiNext = s.hbiNext := rfl
@[simp] theorem State.modPart_hbM (s : State) (vf : Nat) (f : Part → Part) : (s.modPart vf f).hbM = s.hbM := rfl
@[simp] theorem State.modPart_hbBase (s : State) (vf : Nat) (f : Part → Part) : (s.modPart vf f).hbBase = s.hbBase := rfl
@[simp] theorem State.modPart_window (s : State) (vf : Nat) (f : Part → Part) : (s.modPart vf f).window = s.window := rfl
@[simp] theorem State.modPart_status (s : State) (vf : Nat) (f : Part → Part) : (s.modPart vf f).status = s.status := rfl
@[simp] theorem State.modPart_mem (s : State) (vf : Nat) (f : Part → Part) : (s.modPart vf f).mem = s.mem := rfl
@[simp] theorem State.modPart_tiles (s : State) (vf : Nat) (f : Part → Part) : (s.modPart vf f).tiles = s.tiles := rfl
@[simp] theorem State.modPart_teams (s : State) (vf : Nat) (f : Part → Part) : (s.modPart vf f).teams = s.teams := rfl
@[simp] theorem State.modPart_launches (s : State) (vf : Nat) (f : Part → Part) : (s.modPart vf f).launches = s.launches := rfl
@[simp] theorem State.modPart_fleets (s : State) (vf : Nat) (f : Part → Part) : (s.modPart vf f).fleets = s.fleets := rfl
@[simp] theorem State.modPart_crews (s : State) (vf : Nat) (f : Part → Part) : (s.modPart vf f).crews = s.crews := rfl
@[simp] theorem State.modPart_cores (s : State) (vf : Nat) (f : Part → Part) : (s.modPart vf f).cores = s.cores := rfl
@[simp] theorem State.modPart_dies (s : State) (vf : Nat) (f : Part → Part) : (s.modPart vf f).dies = s.dies := rfl
@[simp] theorem State.modPart_srams (s : State) (vf : Nat) (f : Part → Part) : (s.modPart vf f).srams = s.srams := rfl
@[simp] theorem State.modPart_clusters (s : State) (vf : Nat) (f : Part → Part) : (s.modPart vf f).clusters = s.clusters := rfl
@[simp] theorem State.modPart_cvs (s : State) (vf : Nat) (f : Part → Part) : (s.modPart vf f).cvs = s.cvs := rfl
@[simp] theorem State.modPart_partials (s : State) (vf : Nat) (f : Part → Part) : (s.modPart vf f).partials = s.partials := rfl
@[simp] theorem State.modPart_replicas (s : State) (vf : Nat) (f : Part → Part) : (s.modPart vf f).replicas = s.replicas := rfl
@[simp] theorem State.modPart_grans (s : State) (vf : Nat) (f : Part → Part) : (s.modPart vf f).grans = s.grans := rfl
@[simp] theorem State.modPart_tlb (s : State) (vf : Nat) (f : Part → Part) : (s.modPart vf f).tlb = s.tlb := rfl
@[simp] theorem State.modPart_asids (s : State) (vf : Nat) (f : Part → Part) : (s.modPart vf f).asids = s.asids := rfl
@[simp] theorem State.modPart_dirs (s : State) (vf : Nat) (f : Part → Part) : (s.modPart vf f).dirs = s.dirs := rfl
@[simp] theorem State.modPart_msgs (s : State) (vf : Nat) (f : Part → Part) : (s.modPart vf f).msgs = s.msgs := rfl
@[simp] theorem State.modPart_elems (s : State) (vf : Nat) (f : Part → Part) : (s.modPart vf f).elems = s.elems := rfl
@[simp] theorem State.modPart_lost (s : State) (vf : Nat) (f : Part → Part) : (s.modPart vf f).lost = s.lost := rfl
@[simp] theorem State.modPart_moves (s : State) (vf : Nat) (f : Part → Part) : (s.modPart vf f).moves = s.moves := rfl
@[simp] theorem State.modPart_rowErrs (s : State) (vf : Nat) (f : Part → Part) : (s.modPart vf f).rowErrs = s.rowErrs := rfl
@[simp] theorem State.modPart_spared (s : State) (vf : Nat) (f : Part → Part) : (s.modPart vf f).spared = s.spared := rfl
@[simp] theorem State.modPart_noSpare (s : State) (vf : Nat) (f : Part → Part) : (s.modPart vf f).noSpare = s.noSpare := rfl
@[simp] theorem State.modPart_regErrs (s : State) (vf : Nat) (f : Part → Part) : (s.modPart vf f).regErrs = s.regErrs := rfl
@[simp] theorem State.modPart_refetched (s : State) (vf : Nat) (f : Part → Part) : (s.modPart vf f).refetched = s.refetched := rfl
@[simp] theorem State.modPart_retired (s : State) (vf : Nat) (f : Part → Part) : (s.modPart vf f).retired = s.retired := rfl
@[simp] theorem State.modPart_fused (s : State) (vf : Nat) (f : Part → Part) : (s.modPart vf f).fused = s.fused := rfl
@[simp] theorem State.modPart_ports (s : State) (vf : Nat) (f : Part → Part) : (s.modPart vf f).ports = s.ports := rfl
@[simp] theorem State.modPart_routes (s : State) (vf : Nat) (f : Part → Part) : (s.modPart vf f).routes = s.routes := rfl
@[simp] theorem State.modPart_modNum (s : State) (vf : Nat) (f : Part → Part) : (s.modPart vf f).modNum = s.modNum := rfl
@[simp] theorem State.modPart_remotes (s : State) (vf : Nat) (f : Part → Part) : (s.modPart vf f).remotes = s.remotes := rfl
@[simp] theorem State.modPart_served (s : State) (vf : Nat) (f : Part → Part) : (s.modPart vf f).served = s.served := rfl
@[simp] theorem State.modPart_gangs (s : State) (vf : Nat) (f : Part → Part) : (s.modPart vf f).gangs = s.gangs := rfl
@[simp] theorem State.modPart_ring (s : State) (vf : Nat) (f : Part → Part) : (s.modPart vf f).ring = s.ring := rfl
@[simp] theorem State.modPart_jobs (s : State) (vf : Nat) (f : Part → Part) : (s.modPart vf f).jobs = s.jobs := rfl
@[simp] theorem State.modPart_posted (s : State) (vf : Nat) (f : Part → Part) : (s.modPart vf f).posted = s.posted := rfl
@[simp] theorem State.modPart_adminOpen (s : State) (vf : Nat) (f : Part → Part) : (s.modPart vf f).adminOpen = s.adminOpen := rfl
@[simp] theorem State.modPart_adminBase (s : State) (vf : Nat) (f : Part → Part) : (s.modPart vf f).adminBase = s.adminBase := rfl
@[simp] theorem State.modPart_adminSize (s : State) (vf : Nat) (f : Part → Part) : (s.modPart vf f).adminSize = s.adminSize := rfl
@[simp] theorem State.modPart_hostLink (s : State) (vf : Nat) (f : Part → Part) : (s.modPart vf f).hostLink = s.hostLink := rfl
@[simp] theorem State.modPart_refresh (s : State) (vf : Nat) (f : Part → Part) : (s.modPart vf f).refresh = s.refresh := rfl
@[simp] theorem State.modPart_lostCached (s : State) (vf : Nat) (f : Part → Part) : (s.modPart vf f).lostCached = s.lostCached := rfl
@[simp] theorem State.modPart_routing (s : State) (vf : Nat) (f : Part → Part) : (s.modPart vf f).routing = s.routing := rfl
@[simp] theorem State.modPart_adminHead (s : State) (vf : Nat) (f : Part → Part) : (s.modPart vf f).adminHead = s.adminHead := rfl
@[simp] theorem State.modPart_resets (s : State) (vf : Nat) (f : Part → Part) : (s.modPart vf f).resets = s.resets := rfl
@[simp] theorem State.modPart_flash (s : State) (vf : Nat) (f : Part → Part) : (s.modPart vf f).flash = s.flash := rfl
@[simp] theorem State.modPart_coolant (s : State) (vf : Nat) (f : Part → Part) : (s.modPart vf f).coolant = s.coolant := rfl
@[simp] theorem State.modPart_amps (s : State) (vf : Nat) (f : Part → Part) : (s.modPart vf f).amps = s.amps := rfl
@[simp] theorem State.modPart_total (s : State) (vf : Nat) (f : Part → Part) : (s.modPart vf f).total = s.total := rfl
@[simp] theorem State.modPart_nextAmps (s : State) (vf : Nat) (f : Part → Part) : (s.modPart vf f).nextAmps = s.nextAmps := rfl
@[simp] theorem State.modPart_nextHeat (s : State) (vf : Nat) (f : Part → Part) : (s.modPart vf f).nextHeat = s.nextHeat := rfl
@[simp] theorem State.modPart_out (s : State) (vf : Nat) (f : Part → Part) : (s.modPart vf f).out = s.out := rfl

/-! ## modLaunch changes launches alone -/

@[simp] theorem State.modLaunch_agenda (s : State) (l : Nat) (f : Launch → Launch) : (s.modLaunch l f).agenda = s.agenda := rfl
@[simp] theorem State.modLaunch_todo (s : State) (l : Nat) (f : Launch → Launch) : (s.modLaunch l f).todo = s.todo := rfl
@[simp] theorem State.modLaunch_duties (s : State) (l : Nat) (f : Launch → Launch) : (s.modLaunch l f).duties = s.duties := rfl
@[simp] theorem State.modLaunch_cur (s : State) (l : Nat) (f : Launch → Launch) : (s.modLaunch l f).cur = s.cur := rfl
@[simp] theorem State.modLaunch_nextId (s : State) (l : Nat) (f : Launch → Launch) : (s.modLaunch l f).nextId = s.nextId := rfl
@[simp] theorem State.modLaunch_coh (s : State) (l : Nat) (f : Launch → Launch) : (s.modLaunch l f).coh = s.coh := rfl
@[simp] theorem State.modLaunch_free (s : State) (l : Nat) (f : Launch → Launch) : (s.modLaunch l f).free = s.free := rfl
@[simp] theorem State.modLaunch_cycle (s : State) (l : Nat) (f : Launch → Launch) : (s.modLaunch l f).cycle = s.cycle := rfl
@[simp] theorem State.modLaunch_thyme (s : State) (l : Nat) (f : Launch → Launch) : (s.modLaunch l f).thyme = s.thyme := rfl
@[simp] theorem State.modLaunch_frac (s : State) (l : Nat) (f : Launch → Launch) : (s.modLaunch l f).frac = s.frac := rfl
@[simp] theorem State.modLaunch_hbi (s : State) (l : Nat) (f : Launch → Launch) : (s.modLaunch l f).hbi = s.hbi := rfl
@[simp] theorem State.modLaunch_hbiNext (s : State) (l : Nat) (f : Launch → Launch) : (s.modLaunch l f).hbiNext = s.hbiNext := rfl
@[simp] theorem State.modLaunch_hbM (s : State) (l : Nat) (f : Launch → Launch) : (s.modLaunch l f).hbM = s.hbM := rfl
@[simp] theorem State.modLaunch_hbBase (s : State) (l : Nat) (f : Launch → Launch) : (s.modLaunch l f).hbBase = s.hbBase := rfl
@[simp] theorem State.modLaunch_window (s : State) (l : Nat) (f : Launch → Launch) : (s.modLaunch l f).window = s.window := rfl
@[simp] theorem State.modLaunch_status (s : State) (l : Nat) (f : Launch → Launch) : (s.modLaunch l f).status = s.status := rfl
@[simp] theorem State.modLaunch_mem (s : State) (l : Nat) (f : Launch → Launch) : (s.modLaunch l f).mem = s.mem := rfl
@[simp] theorem State.modLaunch_tiles (s : State) (l : Nat) (f : Launch → Launch) : (s.modLaunch l f).tiles = s.tiles := rfl
@[simp] theorem State.modLaunch_teams (s : State) (l : Nat) (f : Launch → Launch) : (s.modLaunch l f).teams = s.teams := rfl
@[simp] theorem State.modLaunch_fleets (s : State) (l : Nat) (f : Launch → Launch) : (s.modLaunch l f).fleets = s.fleets := rfl
@[simp] theorem State.modLaunch_crews (s : State) (l : Nat) (f : Launch → Launch) : (s.modLaunch l f).crews = s.crews := rfl
@[simp] theorem State.modLaunch_parts (s : State) (l : Nat) (f : Launch → Launch) : (s.modLaunch l f).parts = s.parts := rfl
@[simp] theorem State.modLaunch_cores (s : State) (l : Nat) (f : Launch → Launch) : (s.modLaunch l f).cores = s.cores := rfl
@[simp] theorem State.modLaunch_dies (s : State) (l : Nat) (f : Launch → Launch) : (s.modLaunch l f).dies = s.dies := rfl
@[simp] theorem State.modLaunch_srams (s : State) (l : Nat) (f : Launch → Launch) : (s.modLaunch l f).srams = s.srams := rfl
@[simp] theorem State.modLaunch_clusters (s : State) (l : Nat) (f : Launch → Launch) : (s.modLaunch l f).clusters = s.clusters := rfl
@[simp] theorem State.modLaunch_cvs (s : State) (l : Nat) (f : Launch → Launch) : (s.modLaunch l f).cvs = s.cvs := rfl
@[simp] theorem State.modLaunch_partials (s : State) (l : Nat) (f : Launch → Launch) : (s.modLaunch l f).partials = s.partials := rfl
@[simp] theorem State.modLaunch_replicas (s : State) (l : Nat) (f : Launch → Launch) : (s.modLaunch l f).replicas = s.replicas := rfl
@[simp] theorem State.modLaunch_grans (s : State) (l : Nat) (f : Launch → Launch) : (s.modLaunch l f).grans = s.grans := rfl
@[simp] theorem State.modLaunch_tlb (s : State) (l : Nat) (f : Launch → Launch) : (s.modLaunch l f).tlb = s.tlb := rfl
@[simp] theorem State.modLaunch_asids (s : State) (l : Nat) (f : Launch → Launch) : (s.modLaunch l f).asids = s.asids := rfl
@[simp] theorem State.modLaunch_dirs (s : State) (l : Nat) (f : Launch → Launch) : (s.modLaunch l f).dirs = s.dirs := rfl
@[simp] theorem State.modLaunch_msgs (s : State) (l : Nat) (f : Launch → Launch) : (s.modLaunch l f).msgs = s.msgs := rfl
@[simp] theorem State.modLaunch_elems (s : State) (l : Nat) (f : Launch → Launch) : (s.modLaunch l f).elems = s.elems := rfl
@[simp] theorem State.modLaunch_lost (s : State) (l : Nat) (f : Launch → Launch) : (s.modLaunch l f).lost = s.lost := rfl
@[simp] theorem State.modLaunch_moves (s : State) (l : Nat) (f : Launch → Launch) : (s.modLaunch l f).moves = s.moves := rfl
@[simp] theorem State.modLaunch_rowErrs (s : State) (l : Nat) (f : Launch → Launch) : (s.modLaunch l f).rowErrs = s.rowErrs := rfl
@[simp] theorem State.modLaunch_spared (s : State) (l : Nat) (f : Launch → Launch) : (s.modLaunch l f).spared = s.spared := rfl
@[simp] theorem State.modLaunch_noSpare (s : State) (l : Nat) (f : Launch → Launch) : (s.modLaunch l f).noSpare = s.noSpare := rfl
@[simp] theorem State.modLaunch_regErrs (s : State) (l : Nat) (f : Launch → Launch) : (s.modLaunch l f).regErrs = s.regErrs := rfl
@[simp] theorem State.modLaunch_refetched (s : State) (l : Nat) (f : Launch → Launch) : (s.modLaunch l f).refetched = s.refetched := rfl
@[simp] theorem State.modLaunch_retired (s : State) (l : Nat) (f : Launch → Launch) : (s.modLaunch l f).retired = s.retired := rfl
@[simp] theorem State.modLaunch_fused (s : State) (l : Nat) (f : Launch → Launch) : (s.modLaunch l f).fused = s.fused := rfl
@[simp] theorem State.modLaunch_ports (s : State) (l : Nat) (f : Launch → Launch) : (s.modLaunch l f).ports = s.ports := rfl
@[simp] theorem State.modLaunch_routes (s : State) (l : Nat) (f : Launch → Launch) : (s.modLaunch l f).routes = s.routes := rfl
@[simp] theorem State.modLaunch_modNum (s : State) (l : Nat) (f : Launch → Launch) : (s.modLaunch l f).modNum = s.modNum := rfl
@[simp] theorem State.modLaunch_remotes (s : State) (l : Nat) (f : Launch → Launch) : (s.modLaunch l f).remotes = s.remotes := rfl
@[simp] theorem State.modLaunch_served (s : State) (l : Nat) (f : Launch → Launch) : (s.modLaunch l f).served = s.served := rfl
@[simp] theorem State.modLaunch_gangs (s : State) (l : Nat) (f : Launch → Launch) : (s.modLaunch l f).gangs = s.gangs := rfl
@[simp] theorem State.modLaunch_ring (s : State) (l : Nat) (f : Launch → Launch) : (s.modLaunch l f).ring = s.ring := rfl
@[simp] theorem State.modLaunch_jobs (s : State) (l : Nat) (f : Launch → Launch) : (s.modLaunch l f).jobs = s.jobs := rfl
@[simp] theorem State.modLaunch_posted (s : State) (l : Nat) (f : Launch → Launch) : (s.modLaunch l f).posted = s.posted := rfl
@[simp] theorem State.modLaunch_adminOpen (s : State) (l : Nat) (f : Launch → Launch) : (s.modLaunch l f).adminOpen = s.adminOpen := rfl
@[simp] theorem State.modLaunch_adminBase (s : State) (l : Nat) (f : Launch → Launch) : (s.modLaunch l f).adminBase = s.adminBase := rfl
@[simp] theorem State.modLaunch_adminSize (s : State) (l : Nat) (f : Launch → Launch) : (s.modLaunch l f).adminSize = s.adminSize := rfl
@[simp] theorem State.modLaunch_hostLink (s : State) (l : Nat) (f : Launch → Launch) : (s.modLaunch l f).hostLink = s.hostLink := rfl
@[simp] theorem State.modLaunch_refresh (s : State) (l : Nat) (f : Launch → Launch) : (s.modLaunch l f).refresh = s.refresh := rfl
@[simp] theorem State.modLaunch_lostCached (s : State) (l : Nat) (f : Launch → Launch) : (s.modLaunch l f).lostCached = s.lostCached := rfl
@[simp] theorem State.modLaunch_routing (s : State) (l : Nat) (f : Launch → Launch) : (s.modLaunch l f).routing = s.routing := rfl
@[simp] theorem State.modLaunch_adminHead (s : State) (l : Nat) (f : Launch → Launch) : (s.modLaunch l f).adminHead = s.adminHead := rfl
@[simp] theorem State.modLaunch_resets (s : State) (l : Nat) (f : Launch → Launch) : (s.modLaunch l f).resets = s.resets := rfl
@[simp] theorem State.modLaunch_flash (s : State) (l : Nat) (f : Launch → Launch) : (s.modLaunch l f).flash = s.flash := rfl
@[simp] theorem State.modLaunch_coolant (s : State) (l : Nat) (f : Launch → Launch) : (s.modLaunch l f).coolant = s.coolant := rfl
@[simp] theorem State.modLaunch_amps (s : State) (l : Nat) (f : Launch → Launch) : (s.modLaunch l f).amps = s.amps := rfl
@[simp] theorem State.modLaunch_total (s : State) (l : Nat) (f : Launch → Launch) : (s.modLaunch l f).total = s.total := rfl
@[simp] theorem State.modLaunch_nextAmps (s : State) (l : Nat) (f : Launch → Launch) : (s.modLaunch l f).nextAmps = s.nextAmps := rfl
@[simp] theorem State.modLaunch_nextHeat (s : State) (l : Nat) (f : Launch → Launch) : (s.modLaunch l f).nextHeat = s.nextHeat := rfl
@[simp] theorem State.modLaunch_out (s : State) (l : Nat) (f : Launch → Launch) : (s.modLaunch l f).out = s.out := rfl

/-! ## modCore changes cores alone -/

@[simp] theorem State.modCore_agenda (s : State) (c : Nat) (f : Core → Core) : (s.modCore c f).agenda = s.agenda := rfl
@[simp] theorem State.modCore_todo (s : State) (c : Nat) (f : Core → Core) : (s.modCore c f).todo = s.todo := rfl
@[simp] theorem State.modCore_duties (s : State) (c : Nat) (f : Core → Core) : (s.modCore c f).duties = s.duties := rfl
@[simp] theorem State.modCore_cur (s : State) (c : Nat) (f : Core → Core) : (s.modCore c f).cur = s.cur := rfl
@[simp] theorem State.modCore_nextId (s : State) (c : Nat) (f : Core → Core) : (s.modCore c f).nextId = s.nextId := rfl
@[simp] theorem State.modCore_coh (s : State) (c : Nat) (f : Core → Core) : (s.modCore c f).coh = s.coh := rfl
@[simp] theorem State.modCore_free (s : State) (c : Nat) (f : Core → Core) : (s.modCore c f).free = s.free := rfl
@[simp] theorem State.modCore_cycle (s : State) (c : Nat) (f : Core → Core) : (s.modCore c f).cycle = s.cycle := rfl
@[simp] theorem State.modCore_thyme (s : State) (c : Nat) (f : Core → Core) : (s.modCore c f).thyme = s.thyme := rfl
@[simp] theorem State.modCore_frac (s : State) (c : Nat) (f : Core → Core) : (s.modCore c f).frac = s.frac := rfl
@[simp] theorem State.modCore_hbi (s : State) (c : Nat) (f : Core → Core) : (s.modCore c f).hbi = s.hbi := rfl
@[simp] theorem State.modCore_hbiNext (s : State) (c : Nat) (f : Core → Core) : (s.modCore c f).hbiNext = s.hbiNext := rfl
@[simp] theorem State.modCore_hbM (s : State) (c : Nat) (f : Core → Core) : (s.modCore c f).hbM = s.hbM := rfl
@[simp] theorem State.modCore_hbBase (s : State) (c : Nat) (f : Core → Core) : (s.modCore c f).hbBase = s.hbBase := rfl
@[simp] theorem State.modCore_window (s : State) (c : Nat) (f : Core → Core) : (s.modCore c f).window = s.window := rfl
@[simp] theorem State.modCore_status (s : State) (c : Nat) (f : Core → Core) : (s.modCore c f).status = s.status := rfl
@[simp] theorem State.modCore_mem (s : State) (c : Nat) (f : Core → Core) : (s.modCore c f).mem = s.mem := rfl
@[simp] theorem State.modCore_tiles (s : State) (c : Nat) (f : Core → Core) : (s.modCore c f).tiles = s.tiles := rfl
@[simp] theorem State.modCore_teams (s : State) (c : Nat) (f : Core → Core) : (s.modCore c f).teams = s.teams := rfl
@[simp] theorem State.modCore_launches (s : State) (c : Nat) (f : Core → Core) : (s.modCore c f).launches = s.launches := rfl
@[simp] theorem State.modCore_fleets (s : State) (c : Nat) (f : Core → Core) : (s.modCore c f).fleets = s.fleets := rfl
@[simp] theorem State.modCore_crews (s : State) (c : Nat) (f : Core → Core) : (s.modCore c f).crews = s.crews := rfl
@[simp] theorem State.modCore_parts (s : State) (c : Nat) (f : Core → Core) : (s.modCore c f).parts = s.parts := rfl
@[simp] theorem State.modCore_dies (s : State) (c : Nat) (f : Core → Core) : (s.modCore c f).dies = s.dies := rfl
@[simp] theorem State.modCore_srams (s : State) (c : Nat) (f : Core → Core) : (s.modCore c f).srams = s.srams := rfl
@[simp] theorem State.modCore_clusters (s : State) (c : Nat) (f : Core → Core) : (s.modCore c f).clusters = s.clusters := rfl
@[simp] theorem State.modCore_cvs (s : State) (c : Nat) (f : Core → Core) : (s.modCore c f).cvs = s.cvs := rfl
@[simp] theorem State.modCore_partials (s : State) (c : Nat) (f : Core → Core) : (s.modCore c f).partials = s.partials := rfl
@[simp] theorem State.modCore_replicas (s : State) (c : Nat) (f : Core → Core) : (s.modCore c f).replicas = s.replicas := rfl
@[simp] theorem State.modCore_grans (s : State) (c : Nat) (f : Core → Core) : (s.modCore c f).grans = s.grans := rfl
@[simp] theorem State.modCore_tlb (s : State) (c : Nat) (f : Core → Core) : (s.modCore c f).tlb = s.tlb := rfl
@[simp] theorem State.modCore_asids (s : State) (c : Nat) (f : Core → Core) : (s.modCore c f).asids = s.asids := rfl
@[simp] theorem State.modCore_dirs (s : State) (c : Nat) (f : Core → Core) : (s.modCore c f).dirs = s.dirs := rfl
@[simp] theorem State.modCore_msgs (s : State) (c : Nat) (f : Core → Core) : (s.modCore c f).msgs = s.msgs := rfl
@[simp] theorem State.modCore_elems (s : State) (c : Nat) (f : Core → Core) : (s.modCore c f).elems = s.elems := rfl
@[simp] theorem State.modCore_lost (s : State) (c : Nat) (f : Core → Core) : (s.modCore c f).lost = s.lost := rfl
@[simp] theorem State.modCore_moves (s : State) (c : Nat) (f : Core → Core) : (s.modCore c f).moves = s.moves := rfl
@[simp] theorem State.modCore_rowErrs (s : State) (c : Nat) (f : Core → Core) : (s.modCore c f).rowErrs = s.rowErrs := rfl
@[simp] theorem State.modCore_spared (s : State) (c : Nat) (f : Core → Core) : (s.modCore c f).spared = s.spared := rfl
@[simp] theorem State.modCore_noSpare (s : State) (c : Nat) (f : Core → Core) : (s.modCore c f).noSpare = s.noSpare := rfl
@[simp] theorem State.modCore_regErrs (s : State) (c : Nat) (f : Core → Core) : (s.modCore c f).regErrs = s.regErrs := rfl
@[simp] theorem State.modCore_refetched (s : State) (c : Nat) (f : Core → Core) : (s.modCore c f).refetched = s.refetched := rfl
@[simp] theorem State.modCore_retired (s : State) (c : Nat) (f : Core → Core) : (s.modCore c f).retired = s.retired := rfl
@[simp] theorem State.modCore_fused (s : State) (c : Nat) (f : Core → Core) : (s.modCore c f).fused = s.fused := rfl
@[simp] theorem State.modCore_ports (s : State) (c : Nat) (f : Core → Core) : (s.modCore c f).ports = s.ports := rfl
@[simp] theorem State.modCore_routes (s : State) (c : Nat) (f : Core → Core) : (s.modCore c f).routes = s.routes := rfl
@[simp] theorem State.modCore_modNum (s : State) (c : Nat) (f : Core → Core) : (s.modCore c f).modNum = s.modNum := rfl
@[simp] theorem State.modCore_remotes (s : State) (c : Nat) (f : Core → Core) : (s.modCore c f).remotes = s.remotes := rfl
@[simp] theorem State.modCore_served (s : State) (c : Nat) (f : Core → Core) : (s.modCore c f).served = s.served := rfl
@[simp] theorem State.modCore_gangs (s : State) (c : Nat) (f : Core → Core) : (s.modCore c f).gangs = s.gangs := rfl
@[simp] theorem State.modCore_ring (s : State) (c : Nat) (f : Core → Core) : (s.modCore c f).ring = s.ring := rfl
@[simp] theorem State.modCore_jobs (s : State) (c : Nat) (f : Core → Core) : (s.modCore c f).jobs = s.jobs := rfl
@[simp] theorem State.modCore_posted (s : State) (c : Nat) (f : Core → Core) : (s.modCore c f).posted = s.posted := rfl
@[simp] theorem State.modCore_adminOpen (s : State) (c : Nat) (f : Core → Core) : (s.modCore c f).adminOpen = s.adminOpen := rfl
@[simp] theorem State.modCore_adminBase (s : State) (c : Nat) (f : Core → Core) : (s.modCore c f).adminBase = s.adminBase := rfl
@[simp] theorem State.modCore_adminSize (s : State) (c : Nat) (f : Core → Core) : (s.modCore c f).adminSize = s.adminSize := rfl
@[simp] theorem State.modCore_hostLink (s : State) (c : Nat) (f : Core → Core) : (s.modCore c f).hostLink = s.hostLink := rfl
@[simp] theorem State.modCore_refresh (s : State) (c : Nat) (f : Core → Core) : (s.modCore c f).refresh = s.refresh := rfl
@[simp] theorem State.modCore_lostCached (s : State) (c : Nat) (f : Core → Core) : (s.modCore c f).lostCached = s.lostCached := rfl
@[simp] theorem State.modCore_routing (s : State) (c : Nat) (f : Core → Core) : (s.modCore c f).routing = s.routing := rfl
@[simp] theorem State.modCore_adminHead (s : State) (c : Nat) (f : Core → Core) : (s.modCore c f).adminHead = s.adminHead := rfl
@[simp] theorem State.modCore_resets (s : State) (c : Nat) (f : Core → Core) : (s.modCore c f).resets = s.resets := rfl
@[simp] theorem State.modCore_flash (s : State) (c : Nat) (f : Core → Core) : (s.modCore c f).flash = s.flash := rfl
@[simp] theorem State.modCore_coolant (s : State) (c : Nat) (f : Core → Core) : (s.modCore c f).coolant = s.coolant := rfl
@[simp] theorem State.modCore_amps (s : State) (c : Nat) (f : Core → Core) : (s.modCore c f).amps = s.amps := rfl
@[simp] theorem State.modCore_total (s : State) (c : Nat) (f : Core → Core) : (s.modCore c f).total = s.total := rfl
@[simp] theorem State.modCore_nextAmps (s : State) (c : Nat) (f : Core → Core) : (s.modCore c f).nextAmps = s.nextAmps := rfl
@[simp] theorem State.modCore_nextHeat (s : State) (c : Nat) (f : Core → Core) : (s.modCore c f).nextHeat = s.nextHeat := rfl
@[simp] theorem State.modCore_out (s : State) (c : Nat) (f : Core → Core) : (s.modCore c f).out = s.out := rfl

/-! ## modSlice changes cores alone -/

@[simp] theorem State.modSlice_agenda (s : State) (c : Nat) (f : Slice → Slice) : (s.modSlice c f).agenda = s.agenda := rfl
@[simp] theorem State.modSlice_todo (s : State) (c : Nat) (f : Slice → Slice) : (s.modSlice c f).todo = s.todo := rfl
@[simp] theorem State.modSlice_duties (s : State) (c : Nat) (f : Slice → Slice) : (s.modSlice c f).duties = s.duties := rfl
@[simp] theorem State.modSlice_cur (s : State) (c : Nat) (f : Slice → Slice) : (s.modSlice c f).cur = s.cur := rfl
@[simp] theorem State.modSlice_nextId (s : State) (c : Nat) (f : Slice → Slice) : (s.modSlice c f).nextId = s.nextId := rfl
@[simp] theorem State.modSlice_coh (s : State) (c : Nat) (f : Slice → Slice) : (s.modSlice c f).coh = s.coh := rfl
@[simp] theorem State.modSlice_free (s : State) (c : Nat) (f : Slice → Slice) : (s.modSlice c f).free = s.free := rfl
@[simp] theorem State.modSlice_cycle (s : State) (c : Nat) (f : Slice → Slice) : (s.modSlice c f).cycle = s.cycle := rfl
@[simp] theorem State.modSlice_thyme (s : State) (c : Nat) (f : Slice → Slice) : (s.modSlice c f).thyme = s.thyme := rfl
@[simp] theorem State.modSlice_frac (s : State) (c : Nat) (f : Slice → Slice) : (s.modSlice c f).frac = s.frac := rfl
@[simp] theorem State.modSlice_hbi (s : State) (c : Nat) (f : Slice → Slice) : (s.modSlice c f).hbi = s.hbi := rfl
@[simp] theorem State.modSlice_hbiNext (s : State) (c : Nat) (f : Slice → Slice) : (s.modSlice c f).hbiNext = s.hbiNext := rfl
@[simp] theorem State.modSlice_hbM (s : State) (c : Nat) (f : Slice → Slice) : (s.modSlice c f).hbM = s.hbM := rfl
@[simp] theorem State.modSlice_hbBase (s : State) (c : Nat) (f : Slice → Slice) : (s.modSlice c f).hbBase = s.hbBase := rfl
@[simp] theorem State.modSlice_window (s : State) (c : Nat) (f : Slice → Slice) : (s.modSlice c f).window = s.window := rfl
@[simp] theorem State.modSlice_status (s : State) (c : Nat) (f : Slice → Slice) : (s.modSlice c f).status = s.status := rfl
@[simp] theorem State.modSlice_mem (s : State) (c : Nat) (f : Slice → Slice) : (s.modSlice c f).mem = s.mem := rfl
@[simp] theorem State.modSlice_tiles (s : State) (c : Nat) (f : Slice → Slice) : (s.modSlice c f).tiles = s.tiles := rfl
@[simp] theorem State.modSlice_teams (s : State) (c : Nat) (f : Slice → Slice) : (s.modSlice c f).teams = s.teams := rfl
@[simp] theorem State.modSlice_launches (s : State) (c : Nat) (f : Slice → Slice) : (s.modSlice c f).launches = s.launches := rfl
@[simp] theorem State.modSlice_fleets (s : State) (c : Nat) (f : Slice → Slice) : (s.modSlice c f).fleets = s.fleets := rfl
@[simp] theorem State.modSlice_crews (s : State) (c : Nat) (f : Slice → Slice) : (s.modSlice c f).crews = s.crews := rfl
@[simp] theorem State.modSlice_parts (s : State) (c : Nat) (f : Slice → Slice) : (s.modSlice c f).parts = s.parts := rfl
@[simp] theorem State.modSlice_dies (s : State) (c : Nat) (f : Slice → Slice) : (s.modSlice c f).dies = s.dies := rfl
@[simp] theorem State.modSlice_srams (s : State) (c : Nat) (f : Slice → Slice) : (s.modSlice c f).srams = s.srams := rfl
@[simp] theorem State.modSlice_clusters (s : State) (c : Nat) (f : Slice → Slice) : (s.modSlice c f).clusters = s.clusters := rfl
@[simp] theorem State.modSlice_cvs (s : State) (c : Nat) (f : Slice → Slice) : (s.modSlice c f).cvs = s.cvs := rfl
@[simp] theorem State.modSlice_partials (s : State) (c : Nat) (f : Slice → Slice) : (s.modSlice c f).partials = s.partials := rfl
@[simp] theorem State.modSlice_replicas (s : State) (c : Nat) (f : Slice → Slice) : (s.modSlice c f).replicas = s.replicas := rfl
@[simp] theorem State.modSlice_grans (s : State) (c : Nat) (f : Slice → Slice) : (s.modSlice c f).grans = s.grans := rfl
@[simp] theorem State.modSlice_tlb (s : State) (c : Nat) (f : Slice → Slice) : (s.modSlice c f).tlb = s.tlb := rfl
@[simp] theorem State.modSlice_asids (s : State) (c : Nat) (f : Slice → Slice) : (s.modSlice c f).asids = s.asids := rfl
@[simp] theorem State.modSlice_dirs (s : State) (c : Nat) (f : Slice → Slice) : (s.modSlice c f).dirs = s.dirs := rfl
@[simp] theorem State.modSlice_msgs (s : State) (c : Nat) (f : Slice → Slice) : (s.modSlice c f).msgs = s.msgs := rfl
@[simp] theorem State.modSlice_elems (s : State) (c : Nat) (f : Slice → Slice) : (s.modSlice c f).elems = s.elems := rfl
@[simp] theorem State.modSlice_lost (s : State) (c : Nat) (f : Slice → Slice) : (s.modSlice c f).lost = s.lost := rfl
@[simp] theorem State.modSlice_moves (s : State) (c : Nat) (f : Slice → Slice) : (s.modSlice c f).moves = s.moves := rfl
@[simp] theorem State.modSlice_rowErrs (s : State) (c : Nat) (f : Slice → Slice) : (s.modSlice c f).rowErrs = s.rowErrs := rfl
@[simp] theorem State.modSlice_spared (s : State) (c : Nat) (f : Slice → Slice) : (s.modSlice c f).spared = s.spared := rfl
@[simp] theorem State.modSlice_noSpare (s : State) (c : Nat) (f : Slice → Slice) : (s.modSlice c f).noSpare = s.noSpare := rfl
@[simp] theorem State.modSlice_regErrs (s : State) (c : Nat) (f : Slice → Slice) : (s.modSlice c f).regErrs = s.regErrs := rfl
@[simp] theorem State.modSlice_refetched (s : State) (c : Nat) (f : Slice → Slice) : (s.modSlice c f).refetched = s.refetched := rfl
@[simp] theorem State.modSlice_retired (s : State) (c : Nat) (f : Slice → Slice) : (s.modSlice c f).retired = s.retired := rfl
@[simp] theorem State.modSlice_fused (s : State) (c : Nat) (f : Slice → Slice) : (s.modSlice c f).fused = s.fused := rfl
@[simp] theorem State.modSlice_ports (s : State) (c : Nat) (f : Slice → Slice) : (s.modSlice c f).ports = s.ports := rfl
@[simp] theorem State.modSlice_routes (s : State) (c : Nat) (f : Slice → Slice) : (s.modSlice c f).routes = s.routes := rfl
@[simp] theorem State.modSlice_modNum (s : State) (c : Nat) (f : Slice → Slice) : (s.modSlice c f).modNum = s.modNum := rfl
@[simp] theorem State.modSlice_remotes (s : State) (c : Nat) (f : Slice → Slice) : (s.modSlice c f).remotes = s.remotes := rfl
@[simp] theorem State.modSlice_served (s : State) (c : Nat) (f : Slice → Slice) : (s.modSlice c f).served = s.served := rfl
@[simp] theorem State.modSlice_gangs (s : State) (c : Nat) (f : Slice → Slice) : (s.modSlice c f).gangs = s.gangs := rfl
@[simp] theorem State.modSlice_ring (s : State) (c : Nat) (f : Slice → Slice) : (s.modSlice c f).ring = s.ring := rfl
@[simp] theorem State.modSlice_jobs (s : State) (c : Nat) (f : Slice → Slice) : (s.modSlice c f).jobs = s.jobs := rfl
@[simp] theorem State.modSlice_posted (s : State) (c : Nat) (f : Slice → Slice) : (s.modSlice c f).posted = s.posted := rfl
@[simp] theorem State.modSlice_adminOpen (s : State) (c : Nat) (f : Slice → Slice) : (s.modSlice c f).adminOpen = s.adminOpen := rfl
@[simp] theorem State.modSlice_adminBase (s : State) (c : Nat) (f : Slice → Slice) : (s.modSlice c f).adminBase = s.adminBase := rfl
@[simp] theorem State.modSlice_adminSize (s : State) (c : Nat) (f : Slice → Slice) : (s.modSlice c f).adminSize = s.adminSize := rfl
@[simp] theorem State.modSlice_hostLink (s : State) (c : Nat) (f : Slice → Slice) : (s.modSlice c f).hostLink = s.hostLink := rfl
@[simp] theorem State.modSlice_refresh (s : State) (c : Nat) (f : Slice → Slice) : (s.modSlice c f).refresh = s.refresh := rfl
@[simp] theorem State.modSlice_lostCached (s : State) (c : Nat) (f : Slice → Slice) : (s.modSlice c f).lostCached = s.lostCached := rfl
@[simp] theorem State.modSlice_routing (s : State) (c : Nat) (f : Slice → Slice) : (s.modSlice c f).routing = s.routing := rfl
@[simp] theorem State.modSlice_adminHead (s : State) (c : Nat) (f : Slice → Slice) : (s.modSlice c f).adminHead = s.adminHead := rfl
@[simp] theorem State.modSlice_resets (s : State) (c : Nat) (f : Slice → Slice) : (s.modSlice c f).resets = s.resets := rfl
@[simp] theorem State.modSlice_flash (s : State) (c : Nat) (f : Slice → Slice) : (s.modSlice c f).flash = s.flash := rfl
@[simp] theorem State.modSlice_coolant (s : State) (c : Nat) (f : Slice → Slice) : (s.modSlice c f).coolant = s.coolant := rfl
@[simp] theorem State.modSlice_amps (s : State) (c : Nat) (f : Slice → Slice) : (s.modSlice c f).amps = s.amps := rfl
@[simp] theorem State.modSlice_total (s : State) (c : Nat) (f : Slice → Slice) : (s.modSlice c f).total = s.total := rfl
@[simp] theorem State.modSlice_nextAmps (s : State) (c : Nat) (f : Slice → Slice) : (s.modSlice c f).nextAmps = s.nextAmps := rfl
@[simp] theorem State.modSlice_nextHeat (s : State) (c : Nat) (f : Slice → Slice) : (s.modSlice c f).nextHeat = s.nextHeat := rfl
@[simp] theorem State.modSlice_out (s : State) (c : Nat) (f : Slice → Slice) : (s.modSlice c f).out = s.out := rfl

/-! ## modGran changes grans alone -/

@[simp] theorem State.modGran_agenda (s : State) (g : Nat) (f : Gran → Gran) : (s.modGran g f).agenda = s.agenda := rfl
@[simp] theorem State.modGran_todo (s : State) (g : Nat) (f : Gran → Gran) : (s.modGran g f).todo = s.todo := rfl
@[simp] theorem State.modGran_duties (s : State) (g : Nat) (f : Gran → Gran) : (s.modGran g f).duties = s.duties := rfl
@[simp] theorem State.modGran_cur (s : State) (g : Nat) (f : Gran → Gran) : (s.modGran g f).cur = s.cur := rfl
@[simp] theorem State.modGran_nextId (s : State) (g : Nat) (f : Gran → Gran) : (s.modGran g f).nextId = s.nextId := rfl
@[simp] theorem State.modGran_coh (s : State) (g : Nat) (f : Gran → Gran) : (s.modGran g f).coh = s.coh := rfl
@[simp] theorem State.modGran_free (s : State) (g : Nat) (f : Gran → Gran) : (s.modGran g f).free = s.free := rfl
@[simp] theorem State.modGran_cycle (s : State) (g : Nat) (f : Gran → Gran) : (s.modGran g f).cycle = s.cycle := rfl
@[simp] theorem State.modGran_thyme (s : State) (g : Nat) (f : Gran → Gran) : (s.modGran g f).thyme = s.thyme := rfl
@[simp] theorem State.modGran_frac (s : State) (g : Nat) (f : Gran → Gran) : (s.modGran g f).frac = s.frac := rfl
@[simp] theorem State.modGran_hbi (s : State) (g : Nat) (f : Gran → Gran) : (s.modGran g f).hbi = s.hbi := rfl
@[simp] theorem State.modGran_hbiNext (s : State) (g : Nat) (f : Gran → Gran) : (s.modGran g f).hbiNext = s.hbiNext := rfl
@[simp] theorem State.modGran_hbM (s : State) (g : Nat) (f : Gran → Gran) : (s.modGran g f).hbM = s.hbM := rfl
@[simp] theorem State.modGran_hbBase (s : State) (g : Nat) (f : Gran → Gran) : (s.modGran g f).hbBase = s.hbBase := rfl
@[simp] theorem State.modGran_window (s : State) (g : Nat) (f : Gran → Gran) : (s.modGran g f).window = s.window := rfl
@[simp] theorem State.modGran_status (s : State) (g : Nat) (f : Gran → Gran) : (s.modGran g f).status = s.status := rfl
@[simp] theorem State.modGran_mem (s : State) (g : Nat) (f : Gran → Gran) : (s.modGran g f).mem = s.mem := rfl
@[simp] theorem State.modGran_tiles (s : State) (g : Nat) (f : Gran → Gran) : (s.modGran g f).tiles = s.tiles := rfl
@[simp] theorem State.modGran_teams (s : State) (g : Nat) (f : Gran → Gran) : (s.modGran g f).teams = s.teams := rfl
@[simp] theorem State.modGran_launches (s : State) (g : Nat) (f : Gran → Gran) : (s.modGran g f).launches = s.launches := rfl
@[simp] theorem State.modGran_fleets (s : State) (g : Nat) (f : Gran → Gran) : (s.modGran g f).fleets = s.fleets := rfl
@[simp] theorem State.modGran_crews (s : State) (g : Nat) (f : Gran → Gran) : (s.modGran g f).crews = s.crews := rfl
@[simp] theorem State.modGran_parts (s : State) (g : Nat) (f : Gran → Gran) : (s.modGran g f).parts = s.parts := rfl
@[simp] theorem State.modGran_cores (s : State) (g : Nat) (f : Gran → Gran) : (s.modGran g f).cores = s.cores := rfl
@[simp] theorem State.modGran_dies (s : State) (g : Nat) (f : Gran → Gran) : (s.modGran g f).dies = s.dies := rfl
@[simp] theorem State.modGran_srams (s : State) (g : Nat) (f : Gran → Gran) : (s.modGran g f).srams = s.srams := rfl
@[simp] theorem State.modGran_clusters (s : State) (g : Nat) (f : Gran → Gran) : (s.modGran g f).clusters = s.clusters := rfl
@[simp] theorem State.modGran_cvs (s : State) (g : Nat) (f : Gran → Gran) : (s.modGran g f).cvs = s.cvs := rfl
@[simp] theorem State.modGran_partials (s : State) (g : Nat) (f : Gran → Gran) : (s.modGran g f).partials = s.partials := rfl
@[simp] theorem State.modGran_replicas (s : State) (g : Nat) (f : Gran → Gran) : (s.modGran g f).replicas = s.replicas := rfl
@[simp] theorem State.modGran_tlb (s : State) (g : Nat) (f : Gran → Gran) : (s.modGran g f).tlb = s.tlb := rfl
@[simp] theorem State.modGran_asids (s : State) (g : Nat) (f : Gran → Gran) : (s.modGran g f).asids = s.asids := rfl
@[simp] theorem State.modGran_dirs (s : State) (g : Nat) (f : Gran → Gran) : (s.modGran g f).dirs = s.dirs := rfl
@[simp] theorem State.modGran_msgs (s : State) (g : Nat) (f : Gran → Gran) : (s.modGran g f).msgs = s.msgs := rfl
@[simp] theorem State.modGran_elems (s : State) (g : Nat) (f : Gran → Gran) : (s.modGran g f).elems = s.elems := rfl
@[simp] theorem State.modGran_lost (s : State) (g : Nat) (f : Gran → Gran) : (s.modGran g f).lost = s.lost := rfl
@[simp] theorem State.modGran_moves (s : State) (g : Nat) (f : Gran → Gran) : (s.modGran g f).moves = s.moves := rfl
@[simp] theorem State.modGran_rowErrs (s : State) (g : Nat) (f : Gran → Gran) : (s.modGran g f).rowErrs = s.rowErrs := rfl
@[simp] theorem State.modGran_spared (s : State) (g : Nat) (f : Gran → Gran) : (s.modGran g f).spared = s.spared := rfl
@[simp] theorem State.modGran_noSpare (s : State) (g : Nat) (f : Gran → Gran) : (s.modGran g f).noSpare = s.noSpare := rfl
@[simp] theorem State.modGran_regErrs (s : State) (g : Nat) (f : Gran → Gran) : (s.modGran g f).regErrs = s.regErrs := rfl
@[simp] theorem State.modGran_refetched (s : State) (g : Nat) (f : Gran → Gran) : (s.modGran g f).refetched = s.refetched := rfl
@[simp] theorem State.modGran_retired (s : State) (g : Nat) (f : Gran → Gran) : (s.modGran g f).retired = s.retired := rfl
@[simp] theorem State.modGran_fused (s : State) (g : Nat) (f : Gran → Gran) : (s.modGran g f).fused = s.fused := rfl
@[simp] theorem State.modGran_ports (s : State) (g : Nat) (f : Gran → Gran) : (s.modGran g f).ports = s.ports := rfl
@[simp] theorem State.modGran_routes (s : State) (g : Nat) (f : Gran → Gran) : (s.modGran g f).routes = s.routes := rfl
@[simp] theorem State.modGran_modNum (s : State) (g : Nat) (f : Gran → Gran) : (s.modGran g f).modNum = s.modNum := rfl
@[simp] theorem State.modGran_remotes (s : State) (g : Nat) (f : Gran → Gran) : (s.modGran g f).remotes = s.remotes := rfl
@[simp] theorem State.modGran_served (s : State) (g : Nat) (f : Gran → Gran) : (s.modGran g f).served = s.served := rfl
@[simp] theorem State.modGran_gangs (s : State) (g : Nat) (f : Gran → Gran) : (s.modGran g f).gangs = s.gangs := rfl
@[simp] theorem State.modGran_ring (s : State) (g : Nat) (f : Gran → Gran) : (s.modGran g f).ring = s.ring := rfl
@[simp] theorem State.modGran_jobs (s : State) (g : Nat) (f : Gran → Gran) : (s.modGran g f).jobs = s.jobs := rfl
@[simp] theorem State.modGran_posted (s : State) (g : Nat) (f : Gran → Gran) : (s.modGran g f).posted = s.posted := rfl
@[simp] theorem State.modGran_adminOpen (s : State) (g : Nat) (f : Gran → Gran) : (s.modGran g f).adminOpen = s.adminOpen := rfl
@[simp] theorem State.modGran_adminBase (s : State) (g : Nat) (f : Gran → Gran) : (s.modGran g f).adminBase = s.adminBase := rfl
@[simp] theorem State.modGran_adminSize (s : State) (g : Nat) (f : Gran → Gran) : (s.modGran g f).adminSize = s.adminSize := rfl
@[simp] theorem State.modGran_hostLink (s : State) (g : Nat) (f : Gran → Gran) : (s.modGran g f).hostLink = s.hostLink := rfl
@[simp] theorem State.modGran_refresh (s : State) (g : Nat) (f : Gran → Gran) : (s.modGran g f).refresh = s.refresh := rfl
@[simp] theorem State.modGran_lostCached (s : State) (g : Nat) (f : Gran → Gran) : (s.modGran g f).lostCached = s.lostCached := rfl
@[simp] theorem State.modGran_routing (s : State) (g : Nat) (f : Gran → Gran) : (s.modGran g f).routing = s.routing := rfl
@[simp] theorem State.modGran_adminHead (s : State) (g : Nat) (f : Gran → Gran) : (s.modGran g f).adminHead = s.adminHead := rfl
@[simp] theorem State.modGran_resets (s : State) (g : Nat) (f : Gran → Gran) : (s.modGran g f).resets = s.resets := rfl
@[simp] theorem State.modGran_flash (s : State) (g : Nat) (f : Gran → Gran) : (s.modGran g f).flash = s.flash := rfl
@[simp] theorem State.modGran_coolant (s : State) (g : Nat) (f : Gran → Gran) : (s.modGran g f).coolant = s.coolant := rfl
@[simp] theorem State.modGran_amps (s : State) (g : Nat) (f : Gran → Gran) : (s.modGran g f).amps = s.amps := rfl
@[simp] theorem State.modGran_total (s : State) (g : Nat) (f : Gran → Gran) : (s.modGran g f).total = s.total := rfl
@[simp] theorem State.modGran_nextAmps (s : State) (g : Nat) (f : Gran → Gran) : (s.modGran g f).nextAmps = s.nextAmps := rfl
@[simp] theorem State.modGran_nextHeat (s : State) (g : Nat) (f : Gran → Gran) : (s.modGran g f).nextHeat = s.nextHeat := rfl
@[simp] theorem State.modGran_out (s : State) (g : Nat) (f : Gran → Gran) : (s.modGran g f).out = s.out := rfl

/-! ## modDir changes dirs alone -/

@[simp] theorem State.modDir_agenda (s : State) (d l : Nat) (f : Dir → Dir) : (s.modDir d l f).agenda = s.agenda := rfl
@[simp] theorem State.modDir_todo (s : State) (d l : Nat) (f : Dir → Dir) : (s.modDir d l f).todo = s.todo := rfl
@[simp] theorem State.modDir_duties (s : State) (d l : Nat) (f : Dir → Dir) : (s.modDir d l f).duties = s.duties := rfl
@[simp] theorem State.modDir_cur (s : State) (d l : Nat) (f : Dir → Dir) : (s.modDir d l f).cur = s.cur := rfl
@[simp] theorem State.modDir_nextId (s : State) (d l : Nat) (f : Dir → Dir) : (s.modDir d l f).nextId = s.nextId := rfl
@[simp] theorem State.modDir_coh (s : State) (d l : Nat) (f : Dir → Dir) : (s.modDir d l f).coh = s.coh := rfl
@[simp] theorem State.modDir_free (s : State) (d l : Nat) (f : Dir → Dir) : (s.modDir d l f).free = s.free := rfl
@[simp] theorem State.modDir_cycle (s : State) (d l : Nat) (f : Dir → Dir) : (s.modDir d l f).cycle = s.cycle := rfl
@[simp] theorem State.modDir_thyme (s : State) (d l : Nat) (f : Dir → Dir) : (s.modDir d l f).thyme = s.thyme := rfl
@[simp] theorem State.modDir_frac (s : State) (d l : Nat) (f : Dir → Dir) : (s.modDir d l f).frac = s.frac := rfl
@[simp] theorem State.modDir_hbi (s : State) (d l : Nat) (f : Dir → Dir) : (s.modDir d l f).hbi = s.hbi := rfl
@[simp] theorem State.modDir_hbiNext (s : State) (d l : Nat) (f : Dir → Dir) : (s.modDir d l f).hbiNext = s.hbiNext := rfl
@[simp] theorem State.modDir_hbM (s : State) (d l : Nat) (f : Dir → Dir) : (s.modDir d l f).hbM = s.hbM := rfl
@[simp] theorem State.modDir_hbBase (s : State) (d l : Nat) (f : Dir → Dir) : (s.modDir d l f).hbBase = s.hbBase := rfl
@[simp] theorem State.modDir_window (s : State) (d l : Nat) (f : Dir → Dir) : (s.modDir d l f).window = s.window := rfl
@[simp] theorem State.modDir_status (s : State) (d l : Nat) (f : Dir → Dir) : (s.modDir d l f).status = s.status := rfl
@[simp] theorem State.modDir_mem (s : State) (d l : Nat) (f : Dir → Dir) : (s.modDir d l f).mem = s.mem := rfl
@[simp] theorem State.modDir_tiles (s : State) (d l : Nat) (f : Dir → Dir) : (s.modDir d l f).tiles = s.tiles := rfl
@[simp] theorem State.modDir_teams (s : State) (d l : Nat) (f : Dir → Dir) : (s.modDir d l f).teams = s.teams := rfl
@[simp] theorem State.modDir_launches (s : State) (d l : Nat) (f : Dir → Dir) : (s.modDir d l f).launches = s.launches := rfl
@[simp] theorem State.modDir_fleets (s : State) (d l : Nat) (f : Dir → Dir) : (s.modDir d l f).fleets = s.fleets := rfl
@[simp] theorem State.modDir_crews (s : State) (d l : Nat) (f : Dir → Dir) : (s.modDir d l f).crews = s.crews := rfl
@[simp] theorem State.modDir_parts (s : State) (d l : Nat) (f : Dir → Dir) : (s.modDir d l f).parts = s.parts := rfl
@[simp] theorem State.modDir_cores (s : State) (d l : Nat) (f : Dir → Dir) : (s.modDir d l f).cores = s.cores := rfl
@[simp] theorem State.modDir_dies (s : State) (d l : Nat) (f : Dir → Dir) : (s.modDir d l f).dies = s.dies := rfl
@[simp] theorem State.modDir_srams (s : State) (d l : Nat) (f : Dir → Dir) : (s.modDir d l f).srams = s.srams := rfl
@[simp] theorem State.modDir_clusters (s : State) (d l : Nat) (f : Dir → Dir) : (s.modDir d l f).clusters = s.clusters := rfl
@[simp] theorem State.modDir_cvs (s : State) (d l : Nat) (f : Dir → Dir) : (s.modDir d l f).cvs = s.cvs := rfl
@[simp] theorem State.modDir_partials (s : State) (d l : Nat) (f : Dir → Dir) : (s.modDir d l f).partials = s.partials := rfl
@[simp] theorem State.modDir_replicas (s : State) (d l : Nat) (f : Dir → Dir) : (s.modDir d l f).replicas = s.replicas := rfl
@[simp] theorem State.modDir_grans (s : State) (d l : Nat) (f : Dir → Dir) : (s.modDir d l f).grans = s.grans := rfl
@[simp] theorem State.modDir_tlb (s : State) (d l : Nat) (f : Dir → Dir) : (s.modDir d l f).tlb = s.tlb := rfl
@[simp] theorem State.modDir_asids (s : State) (d l : Nat) (f : Dir → Dir) : (s.modDir d l f).asids = s.asids := rfl
@[simp] theorem State.modDir_msgs (s : State) (d l : Nat) (f : Dir → Dir) : (s.modDir d l f).msgs = s.msgs := rfl
@[simp] theorem State.modDir_elems (s : State) (d l : Nat) (f : Dir → Dir) : (s.modDir d l f).elems = s.elems := rfl
@[simp] theorem State.modDir_lost (s : State) (d l : Nat) (f : Dir → Dir) : (s.modDir d l f).lost = s.lost := rfl
@[simp] theorem State.modDir_moves (s : State) (d l : Nat) (f : Dir → Dir) : (s.modDir d l f).moves = s.moves := rfl
@[simp] theorem State.modDir_rowErrs (s : State) (d l : Nat) (f : Dir → Dir) : (s.modDir d l f).rowErrs = s.rowErrs := rfl
@[simp] theorem State.modDir_spared (s : State) (d l : Nat) (f : Dir → Dir) : (s.modDir d l f).spared = s.spared := rfl
@[simp] theorem State.modDir_noSpare (s : State) (d l : Nat) (f : Dir → Dir) : (s.modDir d l f).noSpare = s.noSpare := rfl
@[simp] theorem State.modDir_regErrs (s : State) (d l : Nat) (f : Dir → Dir) : (s.modDir d l f).regErrs = s.regErrs := rfl
@[simp] theorem State.modDir_refetched (s : State) (d l : Nat) (f : Dir → Dir) : (s.modDir d l f).refetched = s.refetched := rfl
@[simp] theorem State.modDir_retired (s : State) (d l : Nat) (f : Dir → Dir) : (s.modDir d l f).retired = s.retired := rfl
@[simp] theorem State.modDir_fused (s : State) (d l : Nat) (f : Dir → Dir) : (s.modDir d l f).fused = s.fused := rfl
@[simp] theorem State.modDir_ports (s : State) (d l : Nat) (f : Dir → Dir) : (s.modDir d l f).ports = s.ports := rfl
@[simp] theorem State.modDir_routes (s : State) (d l : Nat) (f : Dir → Dir) : (s.modDir d l f).routes = s.routes := rfl
@[simp] theorem State.modDir_modNum (s : State) (d l : Nat) (f : Dir → Dir) : (s.modDir d l f).modNum = s.modNum := rfl
@[simp] theorem State.modDir_remotes (s : State) (d l : Nat) (f : Dir → Dir) : (s.modDir d l f).remotes = s.remotes := rfl
@[simp] theorem State.modDir_served (s : State) (d l : Nat) (f : Dir → Dir) : (s.modDir d l f).served = s.served := rfl
@[simp] theorem State.modDir_gangs (s : State) (d l : Nat) (f : Dir → Dir) : (s.modDir d l f).gangs = s.gangs := rfl
@[simp] theorem State.modDir_ring (s : State) (d l : Nat) (f : Dir → Dir) : (s.modDir d l f).ring = s.ring := rfl
@[simp] theorem State.modDir_jobs (s : State) (d l : Nat) (f : Dir → Dir) : (s.modDir d l f).jobs = s.jobs := rfl
@[simp] theorem State.modDir_posted (s : State) (d l : Nat) (f : Dir → Dir) : (s.modDir d l f).posted = s.posted := rfl
@[simp] theorem State.modDir_adminOpen (s : State) (d l : Nat) (f : Dir → Dir) : (s.modDir d l f).adminOpen = s.adminOpen := rfl
@[simp] theorem State.modDir_adminBase (s : State) (d l : Nat) (f : Dir → Dir) : (s.modDir d l f).adminBase = s.adminBase := rfl
@[simp] theorem State.modDir_adminSize (s : State) (d l : Nat) (f : Dir → Dir) : (s.modDir d l f).adminSize = s.adminSize := rfl
@[simp] theorem State.modDir_hostLink (s : State) (d l : Nat) (f : Dir → Dir) : (s.modDir d l f).hostLink = s.hostLink := rfl
@[simp] theorem State.modDir_refresh (s : State) (d l : Nat) (f : Dir → Dir) : (s.modDir d l f).refresh = s.refresh := rfl
@[simp] theorem State.modDir_lostCached (s : State) (d l : Nat) (f : Dir → Dir) : (s.modDir d l f).lostCached = s.lostCached := rfl
@[simp] theorem State.modDir_routing (s : State) (d l : Nat) (f : Dir → Dir) : (s.modDir d l f).routing = s.routing := rfl
@[simp] theorem State.modDir_adminHead (s : State) (d l : Nat) (f : Dir → Dir) : (s.modDir d l f).adminHead = s.adminHead := rfl
@[simp] theorem State.modDir_resets (s : State) (d l : Nat) (f : Dir → Dir) : (s.modDir d l f).resets = s.resets := rfl
@[simp] theorem State.modDir_flash (s : State) (d l : Nat) (f : Dir → Dir) : (s.modDir d l f).flash = s.flash := rfl
@[simp] theorem State.modDir_coolant (s : State) (d l : Nat) (f : Dir → Dir) : (s.modDir d l f).coolant = s.coolant := rfl
@[simp] theorem State.modDir_amps (s : State) (d l : Nat) (f : Dir → Dir) : (s.modDir d l f).amps = s.amps := rfl
@[simp] theorem State.modDir_total (s : State) (d l : Nat) (f : Dir → Dir) : (s.modDir d l f).total = s.total := rfl
@[simp] theorem State.modDir_nextAmps (s : State) (d l : Nat) (f : Dir → Dir) : (s.modDir d l f).nextAmps = s.nextAmps := rfl
@[simp] theorem State.modDir_nextHeat (s : State) (d l : Nat) (f : Dir → Dir) : (s.modDir d l f).nextHeat = s.nextHeat := rfl
@[simp] theorem State.modDir_out (s : State) (d l : Nat) (f : Dir → Dir) : (s.modDir d l f).out = s.out := rfl

/-! ## modElem changes elems alone -/

@[simp] theorem State.modElem_agenda (s : State) (k : Nat) (f : Elem → Elem) : (s.modElem k f).agenda = s.agenda := rfl
@[simp] theorem State.modElem_todo (s : State) (k : Nat) (f : Elem → Elem) : (s.modElem k f).todo = s.todo := rfl
@[simp] theorem State.modElem_duties (s : State) (k : Nat) (f : Elem → Elem) : (s.modElem k f).duties = s.duties := rfl
@[simp] theorem State.modElem_cur (s : State) (k : Nat) (f : Elem → Elem) : (s.modElem k f).cur = s.cur := rfl
@[simp] theorem State.modElem_nextId (s : State) (k : Nat) (f : Elem → Elem) : (s.modElem k f).nextId = s.nextId := rfl
@[simp] theorem State.modElem_coh (s : State) (k : Nat) (f : Elem → Elem) : (s.modElem k f).coh = s.coh := rfl
@[simp] theorem State.modElem_free (s : State) (k : Nat) (f : Elem → Elem) : (s.modElem k f).free = s.free := rfl
@[simp] theorem State.modElem_cycle (s : State) (k : Nat) (f : Elem → Elem) : (s.modElem k f).cycle = s.cycle := rfl
@[simp] theorem State.modElem_thyme (s : State) (k : Nat) (f : Elem → Elem) : (s.modElem k f).thyme = s.thyme := rfl
@[simp] theorem State.modElem_frac (s : State) (k : Nat) (f : Elem → Elem) : (s.modElem k f).frac = s.frac := rfl
@[simp] theorem State.modElem_hbi (s : State) (k : Nat) (f : Elem → Elem) : (s.modElem k f).hbi = s.hbi := rfl
@[simp] theorem State.modElem_hbiNext (s : State) (k : Nat) (f : Elem → Elem) : (s.modElem k f).hbiNext = s.hbiNext := rfl
@[simp] theorem State.modElem_hbM (s : State) (k : Nat) (f : Elem → Elem) : (s.modElem k f).hbM = s.hbM := rfl
@[simp] theorem State.modElem_hbBase (s : State) (k : Nat) (f : Elem → Elem) : (s.modElem k f).hbBase = s.hbBase := rfl
@[simp] theorem State.modElem_window (s : State) (k : Nat) (f : Elem → Elem) : (s.modElem k f).window = s.window := rfl
@[simp] theorem State.modElem_status (s : State) (k : Nat) (f : Elem → Elem) : (s.modElem k f).status = s.status := rfl
@[simp] theorem State.modElem_mem (s : State) (k : Nat) (f : Elem → Elem) : (s.modElem k f).mem = s.mem := rfl
@[simp] theorem State.modElem_tiles (s : State) (k : Nat) (f : Elem → Elem) : (s.modElem k f).tiles = s.tiles := rfl
@[simp] theorem State.modElem_teams (s : State) (k : Nat) (f : Elem → Elem) : (s.modElem k f).teams = s.teams := rfl
@[simp] theorem State.modElem_launches (s : State) (k : Nat) (f : Elem → Elem) : (s.modElem k f).launches = s.launches := rfl
@[simp] theorem State.modElem_fleets (s : State) (k : Nat) (f : Elem → Elem) : (s.modElem k f).fleets = s.fleets := rfl
@[simp] theorem State.modElem_crews (s : State) (k : Nat) (f : Elem → Elem) : (s.modElem k f).crews = s.crews := rfl
@[simp] theorem State.modElem_parts (s : State) (k : Nat) (f : Elem → Elem) : (s.modElem k f).parts = s.parts := rfl
@[simp] theorem State.modElem_cores (s : State) (k : Nat) (f : Elem → Elem) : (s.modElem k f).cores = s.cores := rfl
@[simp] theorem State.modElem_dies (s : State) (k : Nat) (f : Elem → Elem) : (s.modElem k f).dies = s.dies := rfl
@[simp] theorem State.modElem_srams (s : State) (k : Nat) (f : Elem → Elem) : (s.modElem k f).srams = s.srams := rfl
@[simp] theorem State.modElem_clusters (s : State) (k : Nat) (f : Elem → Elem) : (s.modElem k f).clusters = s.clusters := rfl
@[simp] theorem State.modElem_cvs (s : State) (k : Nat) (f : Elem → Elem) : (s.modElem k f).cvs = s.cvs := rfl
@[simp] theorem State.modElem_partials (s : State) (k : Nat) (f : Elem → Elem) : (s.modElem k f).partials = s.partials := rfl
@[simp] theorem State.modElem_replicas (s : State) (k : Nat) (f : Elem → Elem) : (s.modElem k f).replicas = s.replicas := rfl
@[simp] theorem State.modElem_grans (s : State) (k : Nat) (f : Elem → Elem) : (s.modElem k f).grans = s.grans := rfl
@[simp] theorem State.modElem_tlb (s : State) (k : Nat) (f : Elem → Elem) : (s.modElem k f).tlb = s.tlb := rfl
@[simp] theorem State.modElem_asids (s : State) (k : Nat) (f : Elem → Elem) : (s.modElem k f).asids = s.asids := rfl
@[simp] theorem State.modElem_dirs (s : State) (k : Nat) (f : Elem → Elem) : (s.modElem k f).dirs = s.dirs := rfl
@[simp] theorem State.modElem_msgs (s : State) (k : Nat) (f : Elem → Elem) : (s.modElem k f).msgs = s.msgs := rfl
@[simp] theorem State.modElem_lost (s : State) (k : Nat) (f : Elem → Elem) : (s.modElem k f).lost = s.lost := rfl
@[simp] theorem State.modElem_moves (s : State) (k : Nat) (f : Elem → Elem) : (s.modElem k f).moves = s.moves := rfl
@[simp] theorem State.modElem_rowErrs (s : State) (k : Nat) (f : Elem → Elem) : (s.modElem k f).rowErrs = s.rowErrs := rfl
@[simp] theorem State.modElem_spared (s : State) (k : Nat) (f : Elem → Elem) : (s.modElem k f).spared = s.spared := rfl
@[simp] theorem State.modElem_noSpare (s : State) (k : Nat) (f : Elem → Elem) : (s.modElem k f).noSpare = s.noSpare := rfl
@[simp] theorem State.modElem_regErrs (s : State) (k : Nat) (f : Elem → Elem) : (s.modElem k f).regErrs = s.regErrs := rfl
@[simp] theorem State.modElem_refetched (s : State) (k : Nat) (f : Elem → Elem) : (s.modElem k f).refetched = s.refetched := rfl
@[simp] theorem State.modElem_retired (s : State) (k : Nat) (f : Elem → Elem) : (s.modElem k f).retired = s.retired := rfl
@[simp] theorem State.modElem_fused (s : State) (k : Nat) (f : Elem → Elem) : (s.modElem k f).fused = s.fused := rfl
@[simp] theorem State.modElem_ports (s : State) (k : Nat) (f : Elem → Elem) : (s.modElem k f).ports = s.ports := rfl
@[simp] theorem State.modElem_routes (s : State) (k : Nat) (f : Elem → Elem) : (s.modElem k f).routes = s.routes := rfl
@[simp] theorem State.modElem_modNum (s : State) (k : Nat) (f : Elem → Elem) : (s.modElem k f).modNum = s.modNum := rfl
@[simp] theorem State.modElem_remotes (s : State) (k : Nat) (f : Elem → Elem) : (s.modElem k f).remotes = s.remotes := rfl
@[simp] theorem State.modElem_served (s : State) (k : Nat) (f : Elem → Elem) : (s.modElem k f).served = s.served := rfl
@[simp] theorem State.modElem_gangs (s : State) (k : Nat) (f : Elem → Elem) : (s.modElem k f).gangs = s.gangs := rfl
@[simp] theorem State.modElem_ring (s : State) (k : Nat) (f : Elem → Elem) : (s.modElem k f).ring = s.ring := rfl
@[simp] theorem State.modElem_jobs (s : State) (k : Nat) (f : Elem → Elem) : (s.modElem k f).jobs = s.jobs := rfl
@[simp] theorem State.modElem_posted (s : State) (k : Nat) (f : Elem → Elem) : (s.modElem k f).posted = s.posted := rfl
@[simp] theorem State.modElem_adminOpen (s : State) (k : Nat) (f : Elem → Elem) : (s.modElem k f).adminOpen = s.adminOpen := rfl
@[simp] theorem State.modElem_adminBase (s : State) (k : Nat) (f : Elem → Elem) : (s.modElem k f).adminBase = s.adminBase := rfl
@[simp] theorem State.modElem_adminSize (s : State) (k : Nat) (f : Elem → Elem) : (s.modElem k f).adminSize = s.adminSize := rfl
@[simp] theorem State.modElem_hostLink (s : State) (k : Nat) (f : Elem → Elem) : (s.modElem k f).hostLink = s.hostLink := rfl
@[simp] theorem State.modElem_refresh (s : State) (k : Nat) (f : Elem → Elem) : (s.modElem k f).refresh = s.refresh := rfl
@[simp] theorem State.modElem_lostCached (s : State) (k : Nat) (f : Elem → Elem) : (s.modElem k f).lostCached = s.lostCached := rfl
@[simp] theorem State.modElem_routing (s : State) (k : Nat) (f : Elem → Elem) : (s.modElem k f).routing = s.routing := rfl
@[simp] theorem State.modElem_adminHead (s : State) (k : Nat) (f : Elem → Elem) : (s.modElem k f).adminHead = s.adminHead := rfl
@[simp] theorem State.modElem_resets (s : State) (k : Nat) (f : Elem → Elem) : (s.modElem k f).resets = s.resets := rfl
@[simp] theorem State.modElem_flash (s : State) (k : Nat) (f : Elem → Elem) : (s.modElem k f).flash = s.flash := rfl
@[simp] theorem State.modElem_coolant (s : State) (k : Nat) (f : Elem → Elem) : (s.modElem k f).coolant = s.coolant := rfl
@[simp] theorem State.modElem_amps (s : State) (k : Nat) (f : Elem → Elem) : (s.modElem k f).amps = s.amps := rfl
@[simp] theorem State.modElem_total (s : State) (k : Nat) (f : Elem → Elem) : (s.modElem k f).total = s.total := rfl
@[simp] theorem State.modElem_nextAmps (s : State) (k : Nat) (f : Elem → Elem) : (s.modElem k f).nextAmps = s.nextAmps := rfl
@[simp] theorem State.modElem_nextHeat (s : State) (k : Nat) (f : Elem → Elem) : (s.modElem k f).nextHeat = s.nextHeat := rfl
@[simp] theorem State.modElem_out (s : State) (k : Nat) (f : Elem → Elem) : (s.modElem k f).out = s.out := rfl

/-! ## modStack changes srams alone -/

@[simp] theorem State.modStack_agenda (s : State) (k : Nat) (f : Stack → Stack) : (s.modStack k f).agenda = s.agenda := rfl
@[simp] theorem State.modStack_todo (s : State) (k : Nat) (f : Stack → Stack) : (s.modStack k f).todo = s.todo := rfl
@[simp] theorem State.modStack_duties (s : State) (k : Nat) (f : Stack → Stack) : (s.modStack k f).duties = s.duties := rfl
@[simp] theorem State.modStack_cur (s : State) (k : Nat) (f : Stack → Stack) : (s.modStack k f).cur = s.cur := rfl
@[simp] theorem State.modStack_nextId (s : State) (k : Nat) (f : Stack → Stack) : (s.modStack k f).nextId = s.nextId := rfl
@[simp] theorem State.modStack_coh (s : State) (k : Nat) (f : Stack → Stack) : (s.modStack k f).coh = s.coh := rfl
@[simp] theorem State.modStack_free (s : State) (k : Nat) (f : Stack → Stack) : (s.modStack k f).free = s.free := rfl
@[simp] theorem State.modStack_cycle (s : State) (k : Nat) (f : Stack → Stack) : (s.modStack k f).cycle = s.cycle := rfl
@[simp] theorem State.modStack_thyme (s : State) (k : Nat) (f : Stack → Stack) : (s.modStack k f).thyme = s.thyme := rfl
@[simp] theorem State.modStack_frac (s : State) (k : Nat) (f : Stack → Stack) : (s.modStack k f).frac = s.frac := rfl
@[simp] theorem State.modStack_hbi (s : State) (k : Nat) (f : Stack → Stack) : (s.modStack k f).hbi = s.hbi := rfl
@[simp] theorem State.modStack_hbiNext (s : State) (k : Nat) (f : Stack → Stack) : (s.modStack k f).hbiNext = s.hbiNext := rfl
@[simp] theorem State.modStack_hbM (s : State) (k : Nat) (f : Stack → Stack) : (s.modStack k f).hbM = s.hbM := rfl
@[simp] theorem State.modStack_hbBase (s : State) (k : Nat) (f : Stack → Stack) : (s.modStack k f).hbBase = s.hbBase := rfl
@[simp] theorem State.modStack_window (s : State) (k : Nat) (f : Stack → Stack) : (s.modStack k f).window = s.window := rfl
@[simp] theorem State.modStack_status (s : State) (k : Nat) (f : Stack → Stack) : (s.modStack k f).status = s.status := rfl
@[simp] theorem State.modStack_mem (s : State) (k : Nat) (f : Stack → Stack) : (s.modStack k f).mem = s.mem := rfl
@[simp] theorem State.modStack_tiles (s : State) (k : Nat) (f : Stack → Stack) : (s.modStack k f).tiles = s.tiles := rfl
@[simp] theorem State.modStack_teams (s : State) (k : Nat) (f : Stack → Stack) : (s.modStack k f).teams = s.teams := rfl
@[simp] theorem State.modStack_launches (s : State) (k : Nat) (f : Stack → Stack) : (s.modStack k f).launches = s.launches := rfl
@[simp] theorem State.modStack_fleets (s : State) (k : Nat) (f : Stack → Stack) : (s.modStack k f).fleets = s.fleets := rfl
@[simp] theorem State.modStack_crews (s : State) (k : Nat) (f : Stack → Stack) : (s.modStack k f).crews = s.crews := rfl
@[simp] theorem State.modStack_parts (s : State) (k : Nat) (f : Stack → Stack) : (s.modStack k f).parts = s.parts := rfl
@[simp] theorem State.modStack_cores (s : State) (k : Nat) (f : Stack → Stack) : (s.modStack k f).cores = s.cores := rfl
@[simp] theorem State.modStack_dies (s : State) (k : Nat) (f : Stack → Stack) : (s.modStack k f).dies = s.dies := rfl
@[simp] theorem State.modStack_clusters (s : State) (k : Nat) (f : Stack → Stack) : (s.modStack k f).clusters = s.clusters := rfl
@[simp] theorem State.modStack_cvs (s : State) (k : Nat) (f : Stack → Stack) : (s.modStack k f).cvs = s.cvs := rfl
@[simp] theorem State.modStack_partials (s : State) (k : Nat) (f : Stack → Stack) : (s.modStack k f).partials = s.partials := rfl
@[simp] theorem State.modStack_replicas (s : State) (k : Nat) (f : Stack → Stack) : (s.modStack k f).replicas = s.replicas := rfl
@[simp] theorem State.modStack_grans (s : State) (k : Nat) (f : Stack → Stack) : (s.modStack k f).grans = s.grans := rfl
@[simp] theorem State.modStack_tlb (s : State) (k : Nat) (f : Stack → Stack) : (s.modStack k f).tlb = s.tlb := rfl
@[simp] theorem State.modStack_asids (s : State) (k : Nat) (f : Stack → Stack) : (s.modStack k f).asids = s.asids := rfl
@[simp] theorem State.modStack_dirs (s : State) (k : Nat) (f : Stack → Stack) : (s.modStack k f).dirs = s.dirs := rfl
@[simp] theorem State.modStack_msgs (s : State) (k : Nat) (f : Stack → Stack) : (s.modStack k f).msgs = s.msgs := rfl
@[simp] theorem State.modStack_elems (s : State) (k : Nat) (f : Stack → Stack) : (s.modStack k f).elems = s.elems := rfl
@[simp] theorem State.modStack_lost (s : State) (k : Nat) (f : Stack → Stack) : (s.modStack k f).lost = s.lost := rfl
@[simp] theorem State.modStack_moves (s : State) (k : Nat) (f : Stack → Stack) : (s.modStack k f).moves = s.moves := rfl
@[simp] theorem State.modStack_rowErrs (s : State) (k : Nat) (f : Stack → Stack) : (s.modStack k f).rowErrs = s.rowErrs := rfl
@[simp] theorem State.modStack_spared (s : State) (k : Nat) (f : Stack → Stack) : (s.modStack k f).spared = s.spared := rfl
@[simp] theorem State.modStack_noSpare (s : State) (k : Nat) (f : Stack → Stack) : (s.modStack k f).noSpare = s.noSpare := rfl
@[simp] theorem State.modStack_regErrs (s : State) (k : Nat) (f : Stack → Stack) : (s.modStack k f).regErrs = s.regErrs := rfl
@[simp] theorem State.modStack_refetched (s : State) (k : Nat) (f : Stack → Stack) : (s.modStack k f).refetched = s.refetched := rfl
@[simp] theorem State.modStack_retired (s : State) (k : Nat) (f : Stack → Stack) : (s.modStack k f).retired = s.retired := rfl
@[simp] theorem State.modStack_fused (s : State) (k : Nat) (f : Stack → Stack) : (s.modStack k f).fused = s.fused := rfl
@[simp] theorem State.modStack_ports (s : State) (k : Nat) (f : Stack → Stack) : (s.modStack k f).ports = s.ports := rfl
@[simp] theorem State.modStack_routes (s : State) (k : Nat) (f : Stack → Stack) : (s.modStack k f).routes = s.routes := rfl
@[simp] theorem State.modStack_modNum (s : State) (k : Nat) (f : Stack → Stack) : (s.modStack k f).modNum = s.modNum := rfl
@[simp] theorem State.modStack_remotes (s : State) (k : Nat) (f : Stack → Stack) : (s.modStack k f).remotes = s.remotes := rfl
@[simp] theorem State.modStack_served (s : State) (k : Nat) (f : Stack → Stack) : (s.modStack k f).served = s.served := rfl
@[simp] theorem State.modStack_gangs (s : State) (k : Nat) (f : Stack → Stack) : (s.modStack k f).gangs = s.gangs := rfl
@[simp] theorem State.modStack_ring (s : State) (k : Nat) (f : Stack → Stack) : (s.modStack k f).ring = s.ring := rfl
@[simp] theorem State.modStack_jobs (s : State) (k : Nat) (f : Stack → Stack) : (s.modStack k f).jobs = s.jobs := rfl
@[simp] theorem State.modStack_posted (s : State) (k : Nat) (f : Stack → Stack) : (s.modStack k f).posted = s.posted := rfl
@[simp] theorem State.modStack_adminOpen (s : State) (k : Nat) (f : Stack → Stack) : (s.modStack k f).adminOpen = s.adminOpen := rfl
@[simp] theorem State.modStack_adminBase (s : State) (k : Nat) (f : Stack → Stack) : (s.modStack k f).adminBase = s.adminBase := rfl
@[simp] theorem State.modStack_adminSize (s : State) (k : Nat) (f : Stack → Stack) : (s.modStack k f).adminSize = s.adminSize := rfl
@[simp] theorem State.modStack_hostLink (s : State) (k : Nat) (f : Stack → Stack) : (s.modStack k f).hostLink = s.hostLink := rfl
@[simp] theorem State.modStack_refresh (s : State) (k : Nat) (f : Stack → Stack) : (s.modStack k f).refresh = s.refresh := rfl
@[simp] theorem State.modStack_lostCached (s : State) (k : Nat) (f : Stack → Stack) : (s.modStack k f).lostCached = s.lostCached := rfl
@[simp] theorem State.modStack_routing (s : State) (k : Nat) (f : Stack → Stack) : (s.modStack k f).routing = s.routing := rfl
@[simp] theorem State.modStack_adminHead (s : State) (k : Nat) (f : Stack → Stack) : (s.modStack k f).adminHead = s.adminHead := rfl
@[simp] theorem State.modStack_resets (s : State) (k : Nat) (f : Stack → Stack) : (s.modStack k f).resets = s.resets := rfl
@[simp] theorem State.modStack_flash (s : State) (k : Nat) (f : Stack → Stack) : (s.modStack k f).flash = s.flash := rfl
@[simp] theorem State.modStack_coolant (s : State) (k : Nat) (f : Stack → Stack) : (s.modStack k f).coolant = s.coolant := rfl
@[simp] theorem State.modStack_amps (s : State) (k : Nat) (f : Stack → Stack) : (s.modStack k f).amps = s.amps := rfl
@[simp] theorem State.modStack_total (s : State) (k : Nat) (f : Stack → Stack) : (s.modStack k f).total = s.total := rfl
@[simp] theorem State.modStack_nextAmps (s : State) (k : Nat) (f : Stack → Stack) : (s.modStack k f).nextAmps = s.nextAmps := rfl
@[simp] theorem State.modStack_nextHeat (s : State) (k : Nat) (f : Stack → Stack) : (s.modStack k f).nextHeat = s.nextHeat := rfl
@[simp] theorem State.modStack_out (s : State) (k : Nat) (f : Stack → Stack) : (s.modStack k f).out = s.out := rfl

/-! ## modDie changes dies alone -/

@[simp] theorem State.modDie_agenda (s : State) (d : Nat) (f : Die → Die) : (s.modDie d f).agenda = s.agenda := rfl
@[simp] theorem State.modDie_todo (s : State) (d : Nat) (f : Die → Die) : (s.modDie d f).todo = s.todo := rfl
@[simp] theorem State.modDie_duties (s : State) (d : Nat) (f : Die → Die) : (s.modDie d f).duties = s.duties := rfl
@[simp] theorem State.modDie_cur (s : State) (d : Nat) (f : Die → Die) : (s.modDie d f).cur = s.cur := rfl
@[simp] theorem State.modDie_nextId (s : State) (d : Nat) (f : Die → Die) : (s.modDie d f).nextId = s.nextId := rfl
@[simp] theorem State.modDie_coh (s : State) (d : Nat) (f : Die → Die) : (s.modDie d f).coh = s.coh := rfl
@[simp] theorem State.modDie_free (s : State) (d : Nat) (f : Die → Die) : (s.modDie d f).free = s.free := rfl
@[simp] theorem State.modDie_cycle (s : State) (d : Nat) (f : Die → Die) : (s.modDie d f).cycle = s.cycle := rfl
@[simp] theorem State.modDie_thyme (s : State) (d : Nat) (f : Die → Die) : (s.modDie d f).thyme = s.thyme := rfl
@[simp] theorem State.modDie_frac (s : State) (d : Nat) (f : Die → Die) : (s.modDie d f).frac = s.frac := rfl
@[simp] theorem State.modDie_hbi (s : State) (d : Nat) (f : Die → Die) : (s.modDie d f).hbi = s.hbi := rfl
@[simp] theorem State.modDie_hbiNext (s : State) (d : Nat) (f : Die → Die) : (s.modDie d f).hbiNext = s.hbiNext := rfl
@[simp] theorem State.modDie_hbM (s : State) (d : Nat) (f : Die → Die) : (s.modDie d f).hbM = s.hbM := rfl
@[simp] theorem State.modDie_hbBase (s : State) (d : Nat) (f : Die → Die) : (s.modDie d f).hbBase = s.hbBase := rfl
@[simp] theorem State.modDie_window (s : State) (d : Nat) (f : Die → Die) : (s.modDie d f).window = s.window := rfl
@[simp] theorem State.modDie_status (s : State) (d : Nat) (f : Die → Die) : (s.modDie d f).status = s.status := rfl
@[simp] theorem State.modDie_mem (s : State) (d : Nat) (f : Die → Die) : (s.modDie d f).mem = s.mem := rfl
@[simp] theorem State.modDie_tiles (s : State) (d : Nat) (f : Die → Die) : (s.modDie d f).tiles = s.tiles := rfl
@[simp] theorem State.modDie_teams (s : State) (d : Nat) (f : Die → Die) : (s.modDie d f).teams = s.teams := rfl
@[simp] theorem State.modDie_launches (s : State) (d : Nat) (f : Die → Die) : (s.modDie d f).launches = s.launches := rfl
@[simp] theorem State.modDie_fleets (s : State) (d : Nat) (f : Die → Die) : (s.modDie d f).fleets = s.fleets := rfl
@[simp] theorem State.modDie_crews (s : State) (d : Nat) (f : Die → Die) : (s.modDie d f).crews = s.crews := rfl
@[simp] theorem State.modDie_parts (s : State) (d : Nat) (f : Die → Die) : (s.modDie d f).parts = s.parts := rfl
@[simp] theorem State.modDie_cores (s : State) (d : Nat) (f : Die → Die) : (s.modDie d f).cores = s.cores := rfl
@[simp] theorem State.modDie_srams (s : State) (d : Nat) (f : Die → Die) : (s.modDie d f).srams = s.srams := rfl
@[simp] theorem State.modDie_clusters (s : State) (d : Nat) (f : Die → Die) : (s.modDie d f).clusters = s.clusters := rfl
@[simp] theorem State.modDie_cvs (s : State) (d : Nat) (f : Die → Die) : (s.modDie d f).cvs = s.cvs := rfl
@[simp] theorem State.modDie_partials (s : State) (d : Nat) (f : Die → Die) : (s.modDie d f).partials = s.partials := rfl
@[simp] theorem State.modDie_replicas (s : State) (d : Nat) (f : Die → Die) : (s.modDie d f).replicas = s.replicas := rfl
@[simp] theorem State.modDie_grans (s : State) (d : Nat) (f : Die → Die) : (s.modDie d f).grans = s.grans := rfl
@[simp] theorem State.modDie_tlb (s : State) (d : Nat) (f : Die → Die) : (s.modDie d f).tlb = s.tlb := rfl
@[simp] theorem State.modDie_asids (s : State) (d : Nat) (f : Die → Die) : (s.modDie d f).asids = s.asids := rfl
@[simp] theorem State.modDie_dirs (s : State) (d : Nat) (f : Die → Die) : (s.modDie d f).dirs = s.dirs := rfl
@[simp] theorem State.modDie_msgs (s : State) (d : Nat) (f : Die → Die) : (s.modDie d f).msgs = s.msgs := rfl
@[simp] theorem State.modDie_elems (s : State) (d : Nat) (f : Die → Die) : (s.modDie d f).elems = s.elems := rfl
@[simp] theorem State.modDie_lost (s : State) (d : Nat) (f : Die → Die) : (s.modDie d f).lost = s.lost := rfl
@[simp] theorem State.modDie_moves (s : State) (d : Nat) (f : Die → Die) : (s.modDie d f).moves = s.moves := rfl
@[simp] theorem State.modDie_rowErrs (s : State) (d : Nat) (f : Die → Die) : (s.modDie d f).rowErrs = s.rowErrs := rfl
@[simp] theorem State.modDie_spared (s : State) (d : Nat) (f : Die → Die) : (s.modDie d f).spared = s.spared := rfl
@[simp] theorem State.modDie_noSpare (s : State) (d : Nat) (f : Die → Die) : (s.modDie d f).noSpare = s.noSpare := rfl
@[simp] theorem State.modDie_regErrs (s : State) (d : Nat) (f : Die → Die) : (s.modDie d f).regErrs = s.regErrs := rfl
@[simp] theorem State.modDie_refetched (s : State) (d : Nat) (f : Die → Die) : (s.modDie d f).refetched = s.refetched := rfl
@[simp] theorem State.modDie_retired (s : State) (d : Nat) (f : Die → Die) : (s.modDie d f).retired = s.retired := rfl
@[simp] theorem State.modDie_fused (s : State) (d : Nat) (f : Die → Die) : (s.modDie d f).fused = s.fused := rfl
@[simp] theorem State.modDie_ports (s : State) (d : Nat) (f : Die → Die) : (s.modDie d f).ports = s.ports := rfl
@[simp] theorem State.modDie_routes (s : State) (d : Nat) (f : Die → Die) : (s.modDie d f).routes = s.routes := rfl
@[simp] theorem State.modDie_modNum (s : State) (d : Nat) (f : Die → Die) : (s.modDie d f).modNum = s.modNum := rfl
@[simp] theorem State.modDie_remotes (s : State) (d : Nat) (f : Die → Die) : (s.modDie d f).remotes = s.remotes := rfl
@[simp] theorem State.modDie_served (s : State) (d : Nat) (f : Die → Die) : (s.modDie d f).served = s.served := rfl
@[simp] theorem State.modDie_gangs (s : State) (d : Nat) (f : Die → Die) : (s.modDie d f).gangs = s.gangs := rfl
@[simp] theorem State.modDie_ring (s : State) (d : Nat) (f : Die → Die) : (s.modDie d f).ring = s.ring := rfl
@[simp] theorem State.modDie_jobs (s : State) (d : Nat) (f : Die → Die) : (s.modDie d f).jobs = s.jobs := rfl
@[simp] theorem State.modDie_posted (s : State) (d : Nat) (f : Die → Die) : (s.modDie d f).posted = s.posted := rfl
@[simp] theorem State.modDie_adminOpen (s : State) (d : Nat) (f : Die → Die) : (s.modDie d f).adminOpen = s.adminOpen := rfl
@[simp] theorem State.modDie_adminBase (s : State) (d : Nat) (f : Die → Die) : (s.modDie d f).adminBase = s.adminBase := rfl
@[simp] theorem State.modDie_adminSize (s : State) (d : Nat) (f : Die → Die) : (s.modDie d f).adminSize = s.adminSize := rfl
@[simp] theorem State.modDie_hostLink (s : State) (d : Nat) (f : Die → Die) : (s.modDie d f).hostLink = s.hostLink := rfl
@[simp] theorem State.modDie_refresh (s : State) (d : Nat) (f : Die → Die) : (s.modDie d f).refresh = s.refresh := rfl
@[simp] theorem State.modDie_lostCached (s : State) (d : Nat) (f : Die → Die) : (s.modDie d f).lostCached = s.lostCached := rfl
@[simp] theorem State.modDie_routing (s : State) (d : Nat) (f : Die → Die) : (s.modDie d f).routing = s.routing := rfl
@[simp] theorem State.modDie_adminHead (s : State) (d : Nat) (f : Die → Die) : (s.modDie d f).adminHead = s.adminHead := rfl
@[simp] theorem State.modDie_resets (s : State) (d : Nat) (f : Die → Die) : (s.modDie d f).resets = s.resets := rfl
@[simp] theorem State.modDie_flash (s : State) (d : Nat) (f : Die → Die) : (s.modDie d f).flash = s.flash := rfl
@[simp] theorem State.modDie_coolant (s : State) (d : Nat) (f : Die → Die) : (s.modDie d f).coolant = s.coolant := rfl
@[simp] theorem State.modDie_amps (s : State) (d : Nat) (f : Die → Die) : (s.modDie d f).amps = s.amps := rfl
@[simp] theorem State.modDie_total (s : State) (d : Nat) (f : Die → Die) : (s.modDie d f).total = s.total := rfl
@[simp] theorem State.modDie_nextAmps (s : State) (d : Nat) (f : Die → Die) : (s.modDie d f).nextAmps = s.nextAmps := rfl
@[simp] theorem State.modDie_nextHeat (s : State) (d : Nat) (f : Die → Die) : (s.modDie d f).nextHeat = s.nextHeat := rfl
@[simp] theorem State.modDie_out (s : State) (d : Nat) (f : Die → Die) : (s.modDie d f).out = s.out := rfl

/-! ## putGang changes gangs alone -/

@[simp] theorem State.putGang_agenda (s : State) (g : Gang) : (s.putGang g).agenda = s.agenda := rfl
@[simp] theorem State.putGang_todo (s : State) (g : Gang) : (s.putGang g).todo = s.todo := rfl
@[simp] theorem State.putGang_duties (s : State) (g : Gang) : (s.putGang g).duties = s.duties := rfl
@[simp] theorem State.putGang_cur (s : State) (g : Gang) : (s.putGang g).cur = s.cur := rfl
@[simp] theorem State.putGang_nextId (s : State) (g : Gang) : (s.putGang g).nextId = s.nextId := rfl
@[simp] theorem State.putGang_coh (s : State) (g : Gang) : (s.putGang g).coh = s.coh := rfl
@[simp] theorem State.putGang_free (s : State) (g : Gang) : (s.putGang g).free = s.free := rfl
@[simp] theorem State.putGang_cycle (s : State) (g : Gang) : (s.putGang g).cycle = s.cycle := rfl
@[simp] theorem State.putGang_thyme (s : State) (g : Gang) : (s.putGang g).thyme = s.thyme := rfl
@[simp] theorem State.putGang_frac (s : State) (g : Gang) : (s.putGang g).frac = s.frac := rfl
@[simp] theorem State.putGang_hbi (s : State) (g : Gang) : (s.putGang g).hbi = s.hbi := rfl
@[simp] theorem State.putGang_hbiNext (s : State) (g : Gang) : (s.putGang g).hbiNext = s.hbiNext := rfl
@[simp] theorem State.putGang_hbM (s : State) (g : Gang) : (s.putGang g).hbM = s.hbM := rfl
@[simp] theorem State.putGang_hbBase (s : State) (g : Gang) : (s.putGang g).hbBase = s.hbBase := rfl
@[simp] theorem State.putGang_window (s : State) (g : Gang) : (s.putGang g).window = s.window := rfl
@[simp] theorem State.putGang_status (s : State) (g : Gang) : (s.putGang g).status = s.status := rfl
@[simp] theorem State.putGang_mem (s : State) (g : Gang) : (s.putGang g).mem = s.mem := rfl
@[simp] theorem State.putGang_tiles (s : State) (g : Gang) : (s.putGang g).tiles = s.tiles := rfl
@[simp] theorem State.putGang_teams (s : State) (g : Gang) : (s.putGang g).teams = s.teams := rfl
@[simp] theorem State.putGang_launches (s : State) (g : Gang) : (s.putGang g).launches = s.launches := rfl
@[simp] theorem State.putGang_fleets (s : State) (g : Gang) : (s.putGang g).fleets = s.fleets := rfl
@[simp] theorem State.putGang_crews (s : State) (g : Gang) : (s.putGang g).crews = s.crews := rfl
@[simp] theorem State.putGang_parts (s : State) (g : Gang) : (s.putGang g).parts = s.parts := rfl
@[simp] theorem State.putGang_cores (s : State) (g : Gang) : (s.putGang g).cores = s.cores := rfl
@[simp] theorem State.putGang_dies (s : State) (g : Gang) : (s.putGang g).dies = s.dies := rfl
@[simp] theorem State.putGang_srams (s : State) (g : Gang) : (s.putGang g).srams = s.srams := rfl
@[simp] theorem State.putGang_clusters (s : State) (g : Gang) : (s.putGang g).clusters = s.clusters := rfl
@[simp] theorem State.putGang_cvs (s : State) (g : Gang) : (s.putGang g).cvs = s.cvs := rfl
@[simp] theorem State.putGang_partials (s : State) (g : Gang) : (s.putGang g).partials = s.partials := rfl
@[simp] theorem State.putGang_replicas (s : State) (g : Gang) : (s.putGang g).replicas = s.replicas := rfl
@[simp] theorem State.putGang_grans (s : State) (g : Gang) : (s.putGang g).grans = s.grans := rfl
@[simp] theorem State.putGang_tlb (s : State) (g : Gang) : (s.putGang g).tlb = s.tlb := rfl
@[simp] theorem State.putGang_asids (s : State) (g : Gang) : (s.putGang g).asids = s.asids := rfl
@[simp] theorem State.putGang_dirs (s : State) (g : Gang) : (s.putGang g).dirs = s.dirs := rfl
@[simp] theorem State.putGang_msgs (s : State) (g : Gang) : (s.putGang g).msgs = s.msgs := rfl
@[simp] theorem State.putGang_elems (s : State) (g : Gang) : (s.putGang g).elems = s.elems := rfl
@[simp] theorem State.putGang_lost (s : State) (g : Gang) : (s.putGang g).lost = s.lost := rfl
@[simp] theorem State.putGang_moves (s : State) (g : Gang) : (s.putGang g).moves = s.moves := rfl
@[simp] theorem State.putGang_rowErrs (s : State) (g : Gang) : (s.putGang g).rowErrs = s.rowErrs := rfl
@[simp] theorem State.putGang_spared (s : State) (g : Gang) : (s.putGang g).spared = s.spared := rfl
@[simp] theorem State.putGang_noSpare (s : State) (g : Gang) : (s.putGang g).noSpare = s.noSpare := rfl
@[simp] theorem State.putGang_regErrs (s : State) (g : Gang) : (s.putGang g).regErrs = s.regErrs := rfl
@[simp] theorem State.putGang_refetched (s : State) (g : Gang) : (s.putGang g).refetched = s.refetched := rfl
@[simp] theorem State.putGang_retired (s : State) (g : Gang) : (s.putGang g).retired = s.retired := rfl
@[simp] theorem State.putGang_fused (s : State) (g : Gang) : (s.putGang g).fused = s.fused := rfl
@[simp] theorem State.putGang_ports (s : State) (g : Gang) : (s.putGang g).ports = s.ports := rfl
@[simp] theorem State.putGang_routes (s : State) (g : Gang) : (s.putGang g).routes = s.routes := rfl
@[simp] theorem State.putGang_modNum (s : State) (g : Gang) : (s.putGang g).modNum = s.modNum := rfl
@[simp] theorem State.putGang_remotes (s : State) (g : Gang) : (s.putGang g).remotes = s.remotes := rfl
@[simp] theorem State.putGang_served (s : State) (g : Gang) : (s.putGang g).served = s.served := rfl
@[simp] theorem State.putGang_ring (s : State) (g : Gang) : (s.putGang g).ring = s.ring := rfl
@[simp] theorem State.putGang_jobs (s : State) (g : Gang) : (s.putGang g).jobs = s.jobs := rfl
@[simp] theorem State.putGang_posted (s : State) (g : Gang) : (s.putGang g).posted = s.posted := rfl
@[simp] theorem State.putGang_adminOpen (s : State) (g : Gang) : (s.putGang g).adminOpen = s.adminOpen := rfl
@[simp] theorem State.putGang_adminBase (s : State) (g : Gang) : (s.putGang g).adminBase = s.adminBase := rfl
@[simp] theorem State.putGang_adminSize (s : State) (g : Gang) : (s.putGang g).adminSize = s.adminSize := rfl
@[simp] theorem State.putGang_hostLink (s : State) (g : Gang) : (s.putGang g).hostLink = s.hostLink := rfl
@[simp] theorem State.putGang_refresh (s : State) (g : Gang) : (s.putGang g).refresh = s.refresh := rfl
@[simp] theorem State.putGang_lostCached (s : State) (g : Gang) : (s.putGang g).lostCached = s.lostCached := rfl
@[simp] theorem State.putGang_routing (s : State) (g : Gang) : (s.putGang g).routing = s.routing := rfl
@[simp] theorem State.putGang_adminHead (s : State) (g : Gang) : (s.putGang g).adminHead = s.adminHead := rfl
@[simp] theorem State.putGang_resets (s : State) (g : Gang) : (s.putGang g).resets = s.resets := rfl
@[simp] theorem State.putGang_flash (s : State) (g : Gang) : (s.putGang g).flash = s.flash := rfl
@[simp] theorem State.putGang_coolant (s : State) (g : Gang) : (s.putGang g).coolant = s.coolant := rfl
@[simp] theorem State.putGang_amps (s : State) (g : Gang) : (s.putGang g).amps = s.amps := rfl
@[simp] theorem State.putGang_total (s : State) (g : Gang) : (s.putGang g).total = s.total := rfl
@[simp] theorem State.putGang_nextAmps (s : State) (g : Gang) : (s.putGang g).nextAmps = s.nextAmps := rfl
@[simp] theorem State.putGang_nextHeat (s : State) (g : Gang) : (s.putGang g).nextHeat = s.nextHeat := rfl
@[simp] theorem State.putGang_out (s : State) (g : Gang) : (s.putGang g).out = s.out := rfl

/-! ## setTile changes tiles alone -/

@[simp] theorem State.setTile_agenda (s : State) (core mt : Nat) (x : List Word) : (s.setTile core mt x).agenda = s.agenda := rfl
@[simp] theorem State.setTile_todo (s : State) (core mt : Nat) (x : List Word) : (s.setTile core mt x).todo = s.todo := rfl
@[simp] theorem State.setTile_duties (s : State) (core mt : Nat) (x : List Word) : (s.setTile core mt x).duties = s.duties := rfl
@[simp] theorem State.setTile_cur (s : State) (core mt : Nat) (x : List Word) : (s.setTile core mt x).cur = s.cur := rfl
@[simp] theorem State.setTile_nextId (s : State) (core mt : Nat) (x : List Word) : (s.setTile core mt x).nextId = s.nextId := rfl
@[simp] theorem State.setTile_coh (s : State) (core mt : Nat) (x : List Word) : (s.setTile core mt x).coh = s.coh := rfl
@[simp] theorem State.setTile_free (s : State) (core mt : Nat) (x : List Word) : (s.setTile core mt x).free = s.free := rfl
@[simp] theorem State.setTile_cycle (s : State) (core mt : Nat) (x : List Word) : (s.setTile core mt x).cycle = s.cycle := rfl
@[simp] theorem State.setTile_thyme (s : State) (core mt : Nat) (x : List Word) : (s.setTile core mt x).thyme = s.thyme := rfl
@[simp] theorem State.setTile_frac (s : State) (core mt : Nat) (x : List Word) : (s.setTile core mt x).frac = s.frac := rfl
@[simp] theorem State.setTile_hbi (s : State) (core mt : Nat) (x : List Word) : (s.setTile core mt x).hbi = s.hbi := rfl
@[simp] theorem State.setTile_hbiNext (s : State) (core mt : Nat) (x : List Word) : (s.setTile core mt x).hbiNext = s.hbiNext := rfl
@[simp] theorem State.setTile_hbM (s : State) (core mt : Nat) (x : List Word) : (s.setTile core mt x).hbM = s.hbM := rfl
@[simp] theorem State.setTile_hbBase (s : State) (core mt : Nat) (x : List Word) : (s.setTile core mt x).hbBase = s.hbBase := rfl
@[simp] theorem State.setTile_window (s : State) (core mt : Nat) (x : List Word) : (s.setTile core mt x).window = s.window := rfl
@[simp] theorem State.setTile_status (s : State) (core mt : Nat) (x : List Word) : (s.setTile core mt x).status = s.status := rfl
@[simp] theorem State.setTile_mem (s : State) (core mt : Nat) (x : List Word) : (s.setTile core mt x).mem = s.mem := rfl
@[simp] theorem State.setTile_teams (s : State) (core mt : Nat) (x : List Word) : (s.setTile core mt x).teams = s.teams := rfl
@[simp] theorem State.setTile_launches (s : State) (core mt : Nat) (x : List Word) : (s.setTile core mt x).launches = s.launches := rfl
@[simp] theorem State.setTile_fleets (s : State) (core mt : Nat) (x : List Word) : (s.setTile core mt x).fleets = s.fleets := rfl
@[simp] theorem State.setTile_crews (s : State) (core mt : Nat) (x : List Word) : (s.setTile core mt x).crews = s.crews := rfl
@[simp] theorem State.setTile_parts (s : State) (core mt : Nat) (x : List Word) : (s.setTile core mt x).parts = s.parts := rfl
@[simp] theorem State.setTile_cores (s : State) (core mt : Nat) (x : List Word) : (s.setTile core mt x).cores = s.cores := rfl
@[simp] theorem State.setTile_dies (s : State) (core mt : Nat) (x : List Word) : (s.setTile core mt x).dies = s.dies := rfl
@[simp] theorem State.setTile_srams (s : State) (core mt : Nat) (x : List Word) : (s.setTile core mt x).srams = s.srams := rfl
@[simp] theorem State.setTile_clusters (s : State) (core mt : Nat) (x : List Word) : (s.setTile core mt x).clusters = s.clusters := rfl
@[simp] theorem State.setTile_cvs (s : State) (core mt : Nat) (x : List Word) : (s.setTile core mt x).cvs = s.cvs := rfl
@[simp] theorem State.setTile_partials (s : State) (core mt : Nat) (x : List Word) : (s.setTile core mt x).partials = s.partials := rfl
@[simp] theorem State.setTile_replicas (s : State) (core mt : Nat) (x : List Word) : (s.setTile core mt x).replicas = s.replicas := rfl
@[simp] theorem State.setTile_grans (s : State) (core mt : Nat) (x : List Word) : (s.setTile core mt x).grans = s.grans := rfl
@[simp] theorem State.setTile_tlb (s : State) (core mt : Nat) (x : List Word) : (s.setTile core mt x).tlb = s.tlb := rfl
@[simp] theorem State.setTile_asids (s : State) (core mt : Nat) (x : List Word) : (s.setTile core mt x).asids = s.asids := rfl
@[simp] theorem State.setTile_dirs (s : State) (core mt : Nat) (x : List Word) : (s.setTile core mt x).dirs = s.dirs := rfl
@[simp] theorem State.setTile_msgs (s : State) (core mt : Nat) (x : List Word) : (s.setTile core mt x).msgs = s.msgs := rfl
@[simp] theorem State.setTile_elems (s : State) (core mt : Nat) (x : List Word) : (s.setTile core mt x).elems = s.elems := rfl
@[simp] theorem State.setTile_lost (s : State) (core mt : Nat) (x : List Word) : (s.setTile core mt x).lost = s.lost := rfl
@[simp] theorem State.setTile_moves (s : State) (core mt : Nat) (x : List Word) : (s.setTile core mt x).moves = s.moves := rfl
@[simp] theorem State.setTile_rowErrs (s : State) (core mt : Nat) (x : List Word) : (s.setTile core mt x).rowErrs = s.rowErrs := rfl
@[simp] theorem State.setTile_spared (s : State) (core mt : Nat) (x : List Word) : (s.setTile core mt x).spared = s.spared := rfl
@[simp] theorem State.setTile_noSpare (s : State) (core mt : Nat) (x : List Word) : (s.setTile core mt x).noSpare = s.noSpare := rfl
@[simp] theorem State.setTile_regErrs (s : State) (core mt : Nat) (x : List Word) : (s.setTile core mt x).regErrs = s.regErrs := rfl
@[simp] theorem State.setTile_refetched (s : State) (core mt : Nat) (x : List Word) : (s.setTile core mt x).refetched = s.refetched := rfl
@[simp] theorem State.setTile_retired (s : State) (core mt : Nat) (x : List Word) : (s.setTile core mt x).retired = s.retired := rfl
@[simp] theorem State.setTile_fused (s : State) (core mt : Nat) (x : List Word) : (s.setTile core mt x).fused = s.fused := rfl
@[simp] theorem State.setTile_ports (s : State) (core mt : Nat) (x : List Word) : (s.setTile core mt x).ports = s.ports := rfl
@[simp] theorem State.setTile_routes (s : State) (core mt : Nat) (x : List Word) : (s.setTile core mt x).routes = s.routes := rfl
@[simp] theorem State.setTile_modNum (s : State) (core mt : Nat) (x : List Word) : (s.setTile core mt x).modNum = s.modNum := rfl
@[simp] theorem State.setTile_remotes (s : State) (core mt : Nat) (x : List Word) : (s.setTile core mt x).remotes = s.remotes := rfl
@[simp] theorem State.setTile_served (s : State) (core mt : Nat) (x : List Word) : (s.setTile core mt x).served = s.served := rfl
@[simp] theorem State.setTile_gangs (s : State) (core mt : Nat) (x : List Word) : (s.setTile core mt x).gangs = s.gangs := rfl
@[simp] theorem State.setTile_ring (s : State) (core mt : Nat) (x : List Word) : (s.setTile core mt x).ring = s.ring := rfl
@[simp] theorem State.setTile_jobs (s : State) (core mt : Nat) (x : List Word) : (s.setTile core mt x).jobs = s.jobs := rfl
@[simp] theorem State.setTile_posted (s : State) (core mt : Nat) (x : List Word) : (s.setTile core mt x).posted = s.posted := rfl
@[simp] theorem State.setTile_adminOpen (s : State) (core mt : Nat) (x : List Word) : (s.setTile core mt x).adminOpen = s.adminOpen := rfl
@[simp] theorem State.setTile_adminBase (s : State) (core mt : Nat) (x : List Word) : (s.setTile core mt x).adminBase = s.adminBase := rfl
@[simp] theorem State.setTile_adminSize (s : State) (core mt : Nat) (x : List Word) : (s.setTile core mt x).adminSize = s.adminSize := rfl
@[simp] theorem State.setTile_hostLink (s : State) (core mt : Nat) (x : List Word) : (s.setTile core mt x).hostLink = s.hostLink := rfl
@[simp] theorem State.setTile_refresh (s : State) (core mt : Nat) (x : List Word) : (s.setTile core mt x).refresh = s.refresh := rfl
@[simp] theorem State.setTile_lostCached (s : State) (core mt : Nat) (x : List Word) : (s.setTile core mt x).lostCached = s.lostCached := rfl
@[simp] theorem State.setTile_routing (s : State) (core mt : Nat) (x : List Word) : (s.setTile core mt x).routing = s.routing := rfl
@[simp] theorem State.setTile_adminHead (s : State) (core mt : Nat) (x : List Word) : (s.setTile core mt x).adminHead = s.adminHead := rfl
@[simp] theorem State.setTile_resets (s : State) (core mt : Nat) (x : List Word) : (s.setTile core mt x).resets = s.resets := rfl
@[simp] theorem State.setTile_flash (s : State) (core mt : Nat) (x : List Word) : (s.setTile core mt x).flash = s.flash := rfl
@[simp] theorem State.setTile_coolant (s : State) (core mt : Nat) (x : List Word) : (s.setTile core mt x).coolant = s.coolant := rfl
@[simp] theorem State.setTile_amps (s : State) (core mt : Nat) (x : List Word) : (s.setTile core mt x).amps = s.amps := rfl
@[simp] theorem State.setTile_total (s : State) (core mt : Nat) (x : List Word) : (s.setTile core mt x).total = s.total := rfl
@[simp] theorem State.setTile_nextAmps (s : State) (core mt : Nat) (x : List Word) : (s.setTile core mt x).nextAmps = s.nextAmps := rfl
@[simp] theorem State.setTile_nextHeat (s : State) (core mt : Nat) (x : List Word) : (s.setTile core mt x).nextHeat = s.nextHeat := rfl
@[simp] theorem State.setTile_out (s : State) (core mt : Nat) (x : List Word) : (s.setTile core mt x).out = s.out := rfl

/-! ## emit changes out alone -/

@[simp] theorem State.emit_agenda (s : State) (o : Out) : (s.emit o).agenda = s.agenda := rfl
@[simp] theorem State.emit_todo (s : State) (o : Out) : (s.emit o).todo = s.todo := rfl
@[simp] theorem State.emit_duties (s : State) (o : Out) : (s.emit o).duties = s.duties := rfl
@[simp] theorem State.emit_cur (s : State) (o : Out) : (s.emit o).cur = s.cur := rfl
@[simp] theorem State.emit_nextId (s : State) (o : Out) : (s.emit o).nextId = s.nextId := rfl
@[simp] theorem State.emit_coh (s : State) (o : Out) : (s.emit o).coh = s.coh := rfl
@[simp] theorem State.emit_free (s : State) (o : Out) : (s.emit o).free = s.free := rfl
@[simp] theorem State.emit_cycle (s : State) (o : Out) : (s.emit o).cycle = s.cycle := rfl
@[simp] theorem State.emit_thyme (s : State) (o : Out) : (s.emit o).thyme = s.thyme := rfl
@[simp] theorem State.emit_frac (s : State) (o : Out) : (s.emit o).frac = s.frac := rfl
@[simp] theorem State.emit_hbi (s : State) (o : Out) : (s.emit o).hbi = s.hbi := rfl
@[simp] theorem State.emit_hbiNext (s : State) (o : Out) : (s.emit o).hbiNext = s.hbiNext := rfl
@[simp] theorem State.emit_hbM (s : State) (o : Out) : (s.emit o).hbM = s.hbM := rfl
@[simp] theorem State.emit_hbBase (s : State) (o : Out) : (s.emit o).hbBase = s.hbBase := rfl
@[simp] theorem State.emit_window (s : State) (o : Out) : (s.emit o).window = s.window := rfl
@[simp] theorem State.emit_status (s : State) (o : Out) : (s.emit o).status = s.status := rfl
@[simp] theorem State.emit_mem (s : State) (o : Out) : (s.emit o).mem = s.mem := rfl
@[simp] theorem State.emit_tiles (s : State) (o : Out) : (s.emit o).tiles = s.tiles := rfl
@[simp] theorem State.emit_teams (s : State) (o : Out) : (s.emit o).teams = s.teams := rfl
@[simp] theorem State.emit_launches (s : State) (o : Out) : (s.emit o).launches = s.launches := rfl
@[simp] theorem State.emit_fleets (s : State) (o : Out) : (s.emit o).fleets = s.fleets := rfl
@[simp] theorem State.emit_crews (s : State) (o : Out) : (s.emit o).crews = s.crews := rfl
@[simp] theorem State.emit_parts (s : State) (o : Out) : (s.emit o).parts = s.parts := rfl
@[simp] theorem State.emit_cores (s : State) (o : Out) : (s.emit o).cores = s.cores := rfl
@[simp] theorem State.emit_dies (s : State) (o : Out) : (s.emit o).dies = s.dies := rfl
@[simp] theorem State.emit_srams (s : State) (o : Out) : (s.emit o).srams = s.srams := rfl
@[simp] theorem State.emit_clusters (s : State) (o : Out) : (s.emit o).clusters = s.clusters := rfl
@[simp] theorem State.emit_cvs (s : State) (o : Out) : (s.emit o).cvs = s.cvs := rfl
@[simp] theorem State.emit_partials (s : State) (o : Out) : (s.emit o).partials = s.partials := rfl
@[simp] theorem State.emit_replicas (s : State) (o : Out) : (s.emit o).replicas = s.replicas := rfl
@[simp] theorem State.emit_grans (s : State) (o : Out) : (s.emit o).grans = s.grans := rfl
@[simp] theorem State.emit_tlb (s : State) (o : Out) : (s.emit o).tlb = s.tlb := rfl
@[simp] theorem State.emit_asids (s : State) (o : Out) : (s.emit o).asids = s.asids := rfl
@[simp] theorem State.emit_dirs (s : State) (o : Out) : (s.emit o).dirs = s.dirs := rfl
@[simp] theorem State.emit_msgs (s : State) (o : Out) : (s.emit o).msgs = s.msgs := rfl
@[simp] theorem State.emit_elems (s : State) (o : Out) : (s.emit o).elems = s.elems := rfl
@[simp] theorem State.emit_lost (s : State) (o : Out) : (s.emit o).lost = s.lost := rfl
@[simp] theorem State.emit_moves (s : State) (o : Out) : (s.emit o).moves = s.moves := rfl
@[simp] theorem State.emit_rowErrs (s : State) (o : Out) : (s.emit o).rowErrs = s.rowErrs := rfl
@[simp] theorem State.emit_spared (s : State) (o : Out) : (s.emit o).spared = s.spared := rfl
@[simp] theorem State.emit_noSpare (s : State) (o : Out) : (s.emit o).noSpare = s.noSpare := rfl
@[simp] theorem State.emit_regErrs (s : State) (o : Out) : (s.emit o).regErrs = s.regErrs := rfl
@[simp] theorem State.emit_refetched (s : State) (o : Out) : (s.emit o).refetched = s.refetched := rfl
@[simp] theorem State.emit_retired (s : State) (o : Out) : (s.emit o).retired = s.retired := rfl
@[simp] theorem State.emit_fused (s : State) (o : Out) : (s.emit o).fused = s.fused := rfl
@[simp] theorem State.emit_ports (s : State) (o : Out) : (s.emit o).ports = s.ports := rfl
@[simp] theorem State.emit_routes (s : State) (o : Out) : (s.emit o).routes = s.routes := rfl
@[simp] theorem State.emit_modNum (s : State) (o : Out) : (s.emit o).modNum = s.modNum := rfl
@[simp] theorem State.emit_remotes (s : State) (o : Out) : (s.emit o).remotes = s.remotes := rfl
@[simp] theorem State.emit_served (s : State) (o : Out) : (s.emit o).served = s.served := rfl
@[simp] theorem State.emit_gangs (s : State) (o : Out) : (s.emit o).gangs = s.gangs := rfl
@[simp] theorem State.emit_ring (s : State) (o : Out) : (s.emit o).ring = s.ring := rfl
@[simp] theorem State.emit_jobs (s : State) (o : Out) : (s.emit o).jobs = s.jobs := rfl
@[simp] theorem State.emit_posted (s : State) (o : Out) : (s.emit o).posted = s.posted := rfl
@[simp] theorem State.emit_adminOpen (s : State) (o : Out) : (s.emit o).adminOpen = s.adminOpen := rfl
@[simp] theorem State.emit_adminBase (s : State) (o : Out) : (s.emit o).adminBase = s.adminBase := rfl
@[simp] theorem State.emit_adminSize (s : State) (o : Out) : (s.emit o).adminSize = s.adminSize := rfl
@[simp] theorem State.emit_hostLink (s : State) (o : Out) : (s.emit o).hostLink = s.hostLink := rfl
@[simp] theorem State.emit_refresh (s : State) (o : Out) : (s.emit o).refresh = s.refresh := rfl
@[simp] theorem State.emit_lostCached (s : State) (o : Out) : (s.emit o).lostCached = s.lostCached := rfl
@[simp] theorem State.emit_routing (s : State) (o : Out) : (s.emit o).routing = s.routing := rfl
@[simp] theorem State.emit_adminHead (s : State) (o : Out) : (s.emit o).adminHead = s.adminHead := rfl
@[simp] theorem State.emit_resets (s : State) (o : Out) : (s.emit o).resets = s.resets := rfl
@[simp] theorem State.emit_flash (s : State) (o : Out) : (s.emit o).flash = s.flash := rfl
@[simp] theorem State.emit_coolant (s : State) (o : Out) : (s.emit o).coolant = s.coolant := rfl
@[simp] theorem State.emit_amps (s : State) (o : Out) : (s.emit o).amps = s.amps := rfl
@[simp] theorem State.emit_total (s : State) (o : Out) : (s.emit o).total = s.total := rfl
@[simp] theorem State.emit_nextAmps (s : State) (o : Out) : (s.emit o).nextAmps = s.nextAmps := rfl
@[simp] theorem State.emit_nextHeat (s : State) (o : Out) : (s.emit o).nextHeat = s.nextHeat := rfl

/-! ## fresh changes nextId alone -/

@[simp] theorem State.fresh_agenda (s : State) : (s.fresh).agenda = s.agenda := rfl
@[simp] theorem State.fresh_todo (s : State) : (s.fresh).todo = s.todo := rfl
@[simp] theorem State.fresh_duties (s : State) : (s.fresh).duties = s.duties := rfl
@[simp] theorem State.fresh_cur (s : State) : (s.fresh).cur = s.cur := rfl
@[simp] theorem State.fresh_coh (s : State) : (s.fresh).coh = s.coh := rfl
@[simp] theorem State.fresh_free (s : State) : (s.fresh).free = s.free := rfl
@[simp] theorem State.fresh_cycle (s : State) : (s.fresh).cycle = s.cycle := rfl
@[simp] theorem State.fresh_thyme (s : State) : (s.fresh).thyme = s.thyme := rfl
@[simp] theorem State.fresh_frac (s : State) : (s.fresh).frac = s.frac := rfl
@[simp] theorem State.fresh_hbi (s : State) : (s.fresh).hbi = s.hbi := rfl
@[simp] theorem State.fresh_hbiNext (s : State) : (s.fresh).hbiNext = s.hbiNext := rfl
@[simp] theorem State.fresh_hbM (s : State) : (s.fresh).hbM = s.hbM := rfl
@[simp] theorem State.fresh_hbBase (s : State) : (s.fresh).hbBase = s.hbBase := rfl
@[simp] theorem State.fresh_window (s : State) : (s.fresh).window = s.window := rfl
@[simp] theorem State.fresh_status (s : State) : (s.fresh).status = s.status := rfl
@[simp] theorem State.fresh_mem (s : State) : (s.fresh).mem = s.mem := rfl
@[simp] theorem State.fresh_tiles (s : State) : (s.fresh).tiles = s.tiles := rfl
@[simp] theorem State.fresh_teams (s : State) : (s.fresh).teams = s.teams := rfl
@[simp] theorem State.fresh_launches (s : State) : (s.fresh).launches = s.launches := rfl
@[simp] theorem State.fresh_fleets (s : State) : (s.fresh).fleets = s.fleets := rfl
@[simp] theorem State.fresh_crews (s : State) : (s.fresh).crews = s.crews := rfl
@[simp] theorem State.fresh_parts (s : State) : (s.fresh).parts = s.parts := rfl
@[simp] theorem State.fresh_cores (s : State) : (s.fresh).cores = s.cores := rfl
@[simp] theorem State.fresh_dies (s : State) : (s.fresh).dies = s.dies := rfl
@[simp] theorem State.fresh_srams (s : State) : (s.fresh).srams = s.srams := rfl
@[simp] theorem State.fresh_clusters (s : State) : (s.fresh).clusters = s.clusters := rfl
@[simp] theorem State.fresh_cvs (s : State) : (s.fresh).cvs = s.cvs := rfl
@[simp] theorem State.fresh_partials (s : State) : (s.fresh).partials = s.partials := rfl
@[simp] theorem State.fresh_replicas (s : State) : (s.fresh).replicas = s.replicas := rfl
@[simp] theorem State.fresh_grans (s : State) : (s.fresh).grans = s.grans := rfl
@[simp] theorem State.fresh_tlb (s : State) : (s.fresh).tlb = s.tlb := rfl
@[simp] theorem State.fresh_asids (s : State) : (s.fresh).asids = s.asids := rfl
@[simp] theorem State.fresh_dirs (s : State) : (s.fresh).dirs = s.dirs := rfl
@[simp] theorem State.fresh_msgs (s : State) : (s.fresh).msgs = s.msgs := rfl
@[simp] theorem State.fresh_elems (s : State) : (s.fresh).elems = s.elems := rfl
@[simp] theorem State.fresh_lost (s : State) : (s.fresh).lost = s.lost := rfl
@[simp] theorem State.fresh_moves (s : State) : (s.fresh).moves = s.moves := rfl
@[simp] theorem State.fresh_rowErrs (s : State) : (s.fresh).rowErrs = s.rowErrs := rfl
@[simp] theorem State.fresh_spared (s : State) : (s.fresh).spared = s.spared := rfl
@[simp] theorem State.fresh_noSpare (s : State) : (s.fresh).noSpare = s.noSpare := rfl
@[simp] theorem State.fresh_regErrs (s : State) : (s.fresh).regErrs = s.regErrs := rfl
@[simp] theorem State.fresh_refetched (s : State) : (s.fresh).refetched = s.refetched := rfl
@[simp] theorem State.fresh_retired (s : State) : (s.fresh).retired = s.retired := rfl
@[simp] theorem State.fresh_fused (s : State) : (s.fresh).fused = s.fused := rfl
@[simp] theorem State.fresh_ports (s : State) : (s.fresh).ports = s.ports := rfl
@[simp] theorem State.fresh_routes (s : State) : (s.fresh).routes = s.routes := rfl
@[simp] theorem State.fresh_modNum (s : State) : (s.fresh).modNum = s.modNum := rfl
@[simp] theorem State.fresh_remotes (s : State) : (s.fresh).remotes = s.remotes := rfl
@[simp] theorem State.fresh_served (s : State) : (s.fresh).served = s.served := rfl
@[simp] theorem State.fresh_gangs (s : State) : (s.fresh).gangs = s.gangs := rfl
@[simp] theorem State.fresh_ring (s : State) : (s.fresh).ring = s.ring := rfl
@[simp] theorem State.fresh_jobs (s : State) : (s.fresh).jobs = s.jobs := rfl
@[simp] theorem State.fresh_posted (s : State) : (s.fresh).posted = s.posted := rfl
@[simp] theorem State.fresh_adminOpen (s : State) : (s.fresh).adminOpen = s.adminOpen := rfl
@[simp] theorem State.fresh_adminBase (s : State) : (s.fresh).adminBase = s.adminBase := rfl
@[simp] theorem State.fresh_adminSize (s : State) : (s.fresh).adminSize = s.adminSize := rfl
@[simp] theorem State.fresh_hostLink (s : State) : (s.fresh).hostLink = s.hostLink := rfl
@[simp] theorem State.fresh_refresh (s : State) : (s.fresh).refresh = s.refresh := rfl
@[simp] theorem State.fresh_lostCached (s : State) : (s.fresh).lostCached = s.lostCached := rfl
@[simp] theorem State.fresh_routing (s : State) : (s.fresh).routing = s.routing := rfl
@[simp] theorem State.fresh_adminHead (s : State) : (s.fresh).adminHead = s.adminHead := rfl
@[simp] theorem State.fresh_resets (s : State) : (s.fresh).resets = s.resets := rfl
@[simp] theorem State.fresh_flash (s : State) : (s.fresh).flash = s.flash := rfl
@[simp] theorem State.fresh_coolant (s : State) : (s.fresh).coolant = s.coolant := rfl
@[simp] theorem State.fresh_amps (s : State) : (s.fresh).amps = s.amps := rfl
@[simp] theorem State.fresh_total (s : State) : (s.fresh).total = s.total := rfl
@[simp] theorem State.fresh_nextAmps (s : State) : (s.fresh).nextAmps = s.nextAmps := rfl
@[simp] theorem State.fresh_nextHeat (s : State) : (s.fresh).nextHeat = s.nextHeat := rfl
@[simp] theorem State.fresh_out (s : State) : (s.fresh).out = s.out := rfl

/-! ## retireAt changes teams alone -/

@[simp] theorem State.retireAt_agenda (s : State) (t : Team) (pc : QWord) : (s.retireAt t pc).agenda = s.agenda := rfl
@[simp] theorem State.retireAt_todo (s : State) (t : Team) (pc : QWord) : (s.retireAt t pc).todo = s.todo := rfl
@[simp] theorem State.retireAt_duties (s : State) (t : Team) (pc : QWord) : (s.retireAt t pc).duties = s.duties := rfl
@[simp] theorem State.retireAt_cur (s : State) (t : Team) (pc : QWord) : (s.retireAt t pc).cur = s.cur := rfl
@[simp] theorem State.retireAt_nextId (s : State) (t : Team) (pc : QWord) : (s.retireAt t pc).nextId = s.nextId := rfl
@[simp] theorem State.retireAt_coh (s : State) (t : Team) (pc : QWord) : (s.retireAt t pc).coh = s.coh := rfl
@[simp] theorem State.retireAt_free (s : State) (t : Team) (pc : QWord) : (s.retireAt t pc).free = s.free := rfl
@[simp] theorem State.retireAt_cycle (s : State) (t : Team) (pc : QWord) : (s.retireAt t pc).cycle = s.cycle := rfl
@[simp] theorem State.retireAt_thyme (s : State) (t : Team) (pc : QWord) : (s.retireAt t pc).thyme = s.thyme := rfl
@[simp] theorem State.retireAt_frac (s : State) (t : Team) (pc : QWord) : (s.retireAt t pc).frac = s.frac := rfl
@[simp] theorem State.retireAt_hbi (s : State) (t : Team) (pc : QWord) : (s.retireAt t pc).hbi = s.hbi := rfl
@[simp] theorem State.retireAt_hbiNext (s : State) (t : Team) (pc : QWord) : (s.retireAt t pc).hbiNext = s.hbiNext := rfl
@[simp] theorem State.retireAt_hbM (s : State) (t : Team) (pc : QWord) : (s.retireAt t pc).hbM = s.hbM := rfl
@[simp] theorem State.retireAt_hbBase (s : State) (t : Team) (pc : QWord) : (s.retireAt t pc).hbBase = s.hbBase := rfl
@[simp] theorem State.retireAt_window (s : State) (t : Team) (pc : QWord) : (s.retireAt t pc).window = s.window := rfl
@[simp] theorem State.retireAt_status (s : State) (t : Team) (pc : QWord) : (s.retireAt t pc).status = s.status := rfl
@[simp] theorem State.retireAt_mem (s : State) (t : Team) (pc : QWord) : (s.retireAt t pc).mem = s.mem := rfl
@[simp] theorem State.retireAt_tiles (s : State) (t : Team) (pc : QWord) : (s.retireAt t pc).tiles = s.tiles := rfl
@[simp] theorem State.retireAt_launches (s : State) (t : Team) (pc : QWord) : (s.retireAt t pc).launches = s.launches := rfl
@[simp] theorem State.retireAt_fleets (s : State) (t : Team) (pc : QWord) : (s.retireAt t pc).fleets = s.fleets := rfl
@[simp] theorem State.retireAt_crews (s : State) (t : Team) (pc : QWord) : (s.retireAt t pc).crews = s.crews := rfl
@[simp] theorem State.retireAt_parts (s : State) (t : Team) (pc : QWord) : (s.retireAt t pc).parts = s.parts := rfl
@[simp] theorem State.retireAt_cores (s : State) (t : Team) (pc : QWord) : (s.retireAt t pc).cores = s.cores := rfl
@[simp] theorem State.retireAt_dies (s : State) (t : Team) (pc : QWord) : (s.retireAt t pc).dies = s.dies := rfl
@[simp] theorem State.retireAt_srams (s : State) (t : Team) (pc : QWord) : (s.retireAt t pc).srams = s.srams := rfl
@[simp] theorem State.retireAt_clusters (s : State) (t : Team) (pc : QWord) : (s.retireAt t pc).clusters = s.clusters := rfl
@[simp] theorem State.retireAt_cvs (s : State) (t : Team) (pc : QWord) : (s.retireAt t pc).cvs = s.cvs := rfl
@[simp] theorem State.retireAt_partials (s : State) (t : Team) (pc : QWord) : (s.retireAt t pc).partials = s.partials := rfl
@[simp] theorem State.retireAt_replicas (s : State) (t : Team) (pc : QWord) : (s.retireAt t pc).replicas = s.replicas := rfl
@[simp] theorem State.retireAt_grans (s : State) (t : Team) (pc : QWord) : (s.retireAt t pc).grans = s.grans := rfl
@[simp] theorem State.retireAt_tlb (s : State) (t : Team) (pc : QWord) : (s.retireAt t pc).tlb = s.tlb := rfl
@[simp] theorem State.retireAt_asids (s : State) (t : Team) (pc : QWord) : (s.retireAt t pc).asids = s.asids := rfl
@[simp] theorem State.retireAt_dirs (s : State) (t : Team) (pc : QWord) : (s.retireAt t pc).dirs = s.dirs := rfl
@[simp] theorem State.retireAt_msgs (s : State) (t : Team) (pc : QWord) : (s.retireAt t pc).msgs = s.msgs := rfl
@[simp] theorem State.retireAt_elems (s : State) (t : Team) (pc : QWord) : (s.retireAt t pc).elems = s.elems := rfl
@[simp] theorem State.retireAt_lost (s : State) (t : Team) (pc : QWord) : (s.retireAt t pc).lost = s.lost := rfl
@[simp] theorem State.retireAt_moves (s : State) (t : Team) (pc : QWord) : (s.retireAt t pc).moves = s.moves := rfl
@[simp] theorem State.retireAt_rowErrs (s : State) (t : Team) (pc : QWord) : (s.retireAt t pc).rowErrs = s.rowErrs := rfl
@[simp] theorem State.retireAt_spared (s : State) (t : Team) (pc : QWord) : (s.retireAt t pc).spared = s.spared := rfl
@[simp] theorem State.retireAt_noSpare (s : State) (t : Team) (pc : QWord) : (s.retireAt t pc).noSpare = s.noSpare := rfl
@[simp] theorem State.retireAt_regErrs (s : State) (t : Team) (pc : QWord) : (s.retireAt t pc).regErrs = s.regErrs := rfl
@[simp] theorem State.retireAt_refetched (s : State) (t : Team) (pc : QWord) : (s.retireAt t pc).refetched = s.refetched := rfl
@[simp] theorem State.retireAt_retired (s : State) (t : Team) (pc : QWord) : (s.retireAt t pc).retired = s.retired := rfl
@[simp] theorem State.retireAt_fused (s : State) (t : Team) (pc : QWord) : (s.retireAt t pc).fused = s.fused := rfl
@[simp] theorem State.retireAt_ports (s : State) (t : Team) (pc : QWord) : (s.retireAt t pc).ports = s.ports := rfl
@[simp] theorem State.retireAt_routes (s : State) (t : Team) (pc : QWord) : (s.retireAt t pc).routes = s.routes := rfl
@[simp] theorem State.retireAt_modNum (s : State) (t : Team) (pc : QWord) : (s.retireAt t pc).modNum = s.modNum := rfl
@[simp] theorem State.retireAt_remotes (s : State) (t : Team) (pc : QWord) : (s.retireAt t pc).remotes = s.remotes := rfl
@[simp] theorem State.retireAt_served (s : State) (t : Team) (pc : QWord) : (s.retireAt t pc).served = s.served := rfl
@[simp] theorem State.retireAt_gangs (s : State) (t : Team) (pc : QWord) : (s.retireAt t pc).gangs = s.gangs := rfl
@[simp] theorem State.retireAt_ring (s : State) (t : Team) (pc : QWord) : (s.retireAt t pc).ring = s.ring := rfl
@[simp] theorem State.retireAt_jobs (s : State) (t : Team) (pc : QWord) : (s.retireAt t pc).jobs = s.jobs := rfl
@[simp] theorem State.retireAt_posted (s : State) (t : Team) (pc : QWord) : (s.retireAt t pc).posted = s.posted := rfl
@[simp] theorem State.retireAt_adminOpen (s : State) (t : Team) (pc : QWord) : (s.retireAt t pc).adminOpen = s.adminOpen := rfl
@[simp] theorem State.retireAt_adminBase (s : State) (t : Team) (pc : QWord) : (s.retireAt t pc).adminBase = s.adminBase := rfl
@[simp] theorem State.retireAt_adminSize (s : State) (t : Team) (pc : QWord) : (s.retireAt t pc).adminSize = s.adminSize := rfl
@[simp] theorem State.retireAt_hostLink (s : State) (t : Team) (pc : QWord) : (s.retireAt t pc).hostLink = s.hostLink := rfl
@[simp] theorem State.retireAt_refresh (s : State) (t : Team) (pc : QWord) : (s.retireAt t pc).refresh = s.refresh := rfl
@[simp] theorem State.retireAt_lostCached (s : State) (t : Team) (pc : QWord) : (s.retireAt t pc).lostCached = s.lostCached := rfl
@[simp] theorem State.retireAt_routing (s : State) (t : Team) (pc : QWord) : (s.retireAt t pc).routing = s.routing := rfl
@[simp] theorem State.retireAt_adminHead (s : State) (t : Team) (pc : QWord) : (s.retireAt t pc).adminHead = s.adminHead := rfl
@[simp] theorem State.retireAt_resets (s : State) (t : Team) (pc : QWord) : (s.retireAt t pc).resets = s.resets := rfl
@[simp] theorem State.retireAt_flash (s : State) (t : Team) (pc : QWord) : (s.retireAt t pc).flash = s.flash := rfl
@[simp] theorem State.retireAt_coolant (s : State) (t : Team) (pc : QWord) : (s.retireAt t pc).coolant = s.coolant := rfl
@[simp] theorem State.retireAt_amps (s : State) (t : Team) (pc : QWord) : (s.retireAt t pc).amps = s.amps := rfl
@[simp] theorem State.retireAt_total (s : State) (t : Team) (pc : QWord) : (s.retireAt t pc).total = s.total := rfl
@[simp] theorem State.retireAt_nextAmps (s : State) (t : Team) (pc : QWord) : (s.retireAt t pc).nextAmps = s.nextAmps := rfl
@[simp] theorem State.retireAt_nextHeat (s : State) (t : Team) (pc : QWord) : (s.retireAt t pc).nextHeat = s.nextHeat := rfl
@[simp] theorem State.retireAt_out (s : State) (t : Team) (pc : QWord) : (s.retireAt t pc).out = s.out := rfl

/-! ## What is read where it was written -/

@[simp] theorem State.team?_putTeam_self (s : State) (t : Team) : (s.putTeam t).team? t.tk = some t := by
  simp [State.team?, State.putTeam]

theorem State.team?_putTeam_ne (s : State) (t : Team) (k : Nat) (h : k ≠ t.tk) : (s.putTeam t).team? k = s.team? k :=
  Tbl.get?_set_ne _ _ _ _ h

theorem State.team?_modTeam (s : State) (tk k : Nat) (f : Team → Team) :
    (s.modTeam tk f).team? k = if k = tk then (s.team? tk).map f else s.team? k := Tbl.get?_modify _ _ _ _

theorem State.part?_modPart (s : State) (vf k : Nat) (f : Part → Part) :
    (s.modPart vf f).part? k = if k = vf then (s.part? vf).map f else s.part? k := Tbl.get?_modify _ _ _ _

theorem State.launch?_modLaunch (s : State) (l k : Nat) (f : Launch → Launch) :
    (s.modLaunch l f).launch? k = if k = l then (s.launch? l).map f else s.launch? k := Tbl.get?_modify _ _ _ _

theorem State.core_modCore (s : State) (c k : Nat) (f : Core → Core) :
    (s.modCore c f).core k = if k = c then f (s.core c) else s.core k := Tbl.getD_set _ _ _ _ _

theorem State.gran_modGran (s : State) (g k : Nat) (f : Gran → Gran) :
    (s.modGran g f).gran k = if k = g then f (s.gran g) else s.gran k := Tbl.getD_set _ _ _ _ _

@[simp] theorem State.part?_putTeam (s : State) (t : Team) (vf : Nat) : (s.putTeam t).part? vf = s.part? vf := rfl
@[simp] theorem State.launch?_putTeam (s : State) (t : Team) (l : Nat) : (s.putTeam t).launch? l = s.launch? l := rfl
@[simp] theorem State.core_putTeam (s : State) (t : Team) (c : Nat) : (s.putTeam t).core c = s.core c := rfl
@[simp] theorem State.team?_modPart (s : State) (vf k : Nat) (f : Part → Part) : (s.modPart vf f).team? k = s.team? k := rfl
@[simp] theorem State.team?_modLaunch (s : State) (l k : Nat) (f : Launch → Launch) : (s.modLaunch l f).team? k = s.team? k := rfl
@[simp] theorem State.team?_modCore (s : State) (c k : Nat) (f : Core → Core) : (s.modCore c f).team? k = s.team? k := rfl
@[simp] theorem State.team?_modSlice (s : State) (c k : Nat) (f : Slice → Slice) : (s.modSlice c f).team? k = s.team? k := rfl
@[simp] theorem State.team?_fresh (s : State) (k : Nat) : s.fresh.team? k = s.team? k := rfl

/-! ## A team: setS changes s alone -/

@[simp] theorem Team.setS_tid (t : Team) (r : Nat) (v : QWord) : (t.setS r v).tid = t.tid := by unfold Team.setS; split <;> rfl
@[simp] theorem Team.setS_vf (t : Team) (r : Nat) (v : QWord) : (t.setS r v).vf = t.vf := by unfold Team.setS; split <;> rfl
@[simp] theorem Team.setS_launch (t : Team) (r : Nat) (v : QWord) : (t.setS r v).launch = t.launch := by unfold Team.setS; split <;> rfl
@[simp] theorem Team.setS_forked (t : Team) (r : Nat) (v : QWord) : (t.setS r v).forked = t.forked := by unfold Team.setS; split <;> rfl
@[simp] theorem Team.setS_origin (t : Team) (r : Nat) (v : QWord) : (t.setS r v).origin = t.origin := by unfold Team.setS; split <;> rfl
@[simp] theorem Team.setS_parent (t : Team) (r : Nat) (v : QWord) : (t.setS r v).parent = t.parent := by unfold Team.setS; split <;> rfl
@[simp] theorem Team.setS_key (t : Team) (r : Nat) (v : QWord) : (t.setS r v).key = t.key := by unfold Team.setS; split <;> rfl
@[simp] theorem Team.setS_children (t : Team) (r : Nat) (v : QWord) : (t.setS r v).children = t.children := by unfold Team.setS; split <;> rfl
@[simp] theorem Team.setS_teamid (t : Team) (r : Nat) (v : QWord) : (t.setS r v).teamid = t.teamid := by unfold Team.setS; split <;> rfl
@[simp] theorem Team.setS_crewid (t : Team) (r : Nat) (v : QWord) : (t.setS r v).crewid = t.crewid := by unfold Team.setS; split <;> rfl
@[simp] theorem Team.setS_fleetid (t : Team) (r : Nat) (v : QWord) : (t.setS r v).fleetid = t.fleetid := by unfold Team.setS; split <;> rfl
@[simp] theorem Team.setS_lgx (t : Team) (r : Nat) (v : QWord) : (t.setS r v).lgx = t.lgx := by unfold Team.setS; split <;> rfl
@[simp] theorem Team.setS_lgy (t : Team) (r : Nat) (v : QWord) : (t.setS r v).lgy = t.lgy := by unfold Team.setS; split <;> rfl
@[simp] theorem Team.setS_lgz (t : Team) (r : Nat) (v : QWord) : (t.setS r v).lgz = t.lgz := by unfold Team.setS; split <;> rfl
@[simp] theorem Team.setS_lanes (t : Team) (r : Nat) (v : QWord) : (t.setS r v).lanes = t.lanes := by unfold Team.setS; split <;> rfl
@[simp] theorem Team.setS_regs (t : Team) (r : Nat) (v : QWord) : (t.setS r v).regs = t.regs := by unfold Team.setS; split <;> rfl
@[simp] theorem Team.setS_v (t : Team) (r : Nat) (v : QWord) : (t.setS r v).v = t.v := by unfold Team.setS; split <;> rfl
@[simp] theorem Team.setS_p (t : Team) (r : Nat) (v : QWord) : (t.setS r v).p = t.p := by unfold Team.setS; split <;> rfl
@[simp] theorem Team.setS_mask (t : Team) (r : Nat) (v : QWord) : (t.setS r v).mask = t.mask := by unfold Team.setS; split <;> rfl
@[simp] theorem Team.setS_lat (t : Team) (r : Nat) (v : QWord) : (t.setS r v).lat = t.lat := by unfold Team.setS; split <;> rfl
@[simp] theorem Team.setS_toks (t : Team) (r : Nat) (v : QWord) : (t.setS r v).toks = t.toks := by unfold Team.setS; split <;> rfl
@[simp] theorem Team.setS_ct (t : Team) (r : Nat) (v : QWord) : (t.setS r v).ct = t.ct := by unfold Team.setS; split <;> rfl
@[simp] theorem Team.setS_rmode (t : Team) (r : Nat) (v : QWord) : (t.setS r v).rmode = t.rmode := by unfold Team.setS; split <;> rfl
@[simp] theorem Team.setS_prio (t : Team) (r : Nat) (v : QWord) : (t.setS r v).prio = t.prio := by unfold Team.setS; split <;> rfl
@[simp] theorem Team.setS_level (t : Team) (r : Nat) (v : QWord) : (t.setS r v).level = t.level := by unfold Team.setS; split <;> rfl
@[simp] theorem Team.setS_pc (t : Team) (r : Nat) (v : QWord) : (t.setS r v).pc = t.pc := by unfold Team.setS; split <;> rfl
@[simp] theorem Team.setS_runStart (t : Team) (r : Nat) (v : QWord) : (t.setS r v).runStart = t.runStart := by unfold Team.setS; split <;> rfl
@[simp] theorem Team.setS_clock (t : Team) (r : Nat) (v : QWord) : (t.setS r v).clock = t.clock := by unfold Team.setS; split <;> rfl
@[simp] theorem Team.setS_runClock (t : Team) (r : Nat) (v : QWord) : (t.setS r v).runClock = t.runClock := by unfold Team.setS; split <;> rfl
@[simp] theorem Team.setS_epc (t : Team) (r : Nat) (v : QWord) : (t.setS r v).epc = t.epc := by unfold Team.setS; split <;> rfl
@[simp] theorem Team.setS_ecode (t : Team) (r : Nat) (v : QWord) : (t.setS r v).ecode = t.ecode := by unfold Team.setS; split <;> rfl
@[simp] theorem Team.setS_dbg (t : Team) (r : Nat) (v : QWord) : (t.setS r v).dbg = t.dbg := by unfold Team.setS; split <;> rfl
@[simp] theorem Team.setS_trig (t : Team) (r : Nat) (v : QWord) : (t.setS r v).trig = t.trig := by unfold Team.setS; split <;> rfl
@[simp] theorem Team.setS_mst (t : Team) (r : Nat) (v : QWord) : (t.setS r v).mst = t.mst := by unfold Team.setS; split <;> rfl
@[simp] theorem Team.setS_fsb (t : Team) (r : Nat) (v : QWord) : (t.setS r v).fsb = t.fsb := by unfold Team.setS; split <;> rfl
@[simp] theorem Team.setS_fsl (t : Team) (r : Nat) (v : QWord) : (t.setS r v).fsl = t.fsl := by unfold Team.setS; split <;> rfl
@[simp] theorem Team.setS_pending (t : Team) (r : Nat) (v : QWord) : (t.setS r v).pending = t.pending := by unfold Team.setS; split <;> rfl
@[simp] theorem Team.setS_tq (t : Team) (r : Nat) (v : QWord) : (t.setS r v).tq = t.tq := by unfold Team.setS; split <;> rfl
@[simp] theorem Team.setS_sq (t : Team) (r : Nat) (v : QWord) : (t.setS r v).sq = t.sq := by unfold Team.setS; split <;> rfl
@[simp] theorem Team.setS_observed (t : Team) (r : Nat) (v : QWord) : (t.setS r v).observed = t.observed := by unfold Team.setS; split <;> rfl
@[simp] theorem Team.setS_horizon (t : Team) (r : Nat) (v : QWord) : (t.setS r v).horizon = t.horizon := by unfold Team.setS; split <;> rfl
@[simp] theorem Team.setS_owed (t : Team) (r : Nat) (v : QWord) : (t.setS r v).owed = t.owed := by unfold Team.setS; split <;> rfl
@[simp] theorem Team.setS_ended (t : Team) (r : Nat) (v : QWord) : (t.setS r v).ended = t.ended := by unfold Team.setS; split <;> rfl
@[simp] theorem Team.setS_saved (t : Team) (r : Nat) (v : QWord) : (t.setS r v).saved = t.saved := by unfold Team.setS; split <;> rfl
@[simp] theorem Team.setS_park (t : Team) (r : Nat) (v : QWord) : (t.setS r v).park = t.park := by unfold Team.setS; split <;> rfl
@[simp] theorem Team.setS_wait (t : Team) (r : Nat) (v : QWord) : (t.setS r v).wait = t.wait := by unfold Team.setS; split <;> rfl
@[simp] theorem Team.setS_late (t : Team) (r : Nat) (v : QWord) : (t.setS r v).late = t.late := by unfold Team.setS; split <;> rfl
@[simp] theorem Team.setS_parkReq (t : Team) (r : Nat) (v : QWord) : (t.setS r v).parkReq = t.parkReq := by unfold Team.setS; split <;> rfl
@[simp] theorem Team.setS_replay (t : Team) (r : Nat) (v : QWord) : (t.setS r v).replay = t.replay := by unfold Team.setS; split <;> rfl
@[simp] theorem Team.setS_fenced (t : Team) (r : Nat) (v : QWord) : (t.setS r v).fenced = t.fenced := by unfold Team.setS; split <;> rfl
@[simp] theorem Team.setS_brkSkip (t : Team) (r : Nat) (v : QWord) : (t.setS r v).brkSkip = t.brkSkip := by unfold Team.setS; split <;> rfl
@[simp] theorem Team.setS_named (t : Team) (r : Nat) (v : QWord) : (t.setS r v).named = t.named := by unfold Team.setS; split <;> rfl
@[simp] theorem Team.setS_slice (t : Team) (r : Nat) (v : QWord) : (t.setS r v).slice = t.slice := by unfold Team.setS; split <;> rfl
@[simp] theorem Team.setS_slot (t : Team) (r : Nat) (v : QWord) : (t.setS r v).slot = t.slot := by unfold Team.setS; split <;> rfl
@[simp] theorem Team.setS_floor (t : Team) (r : Nat) (v : QWord) : (t.setS r v).floor = t.floor := by unfold Team.setS; split <;> rfl
@[simp] theorem Team.setS_forced (t : Team) (r : Nat) (v : QWord) : (t.setS r v).forced = t.forced := by unfold Team.setS; split <;> rfl
@[simp] theorem Team.setS_region (t : Team) (r : Nat) (v : QWord) : (t.setS r v).region = t.region := by unfold Team.setS; split <;> rfl
@[simp] theorem Team.setS_first (t : Team) (r : Nat) (v : QWord) : (t.setS r v).first = t.first := by unfold Team.setS; split <;> rfl
@[simp] theorem Team.setS_turn (t : Team) (r : Nat) (v : QWord) : (t.setS r v).turn = t.turn := by unfold Team.setS; split <;> rfl
@[simp] theorem Team.setS_rlFired (t : Team) (r : Nat) (v : QWord) : (t.setS r v).rlFired = t.rlFired := by unfold Team.setS; split <;> rfl
@[simp] theorem Team.setS_hbAt (t : Team) (r : Nat) (v : QWord) : (t.setS r v).hbAt = t.hbAt := by unfold Team.setS; split <;> rfl
@[simp] theorem Team.setS_tk (t : Team) (r : Nat) (v : QWord) : (t.setS r v).tk = t.tk := by simp [Team.tk]

/-! ## A team: setV changes v alone -/

@[simp] theorem Team.setV_tid (t : Team) (r : Nat) (f : Nat → Option Word) : (t.setV r f).tid = t.tid := rfl
@[simp] theorem Team.setV_vf (t : Team) (r : Nat) (f : Nat → Option Word) : (t.setV r f).vf = t.vf := rfl
@[simp] theorem Team.setV_launch (t : Team) (r : Nat) (f : Nat → Option Word) : (t.setV r f).launch = t.launch := rfl
@[simp] theorem Team.setV_forked (t : Team) (r : Nat) (f : Nat → Option Word) : (t.setV r f).forked = t.forked := rfl
@[simp] theorem Team.setV_origin (t : Team) (r : Nat) (f : Nat → Option Word) : (t.setV r f).origin = t.origin := rfl
@[simp] theorem Team.setV_parent (t : Team) (r : Nat) (f : Nat → Option Word) : (t.setV r f).parent = t.parent := rfl
@[simp] theorem Team.setV_key (t : Team) (r : Nat) (f : Nat → Option Word) : (t.setV r f).key = t.key := rfl
@[simp] theorem Team.setV_children (t : Team) (r : Nat) (f : Nat → Option Word) : (t.setV r f).children = t.children := rfl
@[simp] theorem Team.setV_teamid (t : Team) (r : Nat) (f : Nat → Option Word) : (t.setV r f).teamid = t.teamid := rfl
@[simp] theorem Team.setV_crewid (t : Team) (r : Nat) (f : Nat → Option Word) : (t.setV r f).crewid = t.crewid := rfl
@[simp] theorem Team.setV_fleetid (t : Team) (r : Nat) (f : Nat → Option Word) : (t.setV r f).fleetid = t.fleetid := rfl
@[simp] theorem Team.setV_lgx (t : Team) (r : Nat) (f : Nat → Option Word) : (t.setV r f).lgx = t.lgx := rfl
@[simp] theorem Team.setV_lgy (t : Team) (r : Nat) (f : Nat → Option Word) : (t.setV r f).lgy = t.lgy := rfl
@[simp] theorem Team.setV_lgz (t : Team) (r : Nat) (f : Nat → Option Word) : (t.setV r f).lgz = t.lgz := rfl
@[simp] theorem Team.setV_lanes (t : Team) (r : Nat) (f : Nat → Option Word) : (t.setV r f).lanes = t.lanes := rfl
@[simp] theorem Team.setV_regs (t : Team) (r : Nat) (f : Nat → Option Word) : (t.setV r f).regs = t.regs := rfl
@[simp] theorem Team.setV_p (t : Team) (r : Nat) (f : Nat → Option Word) : (t.setV r f).p = t.p := rfl
@[simp] theorem Team.setV_s (t : Team) (r : Nat) (f : Nat → Option Word) : (t.setV r f).s = t.s := rfl
@[simp] theorem Team.setV_mask (t : Team) (r : Nat) (f : Nat → Option Word) : (t.setV r f).mask = t.mask := rfl
@[simp] theorem Team.setV_lat (t : Team) (r : Nat) (f : Nat → Option Word) : (t.setV r f).lat = t.lat := rfl
@[simp] theorem Team.setV_toks (t : Team) (r : Nat) (f : Nat → Option Word) : (t.setV r f).toks = t.toks := rfl
@[simp] theorem Team.setV_ct (t : Team) (r : Nat) (f : Nat → Option Word) : (t.setV r f).ct = t.ct := rfl
@[simp] theorem Team.setV_rmode (t : Team) (r : Nat) (f : Nat → Option Word) : (t.setV r f).rmode = t.rmode := rfl
@[simp] theorem Team.setV_prio (t : Team) (r : Nat) (f : Nat → Option Word) : (t.setV r f).prio = t.prio := rfl
@[simp] theorem Team.setV_level (t : Team) (r : Nat) (f : Nat → Option Word) : (t.setV r f).level = t.level := rfl
@[simp] theorem Team.setV_pc (t : Team) (r : Nat) (f : Nat → Option Word) : (t.setV r f).pc = t.pc := rfl
@[simp] theorem Team.setV_runStart (t : Team) (r : Nat) (f : Nat → Option Word) : (t.setV r f).runStart = t.runStart := rfl
@[simp] theorem Team.setV_clock (t : Team) (r : Nat) (f : Nat → Option Word) : (t.setV r f).clock = t.clock := rfl
@[simp] theorem Team.setV_runClock (t : Team) (r : Nat) (f : Nat → Option Word) : (t.setV r f).runClock = t.runClock := rfl
@[simp] theorem Team.setV_epc (t : Team) (r : Nat) (f : Nat → Option Word) : (t.setV r f).epc = t.epc := rfl
@[simp] theorem Team.setV_ecode (t : Team) (r : Nat) (f : Nat → Option Word) : (t.setV r f).ecode = t.ecode := rfl
@[simp] theorem Team.setV_dbg (t : Team) (r : Nat) (f : Nat → Option Word) : (t.setV r f).dbg = t.dbg := rfl
@[simp] theorem Team.setV_trig (t : Team) (r : Nat) (f : Nat → Option Word) : (t.setV r f).trig = t.trig := rfl
@[simp] theorem Team.setV_mst (t : Team) (r : Nat) (f : Nat → Option Word) : (t.setV r f).mst = t.mst := rfl
@[simp] theorem Team.setV_fsb (t : Team) (r : Nat) (f : Nat → Option Word) : (t.setV r f).fsb = t.fsb := rfl
@[simp] theorem Team.setV_fsl (t : Team) (r : Nat) (f : Nat → Option Word) : (t.setV r f).fsl = t.fsl := rfl
@[simp] theorem Team.setV_pending (t : Team) (r : Nat) (f : Nat → Option Word) : (t.setV r f).pending = t.pending := rfl
@[simp] theorem Team.setV_tq (t : Team) (r : Nat) (f : Nat → Option Word) : (t.setV r f).tq = t.tq := rfl
@[simp] theorem Team.setV_sq (t : Team) (r : Nat) (f : Nat → Option Word) : (t.setV r f).sq = t.sq := rfl
@[simp] theorem Team.setV_observed (t : Team) (r : Nat) (f : Nat → Option Word) : (t.setV r f).observed = t.observed := rfl
@[simp] theorem Team.setV_horizon (t : Team) (r : Nat) (f : Nat → Option Word) : (t.setV r f).horizon = t.horizon := rfl
@[simp] theorem Team.setV_owed (t : Team) (r : Nat) (f : Nat → Option Word) : (t.setV r f).owed = t.owed := rfl
@[simp] theorem Team.setV_ended (t : Team) (r : Nat) (f : Nat → Option Word) : (t.setV r f).ended = t.ended := rfl
@[simp] theorem Team.setV_saved (t : Team) (r : Nat) (f : Nat → Option Word) : (t.setV r f).saved = t.saved := rfl
@[simp] theorem Team.setV_park (t : Team) (r : Nat) (f : Nat → Option Word) : (t.setV r f).park = t.park := rfl
@[simp] theorem Team.setV_wait (t : Team) (r : Nat) (f : Nat → Option Word) : (t.setV r f).wait = t.wait := rfl
@[simp] theorem Team.setV_late (t : Team) (r : Nat) (f : Nat → Option Word) : (t.setV r f).late = t.late := rfl
@[simp] theorem Team.setV_parkReq (t : Team) (r : Nat) (f : Nat → Option Word) : (t.setV r f).parkReq = t.parkReq := rfl
@[simp] theorem Team.setV_replay (t : Team) (r : Nat) (f : Nat → Option Word) : (t.setV r f).replay = t.replay := rfl
@[simp] theorem Team.setV_fenced (t : Team) (r : Nat) (f : Nat → Option Word) : (t.setV r f).fenced = t.fenced := rfl
@[simp] theorem Team.setV_brkSkip (t : Team) (r : Nat) (f : Nat → Option Word) : (t.setV r f).brkSkip = t.brkSkip := rfl
@[simp] theorem Team.setV_named (t : Team) (r : Nat) (f : Nat → Option Word) : (t.setV r f).named = t.named := rfl
@[simp] theorem Team.setV_slice (t : Team) (r : Nat) (f : Nat → Option Word) : (t.setV r f).slice = t.slice := rfl
@[simp] theorem Team.setV_slot (t : Team) (r : Nat) (f : Nat → Option Word) : (t.setV r f).slot = t.slot := rfl
@[simp] theorem Team.setV_floor (t : Team) (r : Nat) (f : Nat → Option Word) : (t.setV r f).floor = t.floor := rfl
@[simp] theorem Team.setV_forced (t : Team) (r : Nat) (f : Nat → Option Word) : (t.setV r f).forced = t.forced := rfl
@[simp] theorem Team.setV_region (t : Team) (r : Nat) (f : Nat → Option Word) : (t.setV r f).region = t.region := rfl
@[simp] theorem Team.setV_first (t : Team) (r : Nat) (f : Nat → Option Word) : (t.setV r f).first = t.first := rfl
@[simp] theorem Team.setV_turn (t : Team) (r : Nat) (f : Nat → Option Word) : (t.setV r f).turn = t.turn := rfl
@[simp] theorem Team.setV_rlFired (t : Team) (r : Nat) (f : Nat → Option Word) : (t.setV r f).rlFired = t.rlFired := rfl
@[simp] theorem Team.setV_hbAt (t : Team) (r : Nat) (f : Nat → Option Word) : (t.setV r f).hbAt = t.hbAt := rfl
@[simp] theorem Team.setV_tk (t : Team) (r : Nat) (f : Nat → Option Word) : (t.setV r f).tk = t.tk := by simp [Team.tk]

/-! ## A team: setVPair changes v alone -/

@[simp] theorem Team.setVPair_tid (t : Team) (r : Nat) (f : Nat → Option QWord) : (t.setVPair r f).tid = t.tid := rfl
@[simp] theorem Team.setVPair_vf (t : Team) (r : Nat) (f : Nat → Option QWord) : (t.setVPair r f).vf = t.vf := rfl
@[simp] theorem Team.setVPair_launch (t : Team) (r : Nat) (f : Nat → Option QWord) : (t.setVPair r f).launch = t.launch := rfl
@[simp] theorem Team.setVPair_forked (t : Team) (r : Nat) (f : Nat → Option QWord) : (t.setVPair r f).forked = t.forked := rfl
@[simp] theorem Team.setVPair_origin (t : Team) (r : Nat) (f : Nat → Option QWord) : (t.setVPair r f).origin = t.origin := rfl
@[simp] theorem Team.setVPair_parent (t : Team) (r : Nat) (f : Nat → Option QWord) : (t.setVPair r f).parent = t.parent := rfl
@[simp] theorem Team.setVPair_key (t : Team) (r : Nat) (f : Nat → Option QWord) : (t.setVPair r f).key = t.key := rfl
@[simp] theorem Team.setVPair_children (t : Team) (r : Nat) (f : Nat → Option QWord) : (t.setVPair r f).children = t.children := rfl
@[simp] theorem Team.setVPair_teamid (t : Team) (r : Nat) (f : Nat → Option QWord) : (t.setVPair r f).teamid = t.teamid := rfl
@[simp] theorem Team.setVPair_crewid (t : Team) (r : Nat) (f : Nat → Option QWord) : (t.setVPair r f).crewid = t.crewid := rfl
@[simp] theorem Team.setVPair_fleetid (t : Team) (r : Nat) (f : Nat → Option QWord) : (t.setVPair r f).fleetid = t.fleetid := rfl
@[simp] theorem Team.setVPair_lgx (t : Team) (r : Nat) (f : Nat → Option QWord) : (t.setVPair r f).lgx = t.lgx := rfl
@[simp] theorem Team.setVPair_lgy (t : Team) (r : Nat) (f : Nat → Option QWord) : (t.setVPair r f).lgy = t.lgy := rfl
@[simp] theorem Team.setVPair_lgz (t : Team) (r : Nat) (f : Nat → Option QWord) : (t.setVPair r f).lgz = t.lgz := rfl
@[simp] theorem Team.setVPair_lanes (t : Team) (r : Nat) (f : Nat → Option QWord) : (t.setVPair r f).lanes = t.lanes := rfl
@[simp] theorem Team.setVPair_regs (t : Team) (r : Nat) (f : Nat → Option QWord) : (t.setVPair r f).regs = t.regs := rfl
@[simp] theorem Team.setVPair_p (t : Team) (r : Nat) (f : Nat → Option QWord) : (t.setVPair r f).p = t.p := rfl
@[simp] theorem Team.setVPair_s (t : Team) (r : Nat) (f : Nat → Option QWord) : (t.setVPair r f).s = t.s := rfl
@[simp] theorem Team.setVPair_mask (t : Team) (r : Nat) (f : Nat → Option QWord) : (t.setVPair r f).mask = t.mask := rfl
@[simp] theorem Team.setVPair_lat (t : Team) (r : Nat) (f : Nat → Option QWord) : (t.setVPair r f).lat = t.lat := rfl
@[simp] theorem Team.setVPair_toks (t : Team) (r : Nat) (f : Nat → Option QWord) : (t.setVPair r f).toks = t.toks := rfl
@[simp] theorem Team.setVPair_ct (t : Team) (r : Nat) (f : Nat → Option QWord) : (t.setVPair r f).ct = t.ct := rfl
@[simp] theorem Team.setVPair_rmode (t : Team) (r : Nat) (f : Nat → Option QWord) : (t.setVPair r f).rmode = t.rmode := rfl
@[simp] theorem Team.setVPair_prio (t : Team) (r : Nat) (f : Nat → Option QWord) : (t.setVPair r f).prio = t.prio := rfl
@[simp] theorem Team.setVPair_level (t : Team) (r : Nat) (f : Nat → Option QWord) : (t.setVPair r f).level = t.level := rfl
@[simp] theorem Team.setVPair_pc (t : Team) (r : Nat) (f : Nat → Option QWord) : (t.setVPair r f).pc = t.pc := rfl
@[simp] theorem Team.setVPair_runStart (t : Team) (r : Nat) (f : Nat → Option QWord) : (t.setVPair r f).runStart = t.runStart := rfl
@[simp] theorem Team.setVPair_clock (t : Team) (r : Nat) (f : Nat → Option QWord) : (t.setVPair r f).clock = t.clock := rfl
@[simp] theorem Team.setVPair_runClock (t : Team) (r : Nat) (f : Nat → Option QWord) : (t.setVPair r f).runClock = t.runClock := rfl
@[simp] theorem Team.setVPair_epc (t : Team) (r : Nat) (f : Nat → Option QWord) : (t.setVPair r f).epc = t.epc := rfl
@[simp] theorem Team.setVPair_ecode (t : Team) (r : Nat) (f : Nat → Option QWord) : (t.setVPair r f).ecode = t.ecode := rfl
@[simp] theorem Team.setVPair_dbg (t : Team) (r : Nat) (f : Nat → Option QWord) : (t.setVPair r f).dbg = t.dbg := rfl
@[simp] theorem Team.setVPair_trig (t : Team) (r : Nat) (f : Nat → Option QWord) : (t.setVPair r f).trig = t.trig := rfl
@[simp] theorem Team.setVPair_mst (t : Team) (r : Nat) (f : Nat → Option QWord) : (t.setVPair r f).mst = t.mst := rfl
@[simp] theorem Team.setVPair_fsb (t : Team) (r : Nat) (f : Nat → Option QWord) : (t.setVPair r f).fsb = t.fsb := rfl
@[simp] theorem Team.setVPair_fsl (t : Team) (r : Nat) (f : Nat → Option QWord) : (t.setVPair r f).fsl = t.fsl := rfl
@[simp] theorem Team.setVPair_pending (t : Team) (r : Nat) (f : Nat → Option QWord) : (t.setVPair r f).pending = t.pending := rfl
@[simp] theorem Team.setVPair_tq (t : Team) (r : Nat) (f : Nat → Option QWord) : (t.setVPair r f).tq = t.tq := rfl
@[simp] theorem Team.setVPair_sq (t : Team) (r : Nat) (f : Nat → Option QWord) : (t.setVPair r f).sq = t.sq := rfl
@[simp] theorem Team.setVPair_observed (t : Team) (r : Nat) (f : Nat → Option QWord) : (t.setVPair r f).observed = t.observed := rfl
@[simp] theorem Team.setVPair_horizon (t : Team) (r : Nat) (f : Nat → Option QWord) : (t.setVPair r f).horizon = t.horizon := rfl
@[simp] theorem Team.setVPair_owed (t : Team) (r : Nat) (f : Nat → Option QWord) : (t.setVPair r f).owed = t.owed := rfl
@[simp] theorem Team.setVPair_ended (t : Team) (r : Nat) (f : Nat → Option QWord) : (t.setVPair r f).ended = t.ended := rfl
@[simp] theorem Team.setVPair_saved (t : Team) (r : Nat) (f : Nat → Option QWord) : (t.setVPair r f).saved = t.saved := rfl
@[simp] theorem Team.setVPair_park (t : Team) (r : Nat) (f : Nat → Option QWord) : (t.setVPair r f).park = t.park := rfl
@[simp] theorem Team.setVPair_wait (t : Team) (r : Nat) (f : Nat → Option QWord) : (t.setVPair r f).wait = t.wait := rfl
@[simp] theorem Team.setVPair_late (t : Team) (r : Nat) (f : Nat → Option QWord) : (t.setVPair r f).late = t.late := rfl
@[simp] theorem Team.setVPair_parkReq (t : Team) (r : Nat) (f : Nat → Option QWord) : (t.setVPair r f).parkReq = t.parkReq := rfl
@[simp] theorem Team.setVPair_replay (t : Team) (r : Nat) (f : Nat → Option QWord) : (t.setVPair r f).replay = t.replay := rfl
@[simp] theorem Team.setVPair_fenced (t : Team) (r : Nat) (f : Nat → Option QWord) : (t.setVPair r f).fenced = t.fenced := rfl
@[simp] theorem Team.setVPair_brkSkip (t : Team) (r : Nat) (f : Nat → Option QWord) : (t.setVPair r f).brkSkip = t.brkSkip := rfl
@[simp] theorem Team.setVPair_named (t : Team) (r : Nat) (f : Nat → Option QWord) : (t.setVPair r f).named = t.named := rfl
@[simp] theorem Team.setVPair_slice (t : Team) (r : Nat) (f : Nat → Option QWord) : (t.setVPair r f).slice = t.slice := rfl
@[simp] theorem Team.setVPair_slot (t : Team) (r : Nat) (f : Nat → Option QWord) : (t.setVPair r f).slot = t.slot := rfl
@[simp] theorem Team.setVPair_floor (t : Team) (r : Nat) (f : Nat → Option QWord) : (t.setVPair r f).floor = t.floor := rfl
@[simp] theorem Team.setVPair_forced (t : Team) (r : Nat) (f : Nat → Option QWord) : (t.setVPair r f).forced = t.forced := rfl
@[simp] theorem Team.setVPair_region (t : Team) (r : Nat) (f : Nat → Option QWord) : (t.setVPair r f).region = t.region := rfl
@[simp] theorem Team.setVPair_first (t : Team) (r : Nat) (f : Nat → Option QWord) : (t.setVPair r f).first = t.first := rfl
@[simp] theorem Team.setVPair_turn (t : Team) (r : Nat) (f : Nat → Option QWord) : (t.setVPair r f).turn = t.turn := rfl
@[simp] theorem Team.setVPair_rlFired (t : Team) (r : Nat) (f : Nat → Option QWord) : (t.setVPair r f).rlFired = t.rlFired := rfl
@[simp] theorem Team.setVPair_hbAt (t : Team) (r : Nat) (f : Nat → Option QWord) : (t.setVPair r f).hbAt = t.hbAt := rfl
@[simp] theorem Team.setVPair_tk (t : Team) (r : Nat) (f : Nat → Option QWord) : (t.setVPair r f).tk = t.tk := by simp [Team.tk]

/-! ## A team: setPred changes p alone -/

@[simp] theorem Team.setPred_tid (t : Team) (n : Nat) (m : Mask) : (t.setPred n m).tid = t.tid := by unfold Team.setPred; split <;> rfl
@[simp] theorem Team.setPred_vf (t : Team) (n : Nat) (m : Mask) : (t.setPred n m).vf = t.vf := by unfold Team.setPred; split <;> rfl
@[simp] theorem Team.setPred_launch (t : Team) (n : Nat) (m : Mask) : (t.setPred n m).launch = t.launch := by unfold Team.setPred; split <;> rfl
@[simp] theorem Team.setPred_forked (t : Team) (n : Nat) (m : Mask) : (t.setPred n m).forked = t.forked := by unfold Team.setPred; split <;> rfl
@[simp] theorem Team.setPred_origin (t : Team) (n : Nat) (m : Mask) : (t.setPred n m).origin = t.origin := by unfold Team.setPred; split <;> rfl
@[simp] theorem Team.setPred_parent (t : Team) (n : Nat) (m : Mask) : (t.setPred n m).parent = t.parent := by unfold Team.setPred; split <;> rfl
@[simp] theorem Team.setPred_key (t : Team) (n : Nat) (m : Mask) : (t.setPred n m).key = t.key := by unfold Team.setPred; split <;> rfl
@[simp] theorem Team.setPred_children (t : Team) (n : Nat) (m : Mask) : (t.setPred n m).children = t.children := by unfold Team.setPred; split <;> rfl
@[simp] theorem Team.setPred_teamid (t : Team) (n : Nat) (m : Mask) : (t.setPred n m).teamid = t.teamid := by unfold Team.setPred; split <;> rfl
@[simp] theorem Team.setPred_crewid (t : Team) (n : Nat) (m : Mask) : (t.setPred n m).crewid = t.crewid := by unfold Team.setPred; split <;> rfl
@[simp] theorem Team.setPred_fleetid (t : Team) (n : Nat) (m : Mask) : (t.setPred n m).fleetid = t.fleetid := by unfold Team.setPred; split <;> rfl
@[simp] theorem Team.setPred_lgx (t : Team) (n : Nat) (m : Mask) : (t.setPred n m).lgx = t.lgx := by unfold Team.setPred; split <;> rfl
@[simp] theorem Team.setPred_lgy (t : Team) (n : Nat) (m : Mask) : (t.setPred n m).lgy = t.lgy := by unfold Team.setPred; split <;> rfl
@[simp] theorem Team.setPred_lgz (t : Team) (n : Nat) (m : Mask) : (t.setPred n m).lgz = t.lgz := by unfold Team.setPred; split <;> rfl
@[simp] theorem Team.setPred_lanes (t : Team) (n : Nat) (m : Mask) : (t.setPred n m).lanes = t.lanes := by unfold Team.setPred; split <;> rfl
@[simp] theorem Team.setPred_regs (t : Team) (n : Nat) (m : Mask) : (t.setPred n m).regs = t.regs := by unfold Team.setPred; split <;> rfl
@[simp] theorem Team.setPred_v (t : Team) (n : Nat) (m : Mask) : (t.setPred n m).v = t.v := by unfold Team.setPred; split <;> rfl
@[simp] theorem Team.setPred_s (t : Team) (n : Nat) (m : Mask) : (t.setPred n m).s = t.s := by unfold Team.setPred; split <;> rfl
@[simp] theorem Team.setPred_mask (t : Team) (n : Nat) (m : Mask) : (t.setPred n m).mask = t.mask := by unfold Team.setPred; split <;> rfl
@[simp] theorem Team.setPred_lat (t : Team) (n : Nat) (m : Mask) : (t.setPred n m).lat = t.lat := by unfold Team.setPred; split <;> rfl
@[simp] theorem Team.setPred_toks (t : Team) (n : Nat) (m : Mask) : (t.setPred n m).toks = t.toks := by unfold Team.setPred; split <;> rfl
@[simp] theorem Team.setPred_ct (t : Team) (n : Nat) (m : Mask) : (t.setPred n m).ct = t.ct := by unfold Team.setPred; split <;> rfl
@[simp] theorem Team.setPred_rmode (t : Team) (n : Nat) (m : Mask) : (t.setPred n m).rmode = t.rmode := by unfold Team.setPred; split <;> rfl
@[simp] theorem Team.setPred_prio (t : Team) (n : Nat) (m : Mask) : (t.setPred n m).prio = t.prio := by unfold Team.setPred; split <;> rfl
@[simp] theorem Team.setPred_level (t : Team) (n : Nat) (m : Mask) : (t.setPred n m).level = t.level := by unfold Team.setPred; split <;> rfl
@[simp] theorem Team.setPred_pc (t : Team) (n : Nat) (m : Mask) : (t.setPred n m).pc = t.pc := by unfold Team.setPred; split <;> rfl
@[simp] theorem Team.setPred_runStart (t : Team) (n : Nat) (m : Mask) : (t.setPred n m).runStart = t.runStart := by unfold Team.setPred; split <;> rfl
@[simp] theorem Team.setPred_clock (t : Team) (n : Nat) (m : Mask) : (t.setPred n m).clock = t.clock := by unfold Team.setPred; split <;> rfl
@[simp] theorem Team.setPred_runClock (t : Team) (n : Nat) (m : Mask) : (t.setPred n m).runClock = t.runClock := by unfold Team.setPred; split <;> rfl
@[simp] theorem Team.setPred_epc (t : Team) (n : Nat) (m : Mask) : (t.setPred n m).epc = t.epc := by unfold Team.setPred; split <;> rfl
@[simp] theorem Team.setPred_ecode (t : Team) (n : Nat) (m : Mask) : (t.setPred n m).ecode = t.ecode := by unfold Team.setPred; split <;> rfl
@[simp] theorem Team.setPred_dbg (t : Team) (n : Nat) (m : Mask) : (t.setPred n m).dbg = t.dbg := by unfold Team.setPred; split <;> rfl
@[simp] theorem Team.setPred_trig (t : Team) (n : Nat) (m : Mask) : (t.setPred n m).trig = t.trig := by unfold Team.setPred; split <;> rfl
@[simp] theorem Team.setPred_mst (t : Team) (n : Nat) (m : Mask) : (t.setPred n m).mst = t.mst := by unfold Team.setPred; split <;> rfl
@[simp] theorem Team.setPred_fsb (t : Team) (n : Nat) (m : Mask) : (t.setPred n m).fsb = t.fsb := by unfold Team.setPred; split <;> rfl
@[simp] theorem Team.setPred_fsl (t : Team) (n : Nat) (m : Mask) : (t.setPred n m).fsl = t.fsl := by unfold Team.setPred; split <;> rfl
@[simp] theorem Team.setPred_pending (t : Team) (n : Nat) (m : Mask) : (t.setPred n m).pending = t.pending := by unfold Team.setPred; split <;> rfl
@[simp] theorem Team.setPred_tq (t : Team) (n : Nat) (m : Mask) : (t.setPred n m).tq = t.tq := by unfold Team.setPred; split <;> rfl
@[simp] theorem Team.setPred_sq (t : Team) (n : Nat) (m : Mask) : (t.setPred n m).sq = t.sq := by unfold Team.setPred; split <;> rfl
@[simp] theorem Team.setPred_observed (t : Team) (n : Nat) (m : Mask) : (t.setPred n m).observed = t.observed := by unfold Team.setPred; split <;> rfl
@[simp] theorem Team.setPred_horizon (t : Team) (n : Nat) (m : Mask) : (t.setPred n m).horizon = t.horizon := by unfold Team.setPred; split <;> rfl
@[simp] theorem Team.setPred_owed (t : Team) (n : Nat) (m : Mask) : (t.setPred n m).owed = t.owed := by unfold Team.setPred; split <;> rfl
@[simp] theorem Team.setPred_ended (t : Team) (n : Nat) (m : Mask) : (t.setPred n m).ended = t.ended := by unfold Team.setPred; split <;> rfl
@[simp] theorem Team.setPred_saved (t : Team) (n : Nat) (m : Mask) : (t.setPred n m).saved = t.saved := by unfold Team.setPred; split <;> rfl
@[simp] theorem Team.setPred_park (t : Team) (n : Nat) (m : Mask) : (t.setPred n m).park = t.park := by unfold Team.setPred; split <;> rfl
@[simp] theorem Team.setPred_wait (t : Team) (n : Nat) (m : Mask) : (t.setPred n m).wait = t.wait := by unfold Team.setPred; split <;> rfl
@[simp] theorem Team.setPred_late (t : Team) (n : Nat) (m : Mask) : (t.setPred n m).late = t.late := by unfold Team.setPred; split <;> rfl
@[simp] theorem Team.setPred_parkReq (t : Team) (n : Nat) (m : Mask) : (t.setPred n m).parkReq = t.parkReq := by unfold Team.setPred; split <;> rfl
@[simp] theorem Team.setPred_replay (t : Team) (n : Nat) (m : Mask) : (t.setPred n m).replay = t.replay := by unfold Team.setPred; split <;> rfl
@[simp] theorem Team.setPred_fenced (t : Team) (n : Nat) (m : Mask) : (t.setPred n m).fenced = t.fenced := by unfold Team.setPred; split <;> rfl
@[simp] theorem Team.setPred_brkSkip (t : Team) (n : Nat) (m : Mask) : (t.setPred n m).brkSkip = t.brkSkip := by unfold Team.setPred; split <;> rfl
@[simp] theorem Team.setPred_named (t : Team) (n : Nat) (m : Mask) : (t.setPred n m).named = t.named := by unfold Team.setPred; split <;> rfl
@[simp] theorem Team.setPred_slice (t : Team) (n : Nat) (m : Mask) : (t.setPred n m).slice = t.slice := by unfold Team.setPred; split <;> rfl
@[simp] theorem Team.setPred_slot (t : Team) (n : Nat) (m : Mask) : (t.setPred n m).slot = t.slot := by unfold Team.setPred; split <;> rfl
@[simp] theorem Team.setPred_floor (t : Team) (n : Nat) (m : Mask) : (t.setPred n m).floor = t.floor := by unfold Team.setPred; split <;> rfl
@[simp] theorem Team.setPred_forced (t : Team) (n : Nat) (m : Mask) : (t.setPred n m).forced = t.forced := by unfold Team.setPred; split <;> rfl
@[simp] theorem Team.setPred_region (t : Team) (n : Nat) (m : Mask) : (t.setPred n m).region = t.region := by unfold Team.setPred; split <;> rfl
@[simp] theorem Team.setPred_first (t : Team) (n : Nat) (m : Mask) : (t.setPred n m).first = t.first := by unfold Team.setPred; split <;> rfl
@[simp] theorem Team.setPred_turn (t : Team) (n : Nat) (m : Mask) : (t.setPred n m).turn = t.turn := by unfold Team.setPred; split <;> rfl
@[simp] theorem Team.setPred_rlFired (t : Team) (n : Nat) (m : Mask) : (t.setPred n m).rlFired = t.rlFired := by unfold Team.setPred; split <;> rfl
@[simp] theorem Team.setPred_hbAt (t : Team) (n : Nat) (m : Mask) : (t.setPred n m).hbAt = t.hbAt := by unfold Team.setPred; split <;> rfl
@[simp] theorem Team.setPred_tk (t : Team) (n : Nat) (m : Mask) : (t.setPred n m).tk = t.tk := by simp [Team.tk]

/-! ## A team: pushLatch changes lat alone -/

@[simp] theorem Team.pushLatch_tid (t : Team) (tag : Nat) (f : Nat → QWord) : (t.pushLatch tag f).tid = t.tid := rfl
@[simp] theorem Team.pushLatch_vf (t : Team) (tag : Nat) (f : Nat → QWord) : (t.pushLatch tag f).vf = t.vf := rfl
@[simp] theorem Team.pushLatch_launch (t : Team) (tag : Nat) (f : Nat → QWord) : (t.pushLatch tag f).launch = t.launch := rfl
@[simp] theorem Team.pushLatch_forked (t : Team) (tag : Nat) (f : Nat → QWord) : (t.pushLatch tag f).forked = t.forked := rfl
@[simp] theorem Team.pushLatch_origin (t : Team) (tag : Nat) (f : Nat → QWord) : (t.pushLatch tag f).origin = t.origin := rfl
@[simp] theorem Team.pushLatch_parent (t : Team) (tag : Nat) (f : Nat → QWord) : (t.pushLatch tag f).parent = t.parent := rfl
@[simp] theorem Team.pushLatch_key (t : Team) (tag : Nat) (f : Nat → QWord) : (t.pushLatch tag f).key = t.key := rfl
@[simp] theorem Team.pushLatch_children (t : Team) (tag : Nat) (f : Nat → QWord) : (t.pushLatch tag f).children = t.children := rfl
@[simp] theorem Team.pushLatch_teamid (t : Team) (tag : Nat) (f : Nat → QWord) : (t.pushLatch tag f).teamid = t.teamid := rfl
@[simp] theorem Team.pushLatch_crewid (t : Team) (tag : Nat) (f : Nat → QWord) : (t.pushLatch tag f).crewid = t.crewid := rfl
@[simp] theorem Team.pushLatch_fleetid (t : Team) (tag : Nat) (f : Nat → QWord) : (t.pushLatch tag f).fleetid = t.fleetid := rfl
@[simp] theorem Team.pushLatch_lgx (t : Team) (tag : Nat) (f : Nat → QWord) : (t.pushLatch tag f).lgx = t.lgx := rfl
@[simp] theorem Team.pushLatch_lgy (t : Team) (tag : Nat) (f : Nat → QWord) : (t.pushLatch tag f).lgy = t.lgy := rfl
@[simp] theorem Team.pushLatch_lgz (t : Team) (tag : Nat) (f : Nat → QWord) : (t.pushLatch tag f).lgz = t.lgz := rfl
@[simp] theorem Team.pushLatch_lanes (t : Team) (tag : Nat) (f : Nat → QWord) : (t.pushLatch tag f).lanes = t.lanes := rfl
@[simp] theorem Team.pushLatch_regs (t : Team) (tag : Nat) (f : Nat → QWord) : (t.pushLatch tag f).regs = t.regs := rfl
@[simp] theorem Team.pushLatch_v (t : Team) (tag : Nat) (f : Nat → QWord) : (t.pushLatch tag f).v = t.v := rfl
@[simp] theorem Team.pushLatch_p (t : Team) (tag : Nat) (f : Nat → QWord) : (t.pushLatch tag f).p = t.p := rfl
@[simp] theorem Team.pushLatch_s (t : Team) (tag : Nat) (f : Nat → QWord) : (t.pushLatch tag f).s = t.s := rfl
@[simp] theorem Team.pushLatch_mask (t : Team) (tag : Nat) (f : Nat → QWord) : (t.pushLatch tag f).mask = t.mask := rfl
@[simp] theorem Team.pushLatch_toks (t : Team) (tag : Nat) (f : Nat → QWord) : (t.pushLatch tag f).toks = t.toks := rfl
@[simp] theorem Team.pushLatch_ct (t : Team) (tag : Nat) (f : Nat → QWord) : (t.pushLatch tag f).ct = t.ct := rfl
@[simp] theorem Team.pushLatch_rmode (t : Team) (tag : Nat) (f : Nat → QWord) : (t.pushLatch tag f).rmode = t.rmode := rfl
@[simp] theorem Team.pushLatch_prio (t : Team) (tag : Nat) (f : Nat → QWord) : (t.pushLatch tag f).prio = t.prio := rfl
@[simp] theorem Team.pushLatch_level (t : Team) (tag : Nat) (f : Nat → QWord) : (t.pushLatch tag f).level = t.level := rfl
@[simp] theorem Team.pushLatch_pc (t : Team) (tag : Nat) (f : Nat → QWord) : (t.pushLatch tag f).pc = t.pc := rfl
@[simp] theorem Team.pushLatch_runStart (t : Team) (tag : Nat) (f : Nat → QWord) : (t.pushLatch tag f).runStart = t.runStart := rfl
@[simp] theorem Team.pushLatch_clock (t : Team) (tag : Nat) (f : Nat → QWord) : (t.pushLatch tag f).clock = t.clock := rfl
@[simp] theorem Team.pushLatch_runClock (t : Team) (tag : Nat) (f : Nat → QWord) : (t.pushLatch tag f).runClock = t.runClock := rfl
@[simp] theorem Team.pushLatch_epc (t : Team) (tag : Nat) (f : Nat → QWord) : (t.pushLatch tag f).epc = t.epc := rfl
@[simp] theorem Team.pushLatch_ecode (t : Team) (tag : Nat) (f : Nat → QWord) : (t.pushLatch tag f).ecode = t.ecode := rfl
@[simp] theorem Team.pushLatch_dbg (t : Team) (tag : Nat) (f : Nat → QWord) : (t.pushLatch tag f).dbg = t.dbg := rfl
@[simp] theorem Team.pushLatch_trig (t : Team) (tag : Nat) (f : Nat → QWord) : (t.pushLatch tag f).trig = t.trig := rfl
@[simp] theorem Team.pushLatch_mst (t : Team) (tag : Nat) (f : Nat → QWord) : (t.pushLatch tag f).mst = t.mst := rfl
@[simp] theorem Team.pushLatch_fsb (t : Team) (tag : Nat) (f : Nat → QWord) : (t.pushLatch tag f).fsb = t.fsb := rfl
@[simp] theorem Team.pushLatch_fsl (t : Team) (tag : Nat) (f : Nat → QWord) : (t.pushLatch tag f).fsl = t.fsl := rfl
@[simp] theorem Team.pushLatch_pending (t : Team) (tag : Nat) (f : Nat → QWord) : (t.pushLatch tag f).pending = t.pending := rfl
@[simp] theorem Team.pushLatch_tq (t : Team) (tag : Nat) (f : Nat → QWord) : (t.pushLatch tag f).tq = t.tq := rfl
@[simp] theorem Team.pushLatch_sq (t : Team) (tag : Nat) (f : Nat → QWord) : (t.pushLatch tag f).sq = t.sq := rfl
@[simp] theorem Team.pushLatch_observed (t : Team) (tag : Nat) (f : Nat → QWord) : (t.pushLatch tag f).observed = t.observed := rfl
@[simp] theorem Team.pushLatch_horizon (t : Team) (tag : Nat) (f : Nat → QWord) : (t.pushLatch tag f).horizon = t.horizon := rfl
@[simp] theorem Team.pushLatch_owed (t : Team) (tag : Nat) (f : Nat → QWord) : (t.pushLatch tag f).owed = t.owed := rfl
@[simp] theorem Team.pushLatch_ended (t : Team) (tag : Nat) (f : Nat → QWord) : (t.pushLatch tag f).ended = t.ended := rfl
@[simp] theorem Team.pushLatch_saved (t : Team) (tag : Nat) (f : Nat → QWord) : (t.pushLatch tag f).saved = t.saved := rfl
@[simp] theorem Team.pushLatch_park (t : Team) (tag : Nat) (f : Nat → QWord) : (t.pushLatch tag f).park = t.park := rfl
@[simp] theorem Team.pushLatch_wait (t : Team) (tag : Nat) (f : Nat → QWord) : (t.pushLatch tag f).wait = t.wait := rfl
@[simp] theorem Team.pushLatch_late (t : Team) (tag : Nat) (f : Nat → QWord) : (t.pushLatch tag f).late = t.late := rfl
@[simp] theorem Team.pushLatch_parkReq (t : Team) (tag : Nat) (f : Nat → QWord) : (t.pushLatch tag f).parkReq = t.parkReq := rfl
@[simp] theorem Team.pushLatch_replay (t : Team) (tag : Nat) (f : Nat → QWord) : (t.pushLatch tag f).replay = t.replay := rfl
@[simp] theorem Team.pushLatch_fenced (t : Team) (tag : Nat) (f : Nat → QWord) : (t.pushLatch tag f).fenced = t.fenced := rfl
@[simp] theorem Team.pushLatch_brkSkip (t : Team) (tag : Nat) (f : Nat → QWord) : (t.pushLatch tag f).brkSkip = t.brkSkip := rfl
@[simp] theorem Team.pushLatch_named (t : Team) (tag : Nat) (f : Nat → QWord) : (t.pushLatch tag f).named = t.named := rfl
@[simp] theorem Team.pushLatch_slice (t : Team) (tag : Nat) (f : Nat → QWord) : (t.pushLatch tag f).slice = t.slice := rfl
@[simp] theorem Team.pushLatch_slot (t : Team) (tag : Nat) (f : Nat → QWord) : (t.pushLatch tag f).slot = t.slot := rfl
@[simp] theorem Team.pushLatch_floor (t : Team) (tag : Nat) (f : Nat → QWord) : (t.pushLatch tag f).floor = t.floor := rfl
@[simp] theorem Team.pushLatch_forced (t : Team) (tag : Nat) (f : Nat → QWord) : (t.pushLatch tag f).forced = t.forced := rfl
@[simp] theorem Team.pushLatch_region (t : Team) (tag : Nat) (f : Nat → QWord) : (t.pushLatch tag f).region = t.region := rfl
@[simp] theorem Team.pushLatch_first (t : Team) (tag : Nat) (f : Nat → QWord) : (t.pushLatch tag f).first = t.first := rfl
@[simp] theorem Team.pushLatch_turn (t : Team) (tag : Nat) (f : Nat → QWord) : (t.pushLatch tag f).turn = t.turn := rfl
@[simp] theorem Team.pushLatch_rlFired (t : Team) (tag : Nat) (f : Nat → QWord) : (t.pushLatch tag f).rlFired = t.rlFired := rfl
@[simp] theorem Team.pushLatch_hbAt (t : Team) (tag : Nat) (f : Nat → QWord) : (t.pushLatch tag f).hbAt = t.hbAt := rfl
@[simp] theorem Team.pushLatch_tk (t : Team) (tag : Nat) (f : Nat → QWord) : (t.pushLatch tag f).tk = t.tk := by simp [Team.tk]

end Sys2Proof.Machine
end

