-- ==== Sys2Proof/Laws/Ops.lean ====
section
/-! SUPPORT. Registers, predicates and latches after a write, and one lemma for each shared operation of Machine/Ops.lean,
Operands.lean and Uniform.lean that says everything it can do. -/

namespace Sys2Proof.Machine

/-! ## Reading registers after a write -/

@[simp] theorem Team.sreg_zero (t : Team) : t.sreg 0 = 0 := rfl

/-- A uniform register after a write of another or the same; s0 reads zero whatever is written to it. -/
theorem Team.sreg_setS (t : Team) (r n : Nat) (v : QWord) : (t.setS r v).sreg n = if n = r ∧ n ≠ 0 then v else t.sreg n := by
  unfold Team.setS
  split
  · subst_vars
    by_cases h : n = 0 <;> simp [h]
  · rename_i h
    unfold Team.sreg
    by_cases hn : n = 0
    · simp [hn]
    · simp only [hn, if_false, Tbl.getD_set, ne_eq, not_false_eq_true, and_true]

theorem Team.pred_zero (t : Team) (L : Nat) : t.pred 0 L = true := rfl

/-- A predicate after a write; p0 is true whatever is written to it. -/
theorem Team.pred_setPred (t : Team) (n k L : Nat) (m : Mask) :
    (t.setPred n m).pred k L = if k = n ∧ k ≠ 0 then m.getLsbD L else t.pred k L := by
  unfold Team.setPred
  split
  · subst_vars
    by_cases h : k = 0 <;> simp [h]
  · unfold Team.pred
    by_cases hk : k = 0
    · simp [hk]
    · simp only [Tbl.getD_set, ne_eq, hk, not_false_eq_true, and_true]
      split <;> simp [hk]

/-- A vector register after a write of it: the new value where there is one. -/
theorem Team.vreg_setV (t : Team) (r L : Nat) (f : Nat → Option Word) (h : L < t.lanes) :
    (t.setV r f).vreg r L = (f L).getD (t.vreg r L) := by
  simp [Team.setV, Team.vreg, Tbl.getD_set, h]

theorem Team.vreg_setV_ne (t : Team) (r n L : Nat) (f : Nat → Option Word) (h : n ≠ r) : (t.setV r f).vreg n L = t.vreg n L := by
  simp [Team.setV, Team.vreg, Tbl.getD_set, h]

/-- The two words of a qword make it again. -/
theorem lowW_highW (q : QWord) : BitVec.ofNat 64 ((lowW q).toNat + (highW q).toNat * 2 ^ 32) = q := by
  apply BitVec.eq_of_toNat_eq
  have := q.isLt
  simp only [lowW, highW, BitVec.toNat_ofNat]
  omega

theorem Team.vpair_setVPair (t : Team) (r L : Nat) (f : Nat → Option QWord) (h : L < t.lanes) :
    (t.setVPair r f).vpair r L = (f L).getD (t.vpair r L) := by
  unfold Team.setVPair Team.vpair
  rw [Team.vreg_setV_ne _ _ _ _ _ (by omega : r ≠ r + 1), Team.vreg_setV _ _ _ _ h, Team.vreg_setV _ _ _ _ (by simpa using h),
    Team.vreg_setV_ne _ _ _ _ _ (by omega : r + 1 ≠ r)]
  cases f L with
  | none => rfl
  | some q => exact lowW_highW q

theorem Team.vreg_setVPair_ne (t : Team) (r n L : Nat) (f : Nat → Option QWord) (h : n ≠ r) (h' : n ≠ r + 1) :
    (t.setVPair r f).vreg n L = t.vreg n L := by
  unfold Team.setVPair
  rw [Team.vreg_setV_ne _ _ _ _ _ h', Team.vreg_setV_ne _ _ _ _ _ h]

/-- The new latch entry is b0; the older ones move up. -/
theorem Team.latch_pushLatch_zero (t : Team) (tag L : Nat) (f : Nat → QWord) (h : L < t.lanes) : (t.pushLatch tag f).latch 0 L = f L := by
  simp [Team.pushLatch, Team.latch, h]

theorem Team.latch_pushLatch_succ (t : Team) (tag k L : Nat) (f : Nat → QWord) (h : k < 3) :
    (t.pushLatch tag f).latch (k + 1) L = t.latch k L := by
  unfold Team.pushLatch Team.latch
  rw [List.getElem?_take_of_lt (by omega), List.getElem?_cons_succ]

/-! ## Results -/

/-- A result of lane L: there is one where the instruction acts. -/
theorem Team.results_getD {α : Type} (t : Team) (act : Mask) (pg L : Nat) (f : Nat → α) (h : L < t.lanes) :
    (t.results act pg f).getD L none = if act.getLsbD L = true ∧ t.pred pg L = true then some (f L) else none := by
  simp [Team.results, h]

@[simp] theorem Team.vreg_pushLatch (t : Team) (tag : Nat) (f : Nat → QWord) (r L : Nat) : (t.pushLatch tag f).vreg r L = t.vreg r L := rfl
@[simp] theorem Team.vpair_pushLatch (t : Team) (tag : Nat) (f : Nat → QWord) (r L : Nat) : (t.pushLatch tag f).vpair r L = t.vpair r L := rfl
@[simp] theorem Team.latch_setV (t : Team) (r : Nat) (f : Nat → Option Word) (k L : Nat) : (t.setV r f).latch k L = t.latch k L := rfl
@[simp] theorem Team.latch_setVPair (t : Team) (r : Nat) (f : Nat → Option QWord) (k L : Nat) : (t.setVPair r f).latch k L = t.latch k L := rfl

/-! ## The current team -/

theorem Runs.curTeam {s : State} {t : Team} (h : Runs s t) : s.curTeam = some t := by
  obtain ⟨hc, ht⟩ := h
  unfold State.curTeam
  cases hs : s.cur with
  | none => simp [hs] at hc
  | some c =>
    simp only [hs, Option.map_some, Option.some.injEq] at hc
    simp [hc, ht]

/-- A meaning of the current team: its next state. -/
theorem onTeam_next {s : State} {t : Team} (h : Runs s t) (f : Team → State) : onTeam s f = .next (f t) := by
  simp [onTeam, h.curTeam]

theorem onTeamRegs_next {i : Instr} {s : State} {t : Team} (h : Runs s t) (hr : i.highReg t.regs = none) (f : Team → State) :
    onTeamRegs i s f = .next (f t) := by
  simp [onTeamRegs, onTeam_next h, hr]

/-- A vector register that the launch does not have: ILLEGAL 6 (Table 22.2). -/
theorem onTeamRegs_high {i : Instr} {s : State} {t : Team} {r : Nat} (h : Runs s t) (hr : i.highReg t.regs = some r) (f : Team → State) :
    onTeamRegs i s f = .next (s.fault t ⟨0x01, 6, 0, qn r⟩) := by
  simp [onTeamRegs, onTeam_next h, hr]

/-- With no team named a meaning stops; with one it gives a next state. -/
theorem onTeam_cases (s : State) (f : Team → State) : onTeam s f = .fault .noTeam ∨ ∃ t, s.curTeam = some t ∧ onTeam s f = .next (f t) := by
  unfold onTeam
  cases s.curTeam <;> simp

/-- Putting a changed team back is a change of that team alone. -/
theorem OneTeam.put (s : State) (t t' : Team) (h : t'.tk = t.tk) : OneTeam s (s.putTeam t') t t' where
  rest := rfl
  self := by rw [← h]; exact State.team?_putTeam_self s t'
  others := fun k hk => State.team?_putTeam_ne s t' k (by rw [h]; exact hk)
  bytes := fun _ => rfl

theorem State.retireAt_eq (s : State) (t : Team) (pc : QWord) : s.retireAt t pc = s.putTeam { t with pc := pc, clock := t.clock + 1 } := rfl

/-! ## The shared operations -/

/-- Retiring a team that differs from t in v and lat alone. -/
theorem OneTeam.retireLanes (s : State) (t : Team) (V : Tbl (List Word)) (A : List Latch) :
    OneTeam s (s.retire { t with v := V, lat := A }) t { t with v := V, lat := A, pc := t.nextPc, clock := t.clock + 1 } :=
  OneTeam.put s t _ rfl

theorem OneTeam.retirePreds (s : State) (t : Team) (P : Tbl Mask) :
    OneTeam s (s.retire { t with p := P }) t { t with p := P, pc := t.nextPc, clock := t.clock + 1 } :=
  OneTeam.put s t _ rfl

theorem OneTeam.retireUni (s : State) (t : Team) (S : Tbl QWord) (pc : QWord) :
    OneTeam s (s.retireAt { t with s := S } pc) t { t with s := S, pc := pc, clock := t.clock + 1 } :=
  OneTeam.put s t _ rfl

theorem Team.writeLanes_eq (t : Team) (nw : Bool) (vd : BitVec 6) (tag : Nat) (rs : List (Option Word)) :
    t.writeLanes nw vd tag rs = { t with v := (t.writeLanes nw vd tag rs).v, lat := (t.writeLanes nw vd tag rs).lat } := by
  unfold Team.writeLanes; cases nw <;> rfl

theorem Team.writeLanes64_eq (t : Team) (nw : Bool) (vd : BitVec 6) (tag : Nat) (rs : List (Option QWord)) :
    t.writeLanes64 nw vd tag rs = { t with v := (t.writeLanes64 nw vd tag rs).v, lat := (t.writeLanes64 nw vd tag rs).lat } := by
  unfold Team.writeLanes64; cases nw <;> rfl

theorem Team.setS_eq (t : Team) (r : Nat) (v : QWord) : t.setS r v = { t with s := (t.setS r v).s } := by
  unfold Team.setS; split <;> rfl

/-- The vector registers and latches of a team, as functions of the two fields. -/
theorem Team.vreg_congr {t u : Team} (h : t.v = u.v) (r L : Nat) : t.vreg r L = u.vreg r L := by unfold Team.vreg; rw [h]
theorem Team.vpair_congr {t u : Team} (h : t.v = u.v) (r L : Nat) : t.vpair r L = u.vpair r L := by
  unfold Team.vpair; rw [Team.vreg_congr h, Team.vreg_congr h]
theorem Team.latch_congr {t u : Team} (h : t.lat = u.lat) (k L : Nat) : t.latch k L = u.latch k L := by unfold Team.latch; rw [h]
theorem Team.pred_congr {t u : Team} (h : t.p = u.p) (n L : Nat) : t.pred n L = u.pred n L := by unfold Team.pred; rw [h]
theorem Team.sreg_congr {t u : Team} (h : t.s = u.s) (r : Nat) : t.sreg r = u.sreg r := by unfold Team.sreg; rw [h]

/-- What vd and the other registers hold after the results are written. -/
theorem Team.writeLanes_vreg (t : Team) (nw : Bool) (vd : BitVec 6) (tag : Nat) (rs : List (Option Word)) (L : Nat) (hL : L < t.lanes) :
    (t.writeLanes nw vd tag rs).vreg vd.toNat L = if nw then t.vreg vd.toNat L else (rs.getD L none).getD (t.vreg vd.toNat L) := by
  unfold Team.writeLanes
  cases nw
  · simp only [Bool.false_eq_true, if_false, Team.vreg_pushLatch, Team.vreg_setV _ _ _ _ hL]
  · simp

theorem Team.writeLanes_vreg_ne (t : Team) (nw : Bool) (vd : BitVec 6) (tag : Nat) (rs : List (Option Word)) (r L : Nat)
    (h : r ≠ vd.toNat) : (t.writeLanes nw vd tag rs).vreg r L = t.vreg r L := by
  unfold Team.writeLanes
  cases nw
  · simp [Team.vreg_setV_ne _ _ _ _ _ h]
  · simp

theorem Team.writeLanes_latch (t : Team) (nw : Bool) (vd : BitVec 6) (tag : Nat) (rs : List (Option Word)) (L : Nat) (hL : L < t.lanes) :
    (t.writeLanes nw vd tag rs).latch 0 L = ((rs.getD L none).getD (t.vreg vd.toNat L)).setWidth 64 := by
  unfold Team.writeLanes
  rw [Team.latch_pushLatch_zero _ _ _ _ (by cases nw <;> exact hL)]
  cases nw
  · simp only [Bool.false_eq_true, if_false, Team.vreg_setV _ _ _ _ hL]
    cases rs.getD L none <;> rfl
  · rfl

theorem Team.writeLanes_latch_succ (t : Team) (nw : Bool) (vd : BitVec 6) (tag : Nat) (rs : List (Option Word)) (k L : Nat)
    (hk : k < 3) : (t.writeLanes nw vd tag rs).latch (k + 1) L = t.latch k L := by
  unfold Team.writeLanes
  rw [Team.latch_pushLatch_succ _ _ _ _ _ hk]
  cases nw <;> rfl

theorem Team.writeLanes64_vpair (t : Team) (nw : Bool) (vd : BitVec 6) (tag : Nat) (rs : List (Option QWord)) (L : Nat)
    (hL : L < t.lanes) :
    (t.writeLanes64 nw vd tag rs).vpair vd.toNat L = if nw then t.vpair vd.toNat L else (rs.getD L none).getD (t.vpair vd.toNat L) := by
  unfold Team.writeLanes64
  cases nw
  · simp only [Bool.false_eq_true, if_false, Team.vpair_pushLatch, Team.vpair_setVPair _ _ _ _ hL]
  · simp

theorem Team.writeLanes64_vreg_ne (t : Team) (nw : Bool) (vd : BitVec 6) (tag : Nat) (rs : List (Option QWord)) (r L : Nat)
    (h : r ≠ vd.toNat) (h' : r ≠ vd.toNat + 1) : (t.writeLanes64 nw vd tag rs).vreg r L = t.vreg r L := by
  unfold Team.writeLanes64
  cases nw
  · simp [Team.vreg_setVPair_ne _ _ _ _ _ h h']
  · simp

theorem Team.writeLanes64_latch (t : Team) (nw : Bool) (vd : BitVec 6) (tag : Nat) (rs : List (Option QWord)) (L : Nat)
    (hL : L < t.lanes) : (t.writeLanes64 nw vd tag rs).latch 0 L = (rs.getD L none).getD (t.vpair vd.toNat L) := by
  unfold Team.writeLanes64
  rw [Team.latch_pushLatch_zero _ _ _ _ (by cases nw <;> exact hL)]
  cases nw
  · simp only [Bool.false_eq_true, if_false, Team.vpair_setVPair _ _ _ _ hL]
    cases rs.getD L none <;> simp
  · simp

theorem Team.writeLanes64_latch_succ (t : Team) (nw : Bool) (vd : BitVec 6) (tag : Nat) (rs : List (Option QWord)) (k L : Nat)
    (hk : k < 3) : (t.writeLanes64 nw vd tag rs).latch (k + 1) L = t.latch k L := by
  unfold Team.writeLanes64
  rw [Team.latch_pushLatch_succ _ _ _ _ _ hk]
  cases nw <;> rfl

/-- Everything a lane instruction of a 32-bit result does. -/
theorem laneOp_run {i : Instr} {nw : Bool} {vd : BitVec 6} {pg : Nat} {f : State → Team → Nat → Word}
    (he : ∀ s, exec i s = laneOp i s nw vd pg (f s)) : LaneRun i nw vd pg f := by
  intro s t h hr
  have hres := fun L hL => Team.results_getD t (s.activeLanes t) pg L (f s t) hL
  have hx : exec i s = .next (s.retire (t.writeLanes nw vd 0 (t.results (s.activeLanes t) pg (f s t)))) := by
    rw [he, laneOp, onTeamRegs_next h hr]
  generalize t.results (s.activeLanes t) pg (f s t) = rs at hres hx
  have hone := OneTeam.retireLanes s t (t.writeLanes nw vd 0 rs).v (t.writeLanes nw vd 0 rs).lat
  rw [← Team.writeLanes_eq] at hone
  refine ⟨_, _, hx, hone, rfl, fun L hL => ?_, fun r L hrv => ?_, fun L hL => ?_, fun k L hk => ?_⟩
  · refine (Team.vreg_congr (u := t.writeLanes nw vd 0 rs) rfl _ _).trans ?_
    rw [Team.writeLanes_vreg _ _ _ _ _ _ hL, hres L hL]
    cases nw
    · simp only [Bool.false_eq_true, if_false, true_and]; split <;> rfl
    · simp
  · exact (Team.vreg_congr (u := t.writeLanes nw vd 0 rs) rfl _ _).trans (Team.writeLanes_vreg_ne _ _ _ _ _ _ _ hrv)
  · refine Eq.trans (Team.latch_congr (u := t.writeLanes nw vd 0 rs) (by rfl) 0 L) ?_
    rw [Team.writeLanes_latch _ _ _ _ _ _ hL, hres L hL]
    split <;> rfl
  · exact (Team.latch_congr (u := t.writeLanes nw vd 0 rs) rfl _ _).trans (Team.writeLanes_latch_succ _ _ _ _ _ _ _ hk)

/-- The same values may be said in another way. -/
theorem LaneRun.congr {i : Instr} {nw : Bool} {vd : BitVec 6} {pg : Nat} {f g : State → Team → Nat → Word} (h : LaneRun i nw vd pg f)
    (hfg : ∀ s t L, f s t L = g s t L) : LaneRun i nw vd pg g := by
  have : f = g := by funext s t L; exact hfg s t L
  rwa [← this]

/-- A VR instruction from its meaning, its values said in another way. -/
theorem vrOp_run {c : VR → Instr} {k : ReadAs} {f g : Team → Word → Word → Word → Word}
    (he : ∀ o s, exec (c o) s = vrOp (c o) o k s f) (hfg : ∀ t a b d, f t a b d = g t a b d) : VrRun c k g := fun o =>
  (laneOp_run (f := fun _ t L => f t (t.src k o.sa L) (t.src k o.sb L) (t.vreg o.vd.toNat L)) fun s => he o s).congr
    fun _ _ _ => hfg _ _ _ _

theorem vuOp_run {c : VU → Instr} {k : ReadAs} {f g : Team → Word → Word}
    (he : ∀ o s, exec (c o) s = vuOp (c o) o k s f) (hfg : ∀ t a, f t a = g t a) : VuRun c k g := fun o =>
  (laneOp_run (f := fun _ t L => f t (t.src k o.sa L)) fun s => he o s).congr fun _ _ _ => hfg _ _

theorem viOp_run {c : VI → Instr} {f : VI → Word → Word} {g : Word → BitVec 10 → Word}
    (he : ∀ o s, exec (c o) s = viOp (c o) o s (f o)) (hfg : ∀ o a, f o a = g a o.imm) : ViRun c g := fun o =>
  (laneOp_run (f := fun _ t L => f o (t.src .int o.sa L)) fun s => he o s).congr fun _ _ _ => hfg _ _

/-- Everything a lane instruction on pairs does. -/
theorem vr64Op_run {i : Instr} {o : VR} {f : QWord → QWord → QWord} (he : ∀ s, exec i s = vr64Op i o s f) :
    PairRun i o.nw o.vd o.pg.toNat (fun _ t L => f (t.src64 o.sa L) (t.src64 o.sb L)) := by
  intro s t h hr
  generalize hg : (fun L => f (t.src64 o.sa L) (t.src64 o.sb L)) = g
  have hgL : ∀ L, f (t.src64 o.sa L) (t.src64 o.sb L) = g L := fun L => congrFun hg L
  have hres := fun L hL => Team.results_getD t (s.activeLanes t) o.pg.toNat L g hL
  have hx : exec i s = .next (s.retire (t.writeLanes64 o.nw o.vd 0 (t.results (s.activeLanes t) o.pg.toNat g))) := by
    rw [he, vr64Op, onTeamRegs_next h hr, hg]
  generalize t.results (s.activeLanes t) o.pg.toNat g = rs at hres hx
  have hone := OneTeam.retireLanes s t (t.writeLanes64 o.nw o.vd 0 rs).v (t.writeLanes64 o.nw o.vd 0 rs).lat
  rw [← Team.writeLanes64_eq] at hone
  refine ⟨_, _, hx, hone, rfl, fun L hL => ?_, fun r L hr hr' => ?_, fun L hL => ?_, fun k L hk => ?_⟩
  · refine (Team.vpair_congr (u := t.writeLanes64 o.nw o.vd 0 rs) rfl _ _).trans ?_
    rw [Team.writeLanes64_vpair _ _ _ _ _ _ hL, hres L hL]
    simp only [hgL]
    cases o.nw
    · simp only [Bool.false_eq_true, if_false, true_and]; split <;> simp
    · simp
  · exact (Team.vreg_congr (u := t.writeLanes64 o.nw o.vd 0 rs) rfl _ _).trans (Team.writeLanes64_vreg_ne _ _ _ _ _ _ _ hr hr')
  · refine Eq.trans (Team.latch_congr (u := t.writeLanes64 o.nw o.vd 0 rs) (by rfl) 0 L) ?_
    rw [Team.writeLanes64_latch _ _ _ _ _ _ hL, hres L hL]
    simp only [hgL]
    split <;> simp
  · exact (Team.latch_congr (u := t.writeLanes64 o.nw o.vd 0 rs) rfl _ _).trans (Team.writeLanes64_latch_succ _ _ _ _ _ _ _ hk)

/-- The predicates a list of writes leaves: each written one holds its new mask. -/
theorem Team.foldl_setPred (pds : List Nat) (u : Team) (m : Nat → Mask) (k L : Nat) :
    (pds.foldl (fun u pd => Team.setPred u pd (m pd)) u).pred k L = if k ∈ pds ∧ k ≠ 0 then (m k).getLsbD L else u.pred k L := by
  induction pds generalizing u with
  | nil => simp
  | cons d r ih =>
    rw [List.foldl_cons, ih, Team.pred_setPred]
    by_cases h1 : k ∈ r <;> by_cases h2 : k = d <;> by_cases h3 : k = 0 <;> simp_all

theorem Team.foldl_setPred_eq (pds : List Nat) (u : Team) (m : Nat → Mask) :
    pds.foldl (fun u pd => Team.setPred u pd (m pd)) u = { u with p := (pds.foldl (fun u pd => Team.setPred u pd (m pd)) u).p } := by
  induction pds generalizing u with
  | nil => rfl
  | cons d r ih =>
    rw [List.foldl_cons, ih]
    unfold Team.setPred
    split <;> rfl

theorem natOfBits_lt (n : Nat) (f : Nat → Bool) : natOfBits f n < 2 ^ n := by
  induction n with
  | zero => simp [natOfBits]
  | succ n ih =>
    simp only [natOfBits, Nat.pow_succ]
    split <;> omega

theorem natOfBits_testBit (n : Nat) (f : Nat → Bool) (i : Nat) : (natOfBits f n).testBit i = (decide (i < n) && f i) := by
  induction n with
  | zero => simp [natOfBits]
  | succ n ih =>
    have hlt := natOfBits_lt n f
    by_cases hi : i = n
    · subst hi
      have h0 : (natOfBits f i).testBit i = false := Nat.testBit_lt_two_pow hlt
      simp only [natOfBits]
      cases hf : f i
      · simp [h0]
      · rw [if_pos rfl, Nat.add_comm, Nat.testBit_two_pow_add_eq, h0]; simp
    · simp only [natOfBits]
      have hd : decide (i < n + 1) = decide (i < n) := by
        by_cases h : i < n
        · simp [h, Nat.lt_succ_of_lt h]
        · have : ¬ i < n + 1 := by omega
          simp [h, this]
      cases hf : f n
      · rw [hd]; simpa using ih
      · rw [if_pos rfl, Nat.add_comm, hd, ← ih]
        by_cases h : i < n
        · exact Nat.testBit_two_pow_add_gt h _
        · have h1 : n < i := by omega
          have h2 : 2 ^ n + natOfBits f n < 2 ^ i := by
            have : 2 ^ (n + 1) ≤ 2 ^ i := Nat.pow_le_pow_right (by omega) h1
            rw [Nat.pow_succ] at this
            omega
          rw [Nat.testBit_lt_two_pow h2, Nat.testBit_lt_two_pow (Nat.lt_of_le_of_lt (Nat.le_add_left _ _) h2)]

/-- A mask made lane by lane. -/
theorem maskOf_getLsbD (n : Nat) (f : Nat → Bool) (L : Nat) : (maskOf n f).getLsbD L = (decide (L < 1024) && (decide (L < n) && f L)) := by
  simp only [maskOf, BitVec.getLsbD_ofNat, natOfBits_testBit]

/-- Everything an instruction that writes predicates does. -/
theorem predOp_run {i : Instr} {pds : List Nat} {pg : Nat} {f : Team → Nat → Nat → Bool}
    (he : ∀ s, exec i s = predOp i s pds pg f) : PredRun i pds pg f := by
  intro s t h hr
  generalize hm : (fun pd => maskOf t.lanes fun L => if (s.activeLanes t).getLsbD L && t.pred pg L then f t pd L else t.pred pd L) = m
  have hx : exec i s = .next (s.retire (pds.foldl (fun u pd => Team.setPred u pd (m pd)) t)) := by
    rw [he, predOp, onTeamRegs_next h hr, ← hm]
  have hone := OneTeam.retirePreds s t (pds.foldl (fun u pd => Team.setPred u pd (m pd)) t).p
  rw [← Team.foldl_setPred_eq] at hone
  have hp := fun n L => Team.foldl_setPred pds t m n L
  refine ⟨_, _, hx, hone, rfl, fun n L hL hL' hn h0 => ?_, fun n L hn => ?_⟩
  · refine (Team.pred_congr (u := pds.foldl (fun u pd => Team.setPred u pd (m pd)) t) rfl _ _).trans ?_
    rw [hp, if_pos ⟨hn, h0⟩, ← hm, maskOf_getLsbD]
    simp [hL, hL', Acts]
  · refine (Team.pred_congr (u := pds.foldl (fun u pd => Team.setPred u pd (m pd)) t) rfl _ _).trans ?_
    rw [hp, if_neg (by tauto)]

/-- The same of an instruction that names no vector register. -/
theorem Team.nextPc_congr {t u : Team} (h : t.pc = u.pc) : t.nextPc = u.nextPc := by unfold Team.nextPc; rw [h]

/-- Everything an instruction that writes a uniform register and goes on at pc does. -/
theorem uniTo_run {i : Instr} {sd : BitVec 6} {val pc : Team → QWord}
    (he : ∀ s t, Runs s t → i.highReg t.regs = none → exec i s = .next (s.retireAt (t.ws sd (val t)) (pc t))) : UniRun i sd val pc := by
  intro s t h hr
  have hx := he s t h hr
  have hone := OneTeam.retireUni s t (t.setS sd.toNat (val t)).s (pc t)
  rw [← Team.setS_eq] at hone
  refine ⟨_, _, hx, hone, rfl, fun r => ?_⟩
  exact (Team.sreg_congr (u := t.setS sd.toNat (val t)) rfl _).trans (Team.sreg_setS t sd.toNat r (val t))

theorem uniOp_run {i : Instr} {sd : BitVec 6} {val : Team → QWord} (he : ∀ s, exec i s = uniOp s sd val) :
    UniRun i sd val Team.nextPc :=
  uniTo_run fun s t h _ => by
    rw [he, uniOp, onTeam_next h, State.retire, Team.nextPc_congr (t := t.ws sd (val t)) (u := t) (by unfold Team.ws; simp)]

theorem srOp_run {c : SR → Instr} {f g : QWord → QWord → QWord} (he : ∀ o s, exec (c o) s = srOp o s f)
    (hfg : ∀ a b, f a b = g a b) : SrRun c g := fun o => by
  have : f = g := by funext a b; exact hfg a b
  exact uniOp_run fun s => by rw [he, srOp, this]

theorem siOp_run {c : SI → Instr} {f : SI → QWord → QWord} {g : QWord → BitVec 12 → QWord} (he : ∀ o s, exec (c o) s = siOp o s (f o))
    (hfg : ∀ o a, f o a = g a o.imm) : SiRun c g := fun o => by
  exact uniOp_run fun s => by rw [he, siOp]; simp only [hfg]

end Sys2Proof.Machine
end

