-- ==== Sys2Proof/Laws/Access.lean ====
section
/-! SUPPORT. Everything that a vector access, an access of the team and a counter operation do at their issue. -/

namespace Sys2Proof.Machine

/-! ## What Fennel notes -/

/-- Noting granules changes the granules alone. -/
theorem State.noteGrans_eq (s : State) (vf : Nat) (acc : List LaneAcc) :
    s.noteGrans vf acc = { s with grans := (s.noteGrans vf acc).grans } := by
  unfold State.noteGrans
  simp only
  generalize (acc.flatMap fun a => if a.space = .global then a.pieces.map (fun q => (q.loc / 65536, a.repl, a.obj)) else []).eraseDups = gs
  generalize ((s.part? vf).map fun p => p.dies.length).getD 1 = p
  induction gs using List.reverseRecOn with
  | nil => rfl
  | append_singleton r x ih =>
    rw [List.foldl_append]
    simp only [List.foldl_cons, List.foldl_nil]
    split
    · exact ih
    · rw [ih]; rfl

/-! ## Entering -/

theorem numbered_eq {α : Type} (n : Nat) (l : List α) : numbered n l = l.zipIdx.map fun e => (n + e.2, e.1) := by
  unfold numbered
  apply List.ext_getElem <;> simp

theorem State.enterLoads_eq (s : State) (t : Team) (pol : Nat) (acc : List LaneAcc) (dest : LaneAcc → Dest) :
    s.enterLoads t pol acc dest
      = ({ s with nextId := (s.enterLoads t pol acc dest).1.nextId }, { t with tq := t.tq ++ loadEntries s t pol dest acc }) := by
  unfold State.enterLoads loadEntries
  simp only [numbered_eq, List.map_map, polAcq]
  congr 3
  apply List.map_congr_left
  intro e _
  simp [Bool.decide_or, beq_eq_decide]

theorem State.enterStores_eq (s : State) (t : Team) (pol : Nat) (acc : List LaneAcc) (val : Nat → QWord) :
    s.enterStores t pol acc val
      = ({ s with nextId := (s.enterStores t pol acc val).1.nextId }, { t with sq := t.sq ++ storeEntries s t pol val acc }) := by
  unfold State.enterStores storeEntries
  simp only [numbered_eq, List.map_map]
  rfl

theorem State.enterAtomics_eq (s : State) (t : Team) (pol : Nat) (acc : List LaneAcc) (op : Nat → SqOp) (returns : Bool)
    (dest : LaneAcc → Dest) :
    s.enterAtomics t pol acc op returns dest
      = ({ s with nextId := (s.enterAtomics t pol acc op returns dest).1.nextId },
         { t with sq := t.sq ++ atomEntries s t pol op returns dest acc }) := by
  unfold State.enterAtomics atomEntries
  simp only [numbered_eq, List.map_map, polAcq]
  congr 3
  apply List.map_congr_left
  intro e _
  simp [Bool.decide_or, beq_eq_decide]

theorem loadEntries_grans (s : State) (t : Team) (g : Tbl Gran) (pol : Nat) (dest : LaneAcc → Dest) (acc : List LaneAcc) :
    loadEntries { s with grans := g } t pol dest acc = loadEntries s t pol dest acc := rfl

theorem storeEntries_grans (s : State) (t : Team) (g : Tbl Gran) (pol : Nat) (val : Nat → QWord) (acc : List LaneAcc) :
    storeEntries { s with grans := g } t pol val acc = storeEntries s t pol val acc := rfl

theorem atomEntries_grans (s : State) (t : Team) (g : Tbl Gran) (pol : Nat) (op : Nat → SqOp) (returns : Bool) (dest : LaneAcc → Dest)
    (acc : List LaneAcc) : atomEntries { s with grans := g } t pol op returns dest acc = atomEntries s t pol op returns dest acc := rfl

theorem State.laneCount_grans (s : State) (t : Team) (g : Tbl Gran) : ({ s with grans := g } : State).laneCount t = s.laneCount t := rfl

/-- Entering after the granules were noted. -/
theorem State.enterLoads_at (s : State) (t : Team) (g : Tbl Gran) (pol : Nat) (acc : List LaneAcc) (dest : LaneAcc → Dest) :
    ∃ n, ({ s with grans := g } : State).enterLoads t pol acc dest
      = ({ s with nextId := n, grans := g }, { t with tq := t.tq ++ loadEntries s t pol dest acc, sq := t.sq ++ [] }) :=
  ⟨_, (State.enterLoads_eq _ _ _ _ _).trans (by rw [List.append_nil, loadEntries_grans])⟩

theorem State.enterStores_at (s : State) (t : Team) (g : Tbl Gran) (pol : Nat) (acc : List LaneAcc) (val : Nat → QWord) :
    ∃ n, ({ s with grans := g } : State).enterStores t pol acc val
      = ({ s with nextId := n, grans := g }, { t with tq := t.tq ++ [], sq := t.sq ++ storeEntries s t pol val acc }) :=
  ⟨_, (State.enterStores_eq _ _ _ _ _).trans (by rw [List.append_nil, storeEntries_grans])⟩

theorem State.enterAtomics_at (s : State) (t : Team) (g : Tbl Gran) (pol : Nat) (acc : List LaneAcc) (op : Nat → SqOp) (returns : Bool)
    (dest : LaneAcc → Dest) :
    ∃ n, ({ s with grans := g } : State).enterAtomics t pol acc op returns dest
      = ({ s with nextId := n, grans := g }, { t with tq := t.tq ++ [], sq := t.sq ++ atomEntries s t pol op returns dest acc }) :=
  ⟨_, (State.enterAtomics_eq _ _ _ _ _ _ _).trans (by rw [List.append_nil, atomEntries_grans])⟩

/-! ## Faults of a list -/

theorem lowestFault_nil : lowestFault [] = none := rfl

theorem filterMap_err_nil (acc : List LaneAcc) (h : ∀ a ∈ acc, a.err = none) : acc.filterMap LaneAcc.err = [] := by
  rw [List.filterMap_eq_nil_iff]
  exact h

theorem filter_good (acc : List LaneAcc) (h : ∀ a ∈ acc, a.err = none) : (acc.filter fun a => a.err.isNone) = acc := by
  rw [List.filter_eq_self]
  intro a ha
  simp [h a ha]

theorem filter_bad (acc : List LaneAcc) (h : ∀ a ∈ acc, a.err = none) : (acc.filter fun a => a.err.isSome) = [] := by
  rw [List.filter_eq_nil_iff]
  intro a ha
  simp [h a ha]

/-! ## The shared operations -/

/-- A vector access whose policy word and lanes pass every check retires: its accesses enter the team's queues behind those there,
and registers, predicates, flags, memory and other teams are as before; one that returns a value makes a latch entry, which holds vt
as it stands until the values come (R16, R184, R233). -/
def VecEnters (i : Instr) (kind : AccKind) (sp : Space) (need : Need) (so : Src) (sbase : BitVec 6) (spol size align : Nat)
    (latch : Option (BitVec 6)) (tq : State → Team → List LaneAcc → List TqEntry) (sq : State → Team → List LaneAcc → List SqEntry) :
    Prop :=
  ∀ (s : State) (t : Team), Runs s t → i.highReg t.regs = none → policyFault kind (t.policy spol) spol = none →
    (∀ a ∈ s.laneAccs t sp need so sbase size align, a.err = none) →
    ∃ s' t', exec i s = .next s' ∧ Issued s s' t t'
      ∧ t' = { t with
          tq := t.tq ++ tq s t (s.laneAccs t sp need so sbase size align)
          sq := t.sq ++ sq s t (s.laneAccs t sp need so sbase size align)
          lat := t'.lat, pc := t.nextPc, clock := t.clock + 1 }
      ∧ (latch = none → t'.lat = t.lat)
      ∧ (∀ vt, latch = some vt →
          (∀ L, L < t.lanes → t'.latch 0 L = if size = 8 then t.vpair vt.toNat L else (t.vreg vt.toNat L).setWidth 64)
          ∧ ∀ k L, k < 3 → t'.latch (k + 1) L = t.latch k L)

/-- An access of the whole team whose policy word and address pass every check retires: it enters the team's queues (R238, R241). -/
def TeamAccEnters (i : Instr) (kind : AccKind) (sp : Space) (need : Need) (base : Team → QWord) (off : Team → Nat) (spol size align : Nat)
    (tq : State → Team → List LaneAcc → List TqEntry) (sq : State → Team → List LaneAcc → List SqEntry) : Prop :=
  ∀ (s : State) (t : Team), Runs s t → policyFault kind (t.policy spol) spol = none →
    (s.access t sp need (base t) (off t) size align 2 0).err = none →
    ∃ s' t', exec i s = .next s' ∧ Issued s s' t t'
      ∧ t' = { t with
          tq := t.tq ++ tq s t [s.access t sp need (base t) (off t) size align 2 0]
          sq := t.sq ++ sq s t [s.access t sp need (base t) (off t) size align 2 0]
          pc := t.nextPc, clock := t.clock + 1 }

/-- A counter operation whose policy word, address and amount pass enters the store queue (R242, R243). -/
def CounterEnters (i : Instr) (sbase : BitVec 6) (spol : Nat) (n : Team → Nat) (fixed : Bool) (dest : Dest) (op : Nat → CtrOp) : Prop :=
  ∀ (s : State) (t : Team), Runs s t → policyFault .atomic (t.policy spol) spol = none →
    (s.access t .global .counter (t.rs sbase) 0 8 8 2 0).err = none → n t < 2 ^ 63 →
    ∃ s' t', exec i s = .next s' ∧ Issued s s' t t'
      ∧ t' = { t with
          sq := t.sq ++ atomEntries s t (if fixed then 3 * 2 ^ 28 + 4 * 2 ^ 25 else t.policy spol)
            (fun _ => .ctr ((s.asidOf t * 2 ^ 24 + hObj (t.rs sbase)) * 2 ^ 37 + hOff (t.rs sbase) / 8) (op (n t)))
            (dest != .none) (fun _ => dest) [s.access t .global .counter (t.rs sbase) 0 8 8 2 0]
          pc := t.nextPc, clock := t.clock + 1 }

/-- A team put back after its accesses entered. -/
theorem Issued.put (s : State) (t t' : Team) (n : Nat) (g : Tbl Gran) (h : t'.tk = t.tk) :
    Issued s (({ s with nextId := n, grans := g } : State).putTeam t') t t' where
  rest := rfl
  self := by rw [← h]; exact State.team?_putTeam_self _ t'
  others := fun k hk => by
    have := State.team?_putTeam_ne ({ s with nextId := n, grans := g } : State) t' k (by rw [h]; exact hk)
    exact this
  bytes := fun _ => rfl

theorem Issued.retire (s : State) (t : Team) (n : Nat) (g : Tbl Gran) (Q : List TqEntry) (S : List SqEntry) (A : List Latch) :
    Issued s (({ s with nextId := n, grans := g } : State).retire { t with tq := Q, sq := S, lat := A }) t
      { t with tq := Q, sq := S, lat := A, pc := t.nextPc, clock := t.clock + 1 } :=
  Issued.put s t _ n g rfl

/-- A vector access whose policy word fails faults, whatever its lanes. -/
theorem vecAccess_policy {i : Instr} {s : State} {t : Team} {kind : AccKind} {sp : Space} {need : Need} {so : Src} {sbase : BitVec 6}
    {spol size align : Nat} {latch : Option (BitVec 6)} {enter : State → Team → Nat → List LaneAcc → State × Team} {f : FInfo}
    (h : Runs s t) (hr : i.highReg t.regs = none) (hp : policyFault kind (t.policy spol) spol = some f) :
    vecAccess i s kind sp need so sbase spol size align latch enter = .next (s.fault t f) := by
  rw [vecAccess, onTeamRegs_next h hr]
  simp only [hp]

/-- Everything a vector access does when its policy word and all its lanes pass. -/
theorem vecAccess_enters {i : Instr} {kind : AccKind} {sp : Space} {need : Need} {so : Src} {sbase : BitVec 6} {spol size align : Nat}
    {latch : Option (BitVec 6)} {enter : State → State → Team → Nat → List LaneAcc → State × Team}
    {tq : State → Team → List LaneAcc → List TqEntry} {sq : State → Team → List LaneAcc → List SqEntry}
    (he : ∀ s, exec i s = vecAccess i s kind sp need so sbase spol size align latch (enter s))
    (hen : ∀ s t g acc, ∃ n, enter s { s with grans := g } t (t.policy spol) acc
      = ({ s with nextId := n, grans := g }, { t with tq := t.tq ++ tq s t acc, sq := t.sq ++ sq s t acc })) :
    VecEnters i kind sp need so sbase spol size align latch tq sq := by
  intro s t h hr hp hacc
  have hacc' : ∀ a ∈ (lanesOf t.lanes (s.activeLanes t)).map (fun L => s.access t sp need (t.rs sbase) (t.src .int so L).toNat size align 1 L),
      a.err = none := hacc
  obtain ⟨n, hn⟩ := hen s t (s.noteGrans t.vf (s.laneAccs t sp need so sbase size align)).grans (s.laneAccs t sp need so sbase size align)
  rw [← State.noteGrans_eq] at hn
  have hx : exec i s = .next (match latch with
      | some vt => (enter s (s.noteGrans t.vf (s.laneAccs t sp need so sbase size align)) t (t.policy spol)
            (s.laneAccs t sp need so sbase size align)).1.retire
          ((enter s (s.noteGrans t.vf (s.laneAccs t sp need so sbase size align)) t (t.policy spol)
            (s.laneAccs t sp need so sbase size align)).2.pushLatch s.nextId fun L =>
            if size = 8 then (enter s (s.noteGrans t.vf (s.laneAccs t sp need so sbase size align)) t (t.policy spol)
              (s.laneAccs t sp need so sbase size align)).2.vpair vt.toNat L
            else ((enter s (s.noteGrans t.vf (s.laneAccs t sp need so sbase size align)) t (t.policy spol)
              (s.laneAccs t sp need so sbase size align)).2.vreg vt.toNat L).setWidth 64)
      | none => (enter s (s.noteGrans t.vf (s.laneAccs t sp need so sbase size align)) t (t.policy spol)
            (s.laneAccs t sp need so sbase size align)).1.retire
          (enter s (s.noteGrans t.vf (s.laneAccs t sp need so sbase size align)) t (t.policy spol)
            (s.laneAccs t sp need so sbase size align)).2) := by
    rw [he, vecAccess, onTeamRegs_next h hr]
    simp only [hp, filterMap_err_nil _ hacc', List.filter_nil, lowestFault_nil, filter_good _ hacc', filter_bad _ hacc',
      List.filterMap_nil]
    cases latch <;> rfl
  rw [hn] at hx
  generalize (s.laneAccs t sp need so sbase size align) = acc at hx hn
  generalize (s.noteGrans t.vf acc).grans = g at hx
  cases latch with
  | none => exact ⟨_, _, hx, Issued.retire s t n g _ _ t.lat, rfl, fun _ => rfl, fun vt h => absurd h (by simp)⟩
  | some vt =>
    simp only at hx
    generalize hF : (fun L => if size = 8 then Team.vpair { t with tq := t.tq ++ tq s t acc, sq := t.sq ++ sq s t acc } vt.toNat L
      else (Team.vreg { t with tq := t.tq ++ tq s t acc, sq := t.sq ++ sq s t acc } vt.toNat L).setWidth 64) = F at hx
    have hFL : ∀ L, F L = if size = 8 then t.vpair vt.toNat L else (t.vreg vt.toNat L).setWidth 64 := by
      intro L
      rw [← hF]
      exact ite_congr rfl (fun _ => Team.vpair_congr rfl _ _) (fun _ => congrArg _ (Team.vreg_congr rfl _ _))
    refine ⟨_, _, hx, Issued.retire s t n g _ _ (t.pushLatch s.nextId F).lat, rfl, fun h => absurd h (by simp), fun vt' hv => ?_⟩
    obtain rfl := Option.some.inj hv
    refine ⟨fun L hL => ?_, fun k L hk => ?_⟩
    · rw [← hFL]
      exact Eq.trans (Team.latch_congr (u := t.pushLatch s.nextId F) (by rfl) 0 L) (Team.latch_pushLatch_zero _ _ _ _ hL)
    · exact Eq.trans (Team.latch_congr (u := t.pushLatch s.nextId F) (by rfl) (k + 1) L) (Team.latch_pushLatch_succ _ _ _ _ _ hk)

/-- A vector load. -/
theorem vecLoad_enters {c : VM → Instr} {sp : Space} (he : ∀ o s, exec (c o) s = vecLoad (c o) o sp s) (o : VM) :
    VecEnters (c o) .load sp .load o.so o.sbase o.spol.toNat (sizeBytes o.size) 0 (some o.vt)
      (fun s t acc => loadEntries s t (t.policy o.spol.toNat)
        (fun a => .vec o.vt.toNat a.lane (sizeBytes o.size) s.nextId (s.laneCount t)) acc) fun _ _ _ => [] :=
  vecAccess_enters (enter := fun _ s' t pol acc => s'.enterLoads t pol acc fun a =>
      .vec o.vt.toNat a.lane (sizeBytes o.size) s'.nextId (s'.laneCount t)) (fun s => he o s) fun _ t g acc => State.enterLoads_at _ t g _ acc _

/-- A vector store. -/
theorem vecStore_enters {c : VM → Instr} {sp : Space} (he : ∀ o s, exec (c o) s = vecStore (c o) o sp s) (o : VM) :
    VecEnters (c o) .store sp .store o.so o.sbase o.spol.toNat (sizeBytes o.size) 0 none (fun _ _ _ => [])
      fun s t acc => storeEntries s t (t.policy o.spol.toNat)
        (fun L => if o.size = .b8 then t.vpair o.vt.toNat L else (t.vreg o.vt.toNat L).setWidth 64) acc :=
  vecAccess_enters (enter := fun _ s' t pol acc => s'.enterStores t pol acc fun L =>
      if o.size = .b8 then t.vpair o.vt.toNat L else (t.vreg o.vt.toNat L).setWidth 64) (fun s => he o s) fun _ t g acc => State.enterStores_at _ t g _ acc _

/-- Everything an access of the team does when its policy word and its address pass. -/
theorem uniAccess_enters {i : Instr} {kind : AccKind} {sp : Space} {need : Need} {base : Team → QWord} {off : Team → Nat}
    {spol size align : Nat} {enter : State → Team → Nat → List LaneAcc → State × Team}
    {tq : State → Team → List LaneAcc → List TqEntry} {sq : State → Team → List LaneAcc → List SqEntry}
    (he : ∀ s, exec i s = uniAccess s kind sp need base off spol size align enter)
    (hen : ∀ s t g acc, ∃ n, enter { s with grans := g } t (t.policy spol) acc
      = ({ s with nextId := n, grans := g }, { t with tq := t.tq ++ tq s t acc, sq := t.sq ++ sq s t acc })) :
    TeamAccEnters i kind sp need base off spol size align tq sq := by
  intro s t h hp hacc
  obtain ⟨n, hn⟩ := hen s t (s.noteGrans t.vf [s.access t sp need (base t) (off t) size align 2 0]).grans
    [s.access t sp need (base t) (off t) size align 2 0]
  rw [← State.noteGrans_eq] at hn
  have hx : exec i s = .next ((enter (s.noteGrans t.vf [s.access t sp need (base t) (off t) size align 2 0]) t (t.policy spol)
      [s.access t sp need (base t) (off t) size align 2 0]).1.retire
      (enter (s.noteGrans t.vf [s.access t sp need (base t) (off t) size align 2 0]) t (t.policy spol)
      [s.access t sp need (base t) (off t) size align 2 0]).2) := by
    rw [he, uniAccess, onTeam_next h]
    simp only [hp, hacc]
  rw [hn] at hx
  exact ⟨_, _, hx, Issued.retire s t n _ _ _ t.lat, rfl⟩

theorem mkHandle_self (h : QWord) : mkHandle (hObj h) (hOff h) = h := by
  apply BitVec.eq_of_toNat_eq
  unfold hObj hOff fld mkHandle
  rw [BitVec.toNat_ofNat]
  have := h.isLt
  norm_num at this ⊢
  omega

/-- An access of a global address names its object and its address. -/
theorem State.access_global_names (s : State) (t : Team) (need : Need) (base : QWord) (size align adet lane : Nat) :
    (s.access t .global need base 0 size align adet lane).obj = s.asidOf t * 2 ^ 24 + hObj base
      ∧ (s.access t .global need base 0 size align adet lane).addr = base := by
  have h := mkHandle_self base
  rw [← Nat.add_zero (hOff base)] at h
  exact ⟨congrArg (fun y => s.asidOf t * 2 ^ 24 + hObj y) h, h⟩

/-- Everything a counter operation does at its issue when it passes. -/
theorem ctrOp_enters {i : Instr} {sbase : BitVec 6} {spol : Nat} {n : Team → Nat} {fixed : Bool} {dest : Dest} {op : Nat → CtrOp}
    (he : ∀ s, exec i s = ctrOp s sbase spol n fixed dest op) : CounterEnters i sbase spol n fixed dest op := by
  intro s t h hp hacc hn
  obtain ⟨hobj, hoff⟩ := State.access_global_names s t .counter (t.rs sbase) 8 8 2 0
  generalize ha : s.access t .global .counter (t.rs sbase) 0 8 8 2 0 = a at hacc hobj hoff
  have hx : exec i s = .next (((s.noteGrans t.vf [a]).enterAtomics t (if fixed then 3 * 2 ^ 28 + 4 * 2 ^ 25 else t.policy spol) [a]
      (fun _ => .ctr ((s.asidOf t * 2 ^ 24 + hObj (t.rs sbase)) * 2 ^ 37 + hOff (t.rs sbase) / 8) (op (n t))) (dest != .none)
        fun _ => dest).1.retire
      ((s.noteGrans t.vf [a]).enterAtomics t (if fixed then 3 * 2 ^ 28 + 4 * 2 ^ 25 else t.policy spol) [a]
      (fun _ => .ctr ((s.asidOf t * 2 ^ 24 + hObj (t.rs sbase)) * 2 ^ 37 + hOff (t.rs sbase) / 8) (op (n t))) (dest != .none)
        fun _ => dest).2) := by
    rw [he, ctrOp, onTeam_next h]
    simp only []
    rw [if_neg (Nat.not_le.mpr hn), ha, hp, hacc, hobj, hoff]
  generalize (if fixed then 3 * 2 ^ 28 + 4 * 2 ^ 25 else t.policy spol) = pol at hx ⊢
  generalize (fun _ : Nat => SqOp.ctr ((s.asidOf t * 2 ^ 24 + hObj (t.rs sbase)) * 2 ^ 37 + hOff (t.rs sbase) / 8) (op (n t))) = w at hx ⊢
  generalize (dest != .none) = r at hx ⊢
  obtain ⟨k, hk⟩ := State.enterAtomics_at s t (s.noteGrans t.vf [a]).grans pol [a] w r fun _ => dest
  rw [← State.noteGrans_eq] at hk
  rw [hk] at hx
  generalize (s.noteGrans t.vf [a]).grans = g at hx
  generalize atomEntries s t pol w r (fun _ => dest) [a] = es at hx ⊢
  simp only [List.append_nil] at hx
  exact ⟨_, _, hx, Issued.retire s t k g _ _ t.lat, rfl⟩

end Sys2Proof.Machine
end

