-- ==== Sys2Proof/Tests/Slice0.lean ====
section
/-! SUPPORT. Tests: words of the spec decode, ill-formed terms are refused, one small step per instruction with the result that
the spec gives, and states that meet the hypotheses of the statements. Results come from the spec's worked examples and tables, or
from its rules by hand; the rules are named at each group. -/

namespace Sys2Proof.Tests

open Sys2Proof.Machine

set_option maxRecDepth 4000
set_option Elab.async false

/-! ## Words that the spec writes out -/

theorem test_decode_vmul : decodeWord 0x02900410#32 = .ok (.vmul ⟨true, 8, .v 1, .v 2, 0⟩) := by decide +kernel
theorem test_decode_vadd_latch : decodeWord 0x00130018#32 = .ok (.vadd ⟨false, 9, .b 0, .v 3, 0⟩) := by decide +kernel
theorem test_decode_vadd_const : decodeWord 0x00091340#32 = .ok (.vadd ⟨false, 4, .lane, .const 8, 0⟩) := by decide +kernel
theorem test_decode_vsub : decodeWord 0x0109C020#32 = .ok (.vsub ⟨false, 4, .const 16, .v 4, 0⟩) := by decide +kernel
theorem test_decode_brv : decodeWord 0xAF040003#32 = .ok (.brv ⟨1, 3⟩) := by decide +kernel
theorem test_decode_rjoin : decodeWord 0xB0000000#32 = .ok .rjoin := by decide +kernel
theorem test_decode_rpush : decodeWord 0xAE000007#32 = .ok (.rpush ⟨7⟩) := by decide +kernel
theorem test_decode_sldi : decodeWord 0x9604020F#32 = .ok (.sldi ⟨1, 0x20F⟩) := by decide +kernel
theorem test_decode_sldu : decodeWord 0x9707FC00#32 = .ok (.sldu ⟨1, 0x3FC00⟩) := by decide +kernel
theorem test_decode_vshli : decodeWord 0x5C051002#32 = .ok (.vshli ⟨false, 2, .lane, 2⟩) := by decide +kernel
theorem test_decode_ldg : decodeWord 0x680C1091#32 = .ok (.ldg ⟨3, .v 2, 4, .b4, 1⟩) := by decide +kernel
theorem test_decode_stg : decodeWord 0x690C10B1#32 = .ok (.stg ⟨3, .v 2, 5, .b4, 1⟩) := by decide +kernel
theorem test_decode_saddi : decodeWord 0x900C3FFF#32 = .ok (.saddi ⟨3, 3, 0xFFF⟩) := by decide +kernel
theorem test_decode_vcmp : decodeWord 0x20141380#32 = .ok (.vcmp ⟨1, .lt, .v 4, .const 16, 0⟩) := by decide +kernel
theorem test_decode_scmp : decodeWord 0x8C1461C6#32 = .ok (.scmp ⟨5, 6, 7, .ltn⟩) := by decide +kernel
theorem test_decode_hmake : decodeWord 0x981020C0#32 = .ok (.hmake ⟨4, 2, 3⟩) := by decide +kernel
theorem test_decode_vsub_latch : decodeWord 0x01150208#32 = .ok (.vsub ⟨false, 10, .b 0, .b 1, 0⟩) := by decide +kernel
theorem test_decode_qscale : decodeWord 0x4A0C1789#32 = .ok (.qscale ⟨false, 6, .v 5, .const 17, .e4m3⟩) := by decide +kernel
theorem test_decode_cvtsc_q : decodeWord 0x410E1601#32 = .ok (.cvtscQ ⟨false, 7, .v 5, .b 0, .e4m3⟩) := by decide +kernel
theorem test_decode_cvtsc_d : decodeWord 0x41101C35#32 = .ok (.cvtscD ⟨false, 8, .v 7, .v 6, .e4m3⟩) := by decide +kernel
theorem test_decode_vldi : decodeWord 0x5F0702A0#32 = .ok (.vldi ⟨false, 3, .b 0, 0x2A0⟩) := by decide +kernel
theorem test_decode_redfadd : decodeWord 0x9D182000#32 = .ok (.redfadd ⟨6, 2, 0⟩) := by decide +kernel
theorem test_decode_lpush : decodeWord 0xB100000A#32 = .ok (.lpush ⟨10⟩) := by decide +kernel
theorem test_decode_enq : decodeWord 0xC01C3282#32 = .ok (.enq ⟨7, 3, 10, 2⟩) := by decide +kernel
theorem test_decode_waitt : decodeWord 0xE6000003#32 = .ok (.waitt ⟨0, false, 3⟩) := by decide +kernel
theorem test_decode_ldc : decodeWord 0x621810FA#32 = .ok (.ldc ⟨6, .v 2, 7, .b8, 2⟩) := by decide +kernel
theorem test_decode_stl : decodeWord 0x61162000#32 = .ok (.stl ⟨5, .lane, 0, .b1, 0⟩) := by decide +kernel
theorem test_decode_sldg : decodeWord 0xC8144181#32 = .ok (.sldg ⟨5, 4, 6, 1⟩) := by decide +kernel
theorem test_decode_atomg : decodeWord 0x6A241083#32 = .ok (.atomg ⟨9, .v 2, 4, .add, 3⟩) := by decide +kernel
theorem test_decode_baraw : decodeWord 0xE20C0002#32 = .ok (.baraw ⟨3, .cb 2⟩) := by decide +kernel
theorem test_decode_cpy : decodeWord 0xE7105191#32 = .ok (.cpy ⟨4, 5, 6, 2, 1⟩) := by decide +kernel
theorem test_decode_mloop : decodeWord 0xE9222490#32 = .ok (.mloop ⟨2, 8, true, 9, 1⟩) := by decide +kernel
theorem test_decode_sysr : decodeWord 0xF014000B#32 = .ok (.sysr ⟨5, 0x00B⟩) := by decide +kernel
theorem test_decode_trap : decodeWord 0xF4000801#32 = .ok (.trap ⟨0x801⟩) := by decide +kernel

/-! ## Words and terms that are no instruction: R168, R181, Table 22.2 ILLEGAL -/

theorem test_decode_unused : decodeWord 0xFF000000#32 = .error ⟨1, 0x7F⟩ := by decide +kernel
theorem test_refuse_vaddc : ¬ (Instr.vaddc ⟨false, 4, .v 3, .v 2, 0⟩).WellFormed := by decide
theorem test_refuse_vsubb : ¬ (Instr.vsubb ⟨false, 5, .v 2, .v 2, 0⟩).WellFormed := by decide
theorem test_refuse_vv2p : ¬ (Instr.vv2p ⟨1, .all, .v 3, .v 0, 0⟩).WellFormed := by decide
theorem test_refuse_ldg : ¬ (Instr.ldg ⟨3, .v 2, 4, .b8, 1⟩).WellFormed := by decide
theorem test_refuse_stg : ¬ (Instr.stg ⟨1, .v 2, 4, .b8, 1⟩).WellFormed := by decide
theorem test_refuse_casg : ¬ (Instr.casg ⟨6, .v 2, 4, .w64, 0⟩).WellFormed := by decide
theorem test_refuse_xchg : ¬ (Instr.xchg ⟨5, .v 2, 4, .w64, 0⟩).WellFormed := by decide
theorem test_refuse_vbcs : ¬ (Instr.vbcs ⟨3, 1, true⟩).WellFormed := by decide
theorem test_refuse_vgetl : ¬ (Instr.vgetl ⟨1, 3, 2, true⟩).WellFormed := by decide
theorem test_refuse_vsetl : ¬ (Instr.vsetl ⟨3, 1, 2, true⟩).WellFormed := by decide
theorem test_refuse_take : ¬ (Instr.take ⟨62, 1⟩).WellFormed := by decide
theorem test_refuse_fres : ¬ (Instr.fres ⟨1, 12⟩).WellFormed := by decide
theorem test_refuse_frget : ¬ (Instr.frget ⟨1, 12⟩).WellFormed := by decide
theorem test_refuse_enq : ¬ (Instr.enq ⟨1, 2, 3, 0⟩).WellFormed := by decide
theorem test_refuse_refill : ¬ (Instr.refill ⟨1, 2, 4, 0⟩).WellFormed := by decide
theorem test_refuse_cpyt : ¬ (Instr.cpyt ⟨1, 2, 6, 0, 0⟩).WellFormed := by decide

/-! ## A small state: one team of 32 lanes that runs, with its crew, fleet, launch and partition -/

/-- Lane L holds 3 L in v1; v2 to v9 hold what a test gives, the same in every lane. -/
def lanes (x : Word) : List Word := List.replicate 32 x

def ramp : List Word := (List.range 32).map fun i => BitVec.ofNat 32 (3 * i)

def part : Part := { Part.fresh 1 0 1000 0 with
  lanePool := some (mkHandle 6 0, 32 * 65536)
  framePool := some (mkHandle 4 0, 65536)
  listPool := some (mkHandle 2 0xA000, 8192)
  queues := [(0, sceneQueue)]
  fqbase := mkHandle 5 0
  fqsize := 16
  tvec := mkHandle 1 0x100 }

/-- The bytes of the scene's object table and extents, written out. -/
def sceneBytes : Memory :=
  [(0x10040, 255), (0x10041, 255), (0x10047, 186), (0x10048, 1), (0x10049, 8), (0x1004D, 1), (0x1004E, 16), (0x10080, 255), (0x10081, 255), (0x10087, 140), (0x10088, 2), (0x10089, 8), (0x1008D, 1), (0x1008E, 16)]
    ++ [(0x100C0, 255), (0x100C1, 255), (0x100C7, 172), (0x100C8, 3), (0x100C9, 8), (0x100CD, 1), (0x100CE, 16), (0x10100, 255), (0x10101, 255), (0x10107, 140), (0x10108, 4), (0x10109, 8), (0x1010D, 1), (0x1010E, 16)]
    ++ [(0x10140, 255), (0x10141, 255), (0x10147, 140), (0x10148, 5), (0x10149, 8), (0x1014D, 1), (0x1014E, 16)]
    ++ [(0x10180, 255), (0x10181, 255), (0x10182, 31), (0x10187, 140), (0x10188, 6), (0x10189, 8), (0x1018D, 1), (0x1018E, 16)]
    ++ [(0x20040, 3), (0x20045, 1), (0x20080, 4), (0x20085, 1), (0x200C0, 5), (0x200C5, 1), (0x20100, 6), (0x20105, 1), (0x20140, 7), (0x20145, 1), (0x20180, 8), (0x20185, 32)]

theorem test_scene_bytes : sceneBytes = sceneMem [] := by decide +kernel

/-- The bytes of a list that are not zero, from an address. -/
def rowsAt (a : Nat) (bs : List Byte) : Memory := bs.zipIdx.filterMap fun e => if e.1 = 0 then none else some (a + e.2, e.1)

def base : State := { State.reset with
  status := 1
  nextId := 9
  teams := [(1, sceneTeam)]
  parts := [(0, part)]
  launches := [(1, sceneLaunch)]
  asids := [(0, ⟨0, 0x10000, 16⟩)]
  mem := sceneBytes
  crews := [(crewKey 1 0 0, ⟨1, 0, 0, 0, 0, freshBarriers 16 1, freshBarriers 64 0, 1⟩)]
  fleets := [(fleetKey 1 0, ⟨1, 0, 0, freshBarriers 8 1, 1⟩)]
  adminOpen := true
  cur := some ⟨1, 0, none⟩ }

/-- base with another team in the place of its own. -/
def on (t : Team) : State := { base with teams := [(1, t)] }

/-- What a step gives of the state after it and of its team. -/
def after {α : Type} (i : Instr) (s : State) (f : State → Team → α) : Option α :=
  match exec i s with
  | .next s' => (s'.team? 1).map (f s')
  | _ => none

/-- What a step gives of the state after it. -/
def result {α : Type} (i : Instr) (s : State) (f : State → α) : Option α :=
  match exec i s with
  | .next s' => some (f s')
  | _ => none

/-- v1 is the ramp, v2, v3 and v4, v5 hold a, b and d. -/
def vteam (a b d : Word) : Team := { sceneTeam with v := [(1, ramp), (2, lanes a), (3, lanes b), (4, lanes d)] }

/-- The same with lanes 0 and 1 alone active. -/
def vtwo (a b d : Word) : Team := { vteam a b d with mask := 0b11#1024 }

/-- v4 of lane 5 after an instruction on v2, v3 and v4. -/
def vres (i : Instr) (a b d : Word) : Option Word := after i (on (vteam a b d)) fun _ t => t.vreg 4 5

/-- s3 after a uniform instruction on s1, s2 and s3. -/
def sres (i : Instr) (a b d : QWord) : Option QWord :=
  after i (on { sceneTeam with s := [(1, a), (2, b), (3, d)] }) fun _ t => t.sreg 3

/-- The operands of vres and sres. -/
def vr : VR := ⟨false, 4, .v 2, .v 3, 0⟩
def vu : VU := ⟨false, 4, .v 2, 0⟩
def sr : SR := ⟨3, 1, 2⟩

/-! ## Lane arithmetic and logic: R186 to R190, Table 11.2 -/

theorem test_vadd : vres (.vadd vr) 0xFFFFFFFF 2 0 = some 1 := by decide +kernel
theorem test_vadd_guard : after (.vadd ⟨false, 4, .v 2, .v 3, 1⟩) (on { vteam 1 2 9 with p := [(1, 1#1024)] })
    (fun _ t => (t.vreg 4 0, t.vreg 4 1, t.latch 0 1)) = some (3, 9, 9) := by decide +kernel
theorem test_vsub : vres (.vsub vr) 0 1 0 = some 0xFFFFFFFF := by decide +kernel
theorem test_vmul : vres (.vmul vr) 0x10000 0x10001 0 = some 0x10000 := by decide +kernel
theorem test_vmulh : vres (.vmulh vr) 0xFFFFFFFF 2 0 = some 0xFFFFFFFF := by decide +kernel
theorem test_vmulhn : vres (.vmulhn vr) 0xFFFFFFFF 2 0 = some 1 := by decide +kernel
theorem test_vmad : vres (.vmad vr) 3 4 5 = some 17 := by decide +kernel
theorem test_vmin : vres (.vmin vr) 0xFFFFFFFF 1 0 = some 0xFFFFFFFF := by decide +kernel
theorem test_vmax : vres (.vmax vr) 0xFFFFFFFF 1 0 = some 1 := by decide +kernel
theorem test_vminn : vres (.vminn vr) 0xFFFFFFFF 1 0 = some 1 := by decide +kernel
theorem test_vmaxn : vres (.vmaxn vr) 0xFFFFFFFF 1 0 = some 0xFFFFFFFF := by decide +kernel
theorem test_vand : vres (.vand vr) 0xC 0xA 0 = some 8 := by decide +kernel
theorem test_vor : vres (.vor vr) 0xC 0xA 0 = some 0xE := by decide +kernel
theorem test_vxor : vres (.vxor vr) 0xC 0xA 0 = some 6 := by decide +kernel
theorem test_vandn : vres (.vandn vr) 0xC 0xA 0 = some 4 := by decide +kernel
theorem test_vshl : vres (.vshl vr) 1 31 0 = some 0x80000000 := by decide +kernel
theorem test_vshl_long : vres (.vshl vr) 1 0xFFFFFFFF 0 = some 0 := by decide +kernel
theorem test_vshr : vres (.vshr vr) 0x80000000 31 0 = some 1 := by decide +kernel
theorem test_vsar : vres (.vsar vr) 0x80000000 40 0 = some 0xFFFFFFFF := by decide +kernel
theorem test_vrot : vres (.vrot vr) 0x80000001 33 0 = some 3 := by decide +kernel
theorem test_vaddc : after (.vaddc ⟨false, 4, .v 2, .const 17, 0⟩) (on (vteam 0xFFFFFFFF 0 0))
    (fun _ t => (t.vreg 4 5, t.vreg 5 5)) = some (0, 1) := by decide +kernel
theorem test_vsubb : after (.vsubb ⟨false, 4, .const 16, .const 17, 0⟩) (on (vteam 0 0 0))
    (fun _ t => (t.vreg 4 5, t.vreg 5 5)) = some (0xFFFFFFFF, 0xFFFFFFFF) := by decide +kernel
theorem test_vabsd : vres (.vabsd vr) 0x80000000 0x7FFFFFFF 0 = some 0xFFFFFFFF := by decide +kernel
theorem test_vclz : vres (.vclz vu) 1 0 0 = some 31 := by decide +kernel
theorem test_vclz_zero : vres (.vclz vu) 0 0 0 = some 32 := by decide +kernel
theorem test_vpopc : vres (.vpopc vu) 0xFF00FF00 0 0 = some 16 := by decide +kernel
theorem test_vbrev : vres (.vbrev vu) 1 0 0 = some 0x80000000 := by decide +kernel
theorem test_vmov : vres (.vmov vu) 7 0 1 = some 7 := by decide +kernel
theorem test_vmov_nw : after (.vmov ⟨true, 4, .v 2, 0⟩) (on (vteam 7 0 1)) (fun _ t => (t.vreg 4 5, t.latch 0 5)) = some (1, 7) := by
  decide +kernel
theorem test_vbfx : vres (.vbfx vr) 0xF500 0x908 0 = some 0xFFFFFFF5 := by decide +kernel
theorem test_vbfi : vres (.vbfi vr) 0xAB 0x108 0xFFFFFFFF = some 0xFFFFABFF := by decide +kernel
theorem test_vadds : vres (.vadds vr) 0x7FFFFFFF 1 0 = some 0x7FFFFFFF := by decide +kernel
theorem test_vsubs : vres (.vsubs vr) 0x80000000 1 0 = some 0x80000000 := by decide +kernel
theorem test_vdiv : vres (.vdiv vr) 0xFFFFFFF9 2 0 = some 0xFFFFFFFD := by decide +kernel
theorem test_vdiv_zero : vres (.vdiv vr) 5 0 0 = some 0xFFFFFFFF := by decide +kernel
theorem test_vrem : vres (.vrem vr) 0xFFFFFFF9 2 0 = some 0xFFFFFFFF := by decide +kernel
theorem test_vrem_zero : vres (.vrem vr) 5 0 0 = some 5 := by decide +kernel

/-! ## Predicates: R183, R191 to R195 -/

theorem test_vsel : after (.vsel ⟨false, 4, .v 2, .v 3, 1⟩) (on { vteam 1 2 9 with p := [(1, 1#1024)] })
    (fun _ t => (t.vreg 4 0, t.vreg 4 1)) = some (1, 2) := by decide +kernel
theorem test_vcmp : after (.vcmp ⟨1, .lt, .v 2, .v 3, 0⟩) (on (vteam 0xFFFFFFFF 1 0)) (fun _ t => t.pred 1 5) = some true := by
  decide +kernel
theorem test_vcmp_natural : after (.vcmp ⟨1, .ltn, .v 2, .v 3, 0⟩) (on { vteam 0xFFFFFFFF 1 0 with p := [(1, fullMask 32)] })
    (fun _ t => t.pred 1 5) = some false := by decide +kernel
theorem test_vcmpf : after (.vcmpf ⟨1, .ltn, .v 2, .v 3, 0⟩) (on (vteam 0x7FC00000 0x3F800000 0)) (fun _ t => t.pred 1 5)
    = some true := by decide +kernel
theorem test_vcmpf_zeros : after (.vcmpf ⟨1, .eq, .v 2, .v 3, 0⟩) (on (vteam 0x80000000 0 0)) (fun _ t => t.pred 1 5) = some true := by
  decide +kernel
theorem test_vpop : after (.vpop ⟨false, 4, .v 2, 1⟩) (on { vteam 100 0 0 with p := [(1, 0b1011#1024)] })
    (fun _ t => (t.vreg 4 0, t.vreg 4 3)) = some (100, 102) := by decide +kernel
theorem test_vp2v : after (.vp2v ⟨false, 4, 0⟩) (on { vteam 0 0 0 with p := [(1, 0b10#1024), (7, 0b10#1024)] })
    (fun _ t => (t.vreg 4 0, t.vreg 4 1)) = some (1, 0x83) := by decide +kernel
theorem test_vv2p : after (.vv2p ⟨2, .any, .v 2, .v 3, 0⟩) (on (vteam 6 2 0)) (fun _ t => t.pred 2 5) = some true := by decide +kernel
theorem test_vv2p_all : after (.vv2p ⟨0, .all, .v 2, .v 0, 0⟩) (on (vteam 0x82 0 0)) (fun _ t => (t.pred 1 5, t.pred 2 5, t.pred 7 5))
    = some (true, false, true) := by decide +kernel
theorem test_vfcls : vres (.vfcls vu) 0xFF800000 0 0 = some 1 := by decide +kernel
theorem test_vfcls_subnormal : vres (.vfcls vu) 1 0 0 = some 0x20 := by decide +kernel

/-! ## Floating point: R196 to R201, Tables 11.6 and 11.7a -/

theorem test_fadd_tie : vres (.fadd vr) 0x3F800000 0x33800000 0 = some 0x3F800000 := by decide +kernel
theorem test_fsub : vres (.fsub vr) 0x40000000 0x3F800000 0 = some 0x3F800000 := by decide +kernel
theorem test_fmul : vres (.fmul vr) 0x40000000 0x40400000 0 = some 0x40C00000 := by decide +kernel
theorem test_ffma : vres (.ffma vr) 0x4B800001 0x3F800000 0xCB800000 = some 0x40000000 := by decide +kernel
theorem test_fnma : vres (.fnma vr) 0x40000000 0x40400000 0x40E00000 = some 0x3F800000 := by decide +kernel
theorem test_fmin : vres (.fmin vr) 0x3F800000 0xBF800000 0 = some 0xBF800000 := by decide +kernel
theorem test_fmax : vres (.fmax vr) 0x3F800000 0xBF800000 0 = some 0x3F800000 := by decide +kernel
theorem test_fneg : vres (.fneg vu) 0 0 0 = some 0x80000000 := by decide +kernel
theorem test_fabs : vres (.fabs vu) 0xBF800000 0 0 = some 0x3F800000 := by decide +kernel
theorem test_frcp : vres (.frcp vu) 0x40800000 0 0 = some 0x3E800000 := by decide +kernel
theorem test_frsq : vres (.frsq vu) 0x40800000 0 0 = some 0x3F000000 := by decide +kernel
theorem test_fsqrt : vres (.fsqrt vu) 0x40100000 0 0 = some 0x3FC00000 := by decide +kernel
theorem test_fexp2 : vres (.fexp2 vu) 0x40400000 0 0 = some 0x41000000 := by decide +kernel
theorem test_flog2 : vres (.flog2 vu) 0x41000000 0 0 = some 0x40400000 := by decide +kernel
theorem test_frint : vres (.frint vu) 0x40200000 0 0 = some 0x40000000 := by decide +kernel
theorem test_fscale : vres (.fscale vr) 0x3FC00000 4 0 = some 0x41C00000 := by decide +kernel
theorem test_fdiv : vres (.fdiv vr) 0x3F800000 0x40400000 0 = some 0x3EAAAAAB := by decide +kernel
theorem test_hadd2 : vres (.hadd2 vr) 0x3C003C00 0x3C004000 0 = some 0x40004200 := by decide +kernel
theorem test_hmul2 : vres (.hmul2 vr) 0x3C007BFF 0x40004000 0 = some 0x40007C00 := by decide +kernel
theorem test_hfma2 : vres (.hfma2 vr) 0x40003C00 0x40003C00 0x3C003C00 = some 0x45004000 := by decide +kernel
theorem test_badd2 : vres (.badd2 vr) 0x3F803F80 0x3F804000 0 = some 0x40004040 := by decide +kernel
theorem test_bmul2 : vres (.bmul2 vr) 0x40003F80 0x40004040 0 = some 0x40804040 := by decide +kernel
theorem test_bfma2 : vres (.bfma2 vr) 0x40003F80 0x40003F80 0x3F803F80 = some 0x40A04000 := by decide +kernel

/-! ## Conversions and dot products: R202 to R207 -/

theorem test_cvt : vres (.cvt ⟨false, 4, .v 2, .v 3, .e4m3⟩) 0x43EB0000 1 0x11223344 = some 0x11227F44 := by decide +kernel
theorem test_cvtsc_q : vres (.cvtscQ ⟨false, 4, .v 2, .v 3, .e4m3⟩) 0x447A0000 129 0 = some 0x78 := by decide +kernel
theorem test_cvtsc_d : vres (.cvtscD ⟨false, 4, .v 2, .v 3, .e4m3⟩) 0x78 129 0 = some 0x44800000 := by decide +kernel
theorem test_pack : vres (.pack ⟨false, 4, .v 2, .v 3, .i8⟩) 300 1 0x11223344 = some 0x11222C44 := by decide +kernel
theorem test_unpk : vres (.unpk ⟨false, 4, .v 2, .v 3, .i8⟩) 0x00800000 2 0 = some 0xFFFFFF80 := by decide +kernel
theorem test_unpk_fp16 : vres (.unpk ⟨false, 4, .v 2, .v 3, .fp16⟩) 0xC0003C00 1 0 = some 0xC0000000 := by decide +kernel
theorem test_dot4i8 : vres (.dot4i8 vr) 0x80808080 0x80808080 0 = some 65536 := by decide +kernel
theorem test_dot4n8 : vres (.dot4n8 vr) 0xFF000001 0x02000003 1 = some 514 := by decide +kernel
theorem test_dot8i4 : vres (.dot8i4 vr) 0x0000000F 0x00000002 1 = some 0xFFFFFFFF := by decide +kernel
theorem test_dot4e4 : vres (.dot4e4 vr) 0x00003838 0x00004038 0x3F800000 = some 0x40800000 := by decide +kernel
theorem test_dot4e5 : vres (.dot4e5 vr) 0x00003C3C 0x0000403C 0x3F800000 = some 0x40800000 := by decide +kernel
theorem test_dot8f4 : vres (.dot8f4 vr) 0x77777777 0x77777777 0x3F800000 = some 0x43908000 := by decide +kernel
theorem test_qscale : vres (.qscale ⟨false, 4, .v 2, .v 3, .e4m3⟩) 0x447A0000 1 0 = some 129 := by decide +kernel
theorem test_i2f : vres (.i2f ⟨false, 4, .v 2, .i8⟩) 0xFF 0 0 = some 0xBF800000 := by decide +kernel
theorem test_f2i : vres (.f2i ⟨false, 4, .v 2, .i8⟩) 0x43960000 0 0 = some 0x7F := by decide +kernel

/-! ## Exchanges and immediates: R208 to R210 -/

theorem test_xshfl : vres (.xshfl ⟨false, 4, .v 1, .v 3, 0⟩) 0 34 0 = some 6 := by decide +kernel
theorem test_xup : vres (.xup ⟨false, 4, .v 1, .v 3, 0⟩) 0 2 0 = some 9 := by decide +kernel
theorem test_xup_edge : vres (.xup ⟨false, 4, .v 1, .v 3, 0⟩) 0 6 0 = some 15 := by decide +kernel
theorem test_xdn : vres (.xdn ⟨false, 4, .v 1, .v 3, 0⟩) 0 2 0 = some 21 := by decide +kernel
theorem test_xbfly : vres (.xbfly ⟨false, 4, .v 1, .v 3, 0⟩) 0 1 0 = some 12 := by decide +kernel
theorem test_xbcast : vres (.xbcast ⟨false, 4, .v 1, .v 3, 0⟩) 0 3 0 = some 9 := by decide +kernel
theorem test_xscan : vres (.xscan ⟨false, 4, .const 17, .v 3, 0⟩) 0 10 0 = some 15 := by decide +kernel
theorem test_vaddi : vres (.vaddi ⟨false, 4, .v 2, 0x3FF⟩) 5 0 0 = some 4 := by decide +kernel
theorem test_vandi : vres (.vandi ⟨false, 4, .v 2, 0x3FF⟩) 0xFFFFFFFF 0 0 = some 0x3FF := by decide +kernel
theorem test_vori : vres (.vori ⟨false, 4, .v 2, 0x200⟩) 1 0 0 = some 0x201 := by decide +kernel
theorem test_vxori : vres (.vxori ⟨false, 4, .v 2, 0x3FF⟩) 0xFFFFFFFF 0 0 = some 0xFFFFFC00 := by decide +kernel
theorem test_vshli : vres (.vshli ⟨false, 4, .v 2, 32⟩) 1 0 0 = some 0 := by decide +kernel
theorem test_vshri : vres (.vshri ⟨false, 4, .v 2, 4⟩) 0x80000000 0 0 = some 0x08000000 := by decide +kernel
theorem test_vsari : vres (.vsari ⟨false, 4, .v 2, 1023⟩) 0x80000000 0 0 = some 0xFFFFFFFF := by decide +kernel
theorem test_vldi : vres (.vldi ⟨false, 4, .v 2, 672⟩) 98 0 0 = some 100000 := by decide +kernel

/-- The first element of object 3 under ASID 0 (R121). -/
def ek : Nat := 3 * 2 ^ 37

/-- The line of object 2's first bytes: one token, or all, at core 0 (R105). -/
def dir0 : Dir := base.dir 0 2048
def readDirs : Tbl Dir := [(2048, { dir0 with htok := 63, mode := 1, ptrs := [0], toks := [(0, 1)] })]
def ownDir : Dir := { dir0 with htok := 0, mode := 1, ptrs := [0], toks := [(0, 64)], owner := some 0 }
def ownDirs : Tbl Dir := [(2048, ownDir)]

/-! ## Vector accesses at their issue: R63, R64, R233 to R240. Object 2 lies at 0x40000 -/

/-- The loads that an instruction leaves in the team queue: how many, and the location and length of the first piece of entry k. -/
def loads (i : Instr) (t : Team) (k : Nat) : Option (Nat × Option (Nat × Nat)) :=
  after i (on t) fun _ t => (t.tq.length, (t.tq[k]?).bind fun e =>
    match e.op with | .load (p :: _) _ => some (p.loc, p.len) | _ => none)

/-- The entries that an instruction leaves in the store queue: how many, and location, length and operation of entry k. -/
def stores (i : Instr) (t : Team) (k : Nat) : Option (Nat × Option (Nat × Nat × SqOp)) :=
  after i (on t) fun _ t => (t.sq.length, (t.sq[k]?).map fun e => (e.loc, e.len, e.op))

theorem test_ldl : loads (.ldl ⟨4, .v 1, 0, .b1, 0⟩) (vteam 0 0 0) 4 = some (32, some (12 * 65536 + 12, 1)) := by decide +kernel
theorem test_stl : stores (.stl ⟨2, .v 3, 0, .b2, 0⟩) (vteam 0x12345678 8 0) 31
    = some (32, some (39 * 65536 + 8, 2, .store 0x5678)) := by decide +kernel
theorem test_ldc : loads (.ldc ⟨4, .v 3, 0, .b8, 0⟩) (vteam 0 0x100 0) 31 = some (32, some (2 ^ 43 + 0x100, 8)) := by decide +kernel
theorem test_stc : stores (.stc ⟨2, .v 4, 0, .b8, 0⟩) (vteam 1 2 0x100) 0 = some (32, some (2 ^ 43 + 0x100, 8, .store 0x200000001)) := by
  decide +kernel
theorem test_ldf : loads (.ldf ⟨4, .v 3, 0, .b4, 0⟩) (vteam 0 4 0) 0 = some (32, some (2 ^ 43 + 512 * 1024 + 4, 4)) := by decide +kernel
theorem test_stf : stores (.stf ⟨2, .v 3, 0, .b4, 0⟩) (vteam 7 4 0) 0 = some (32, some (2 ^ 43 + 512 * 1024 + 4, 4, .store 7)) := by
  decide +kernel
theorem test_ldd : loads (.ldd ⟨4, .v 3, 0, .b4, 0⟩) (vteam 0 4 0) 0 = some (32, some (2 ^ 44 + 4, 4)) := by decide +kernel
theorem test_std : stores (.std ⟨2, .v 3, 0, .b4, 0⟩) (vteam 7 4 0) 0 = some (32, some (2 ^ 44 + 4, 4, .store 7)) := by decide +kernel
theorem test_ldg : loads (.ldg ⟨4, .v 1, 1, .b1, 0⟩) (vtwo 0 0 0) 1 = some (2, some (0x40003, 1)) := by decide +kernel
theorem test_ldg_bounds : after (.ldg ⟨4, .v 3, 1, .b4, 0⟩) (on (vtwo 0 0xFFFD 0)) (fun _ t => t.park.map fun k => (k.cause, k.detail))
    = some (some (0x43, 1)) := by decide +kernel
theorem test_stg : stores (.stg ⟨2, .v 3, 1, .b4, 0⟩) (vtwo 0x12345678 6 0) 1 = some (4, some (0x40008, 2, .store 0x1234)) := by
  decide +kernel
theorem test_atomg : stores (.atomg ⟨2, .v 3, 1, .add, 0⟩) (vtwo 5 8 0) 0 = some (2, some (0x40008, 4, .rmw .add 5)) := by decide +kernel
theorem test_atomg_align : after (.atomg ⟨2, .v 3, 1, .add, 0⟩) (on (vtwo 5 6 0)) (fun _ t => t.park.map fun k => (k.cause, k.detail))
    = some (some (0x44, 1)) := by decide +kernel
theorem test_atomgn : stores (.atomgn ⟨2, .v 3, 1, .maxn, 0⟩) (vtwo 5 8 0) 1 = some (2, some (0x40008, 4, .rmw .maxn 5)) := by
  decide +kernel
theorem test_casg : stores (.casg ⟨2, .v 4, 1, .w32, 0⟩) (vtwo 5 6 8) 0 = some (2, some (0x40008, 4, .cas 5 6)) := by decide +kernel
theorem test_casg_wide : stores (.casg ⟨0, .v 4, 1, .w64, 0⟩) (vtwo 5 6 8) 0 = some (2, some (0x40008, 8, .cas 0 0x600000005)) := by
  decide +kernel
theorem test_xchg : stores (.xchg ⟨2, .v 4, 1, .w64, 0⟩) (vtwo 5 6 8) 0 = some (2, some (0x40008, 8, .swap 0x600000005)) := by
  decide +kernel
theorem test_faddg : stores (.faddg ⟨2, .v 3, 1, .h2, 0⟩) { vtwo 5 8 0 with rmode := 3 } 0
    = some (2, some (0x40008, 4, .fadd .h2 5 3)) := by decide +kernel
theorem test_atomc : stores (.atomc ⟨2, .v 3, 0, .xor, 0⟩) (vteam 5 8 0) 0 = some (32, some (2 ^ 43 + 8, 4, .rmw .xor 5)) := by
  decide +kernel

/-! ## Uniform registers: R212 to R219, Table 12.1 -/

theorem test_sadd : sres (.sadd sr) 0xFFFFFFFFFFFFFFFF 2 0 = some 1 := by decide +kernel
theorem test_sadd_s0 : after (.sadd ⟨0, 1, 2⟩) (on { sceneTeam with s := [(1, 5), (2, 6)] }) (fun _ t => t.sreg 0) = some 0 := by
  decide +kernel
theorem test_ssub : sres (.ssub sr) 0 1 0 = some 0xFFFFFFFFFFFFFFFF := by decide +kernel
theorem test_smul : sres (.smul sr) 0x100000000 0x100000001 0 = some 0x100000000 := by decide +kernel
theorem test_smulh : sres (.smulh ⟨3, 1, 2, false⟩) 0x8000000000000000 0x8000000000000000 0 = some 0x4000000000000000 := by decide +kernel
theorem test_smulh_natural : sres (.smulh ⟨3, 1, 2, true⟩) 0xFFFFFFFFFFFFFFFF 2 0 = some 1 := by decide +kernel
theorem test_sand : sres (.sand sr) 0xC 0xA 0 = some 8 := by decide +kernel
theorem test_sor : sres (.sor sr) 0xC 0xA 0 = some 0xE := by decide +kernel
theorem test_sxor : sres (.sxor sr) 0xC 0xA 0 = some 6 := by decide +kernel
theorem test_sshl : sres (.sshl sr) 1 63 0 = some 0x8000000000000000 := by decide +kernel
theorem test_sshr : sres (.sshr sr) 0x8000000000000000 64 0 = some 0 := by decide +kernel
theorem test_ssar : sres (.ssar sr) 0x8000000000000000 64 0 = some 0xFFFFFFFFFFFFFFFF := by decide +kernel
theorem test_smin : sres (.smin ⟨3, 1, 2, false⟩) 0xFFFFFFFFFFFFFFFF 1 0 = some 0xFFFFFFFFFFFFFFFF := by decide +kernel
theorem test_smax : sres (.smax ⟨3, 1, 2, true⟩) 0xFFFFFFFFFFFFFFFF 1 0 = some 0xFFFFFFFFFFFFFFFF := by decide +kernel
theorem test_scmp : sres (.scmp ⟨3, 1, 2, .ltn⟩) 0xFFFFFFFFFFFFFFFF 1 9 = some 0 := by decide +kernel
theorem test_scmp_signed : sres (.scmp ⟨3, 1, 2, .lt⟩) 0xFFFFFFFFFFFFFFFF 1 9 = some 1 := by decide +kernel
theorem test_spopc : sres (.spopc ⟨3, 1⟩) 0xFF000000000000FF 0 0 = some 16 := by decide +kernel
theorem test_sclz : sres (.sclz ⟨3, 1⟩) 1 0 0 = some 63 := by decide +kernel
theorem test_smov : sres (.smov ⟨3, 1⟩) 7 0 0 = some 7 := by decide +kernel
theorem test_saddi : sres (.saddi ⟨3, 1, 0xFFF⟩) 0 0 0 = some 0xFFFFFFFFFFFFFFFF := by decide +kernel
theorem test_sandi : sres (.sandi ⟨3, 1, 0xFFF⟩) 0xFFFFFFFFFFFFFFFF 0 0 = some 0xFFF := by decide +kernel
theorem test_sori : sres (.sori ⟨3, 1, 0x800⟩) 1 0 0 = some 0x801 := by decide +kernel
theorem test_sxori : sres (.sxori ⟨3, 1, 0xFFF⟩) 0xFFFF 0 0 = some 0xF000 := by decide +kernel
theorem test_sshli : sres (.sshli ⟨3, 1, 64⟩) 1 0 0 = some 0 := by decide +kernel
theorem test_sshri : sres (.sshri ⟨3, 1, 4⟩) 0x100 0 0 = some 0x10 := by decide +kernel
theorem test_sldi : sres (.sldi ⟨3, 0x3FFFF⟩) 0 0 0 = some 0xFFFFFFFFFFFFFFFF := by decide +kernel
theorem test_sldu : sres (.sldu ⟨3, 0x3FC00⟩) 0 0 0x20F = some 0x83FFC00 := by decide +kernel
theorem test_hmake : sres (.hmake sr) 0x123 0x4000 0 = some 0x0001230000004000 := by decide +kernel
theorem test_haddo : sres (.haddo sr) 0x000123FFFFFFFFFF 1 0 = some 0x0001230000000000 := by decide +kernel
theorem test_redadd : after (.redadd ⟨3, 2, false, 0⟩) (on (vteam 0xFFFFFFFF 0 0)) (fun _ t => t.sreg 3) = some 0xFFFFFFFFFFFFFFE0 := by
  decide +kernel
theorem test_redmin_none : after (.redmin ⟨3, 2, false, 1⟩) (on (vteam 5 0 0)) (fun _ t => t.sreg 3) = some 0x7FFFFFFF := by decide +kernel
theorem test_redmax_none : after (.redmax ⟨3, 2, false, 1⟩) (on (vteam 5 0 0)) (fun _ t => t.sreg 3) = some 0xFFFFFFFF80000000 := by
  decide +kernel
theorem test_redfadd : after (.redfadd ⟨6, 2, 0⟩)
    (on { sceneTeam with v := [(2, [0x4B800000, 0x3F800000, 0x3F800000, 0x3F800000])], mask := 0xF#1024 }) (fun _ t => t.sreg 6)
    = some 0x4B800001 := by decide +kernel
theorem test_ballot : after (.ballot ⟨3, 0, 1⟩) (on { sceneTeam with p := [(1, 0b1011#1024)] }) (fun _ t => t.sreg 3) = some 0b1011 := by
  decide +kernel
theorem test_anyl : after (.anyl ⟨3, true, 1⟩) (on { sceneTeam with p := [(1, 0b1011#1024)] }) (fun _ t => t.sreg 3) = some 0 := by
  decide +kernel
theorem test_vbcs : after (.vbcs ⟨4, 1, true⟩) (on { sceneTeam with s := [(1, 0x200000001)], mask := 1#1024 })
    (fun _ t => (t.vreg 4 0, t.vreg 5 0, t.vreg 4 1)) = some (1, 2, 0) := by decide +kernel
theorem test_vgetl : after (.vgetl ⟨3, 1, 2, false⟩) (on { vteam 0 0 0 with s := [(2, 34)] }) (fun _ t => t.sreg 3) = some 6 := by
  decide +kernel
theorem test_vsetl : after (.vsetl ⟨4, 1, 2, false⟩) (on { vteam 0 0 9 with s := [(1, 7), (2, 33)] })
    (fun _ t => (t.vreg 4 1, t.vreg 4 2)) = some (7, 9) := by decide +kernel

/-! ## Control flow: R164, R173, R220 to R224. The team's PC is offset 0 of object 1 -/

def pcAt (off : Nat) : QWord := mkHandle 1 off

theorem test_bra_back : after (.bra ⟨0x3FFFF⟩) (on { sceneTeam with pc := pcAt 16 }) (fun _ t => t.pc) = some (pcAt 12) := by decide +kernel
theorem test_bz : after (.bz ⟨0, 5⟩) base (fun _ t => t.pc) = some (pcAt 20) := by decide +kernel
theorem test_bnz : after (.bnz ⟨0, 5⟩) base (fun _ t => t.pc) = some (pcAt 4) := by decide +kernel
theorem test_call : after (.call ⟨5⟩) base (fun _ t => (t.pc, t.sreg 63)) = some (pcAt 20, pcAt 4) := by decide +kernel
theorem test_ret : after (.ret ⟨5⟩) { base with teams := [(1, { sceneTeam with pc := pcAt 64 })] } (fun _ t => t.pc) = some (pcAt 0) := by
  decide +kernel
theorem test_ret_odd : after (.ret ⟨4⟩) base (fun _ t => t.park.map fun k => (k.cause, k.detail)) = some (some (0x05, 4)) := by
  decide +kernel
theorem test_jmpi : after (.jmpi ⟨9, 5⟩) { base with teams := [(1, { sceneTeam with pc := pcAt 64 })] } (fun _ t => (t.pc, t.sreg 9))
    = some (pcAt 0, pcAt 68) := by decide +kernel

/-- A loop token and a divergence token above it. -/
def loopTok : Token := ⟨.loop, pcAt 40, 0, 0⟩
def divTok : Token := ⟨.diverg, pcAt 80, 0b1100#1024, 0⟩

theorem test_rpush : after (.rpush ⟨7⟩) base (fun _ t => t.toks) = some [⟨.reconv, pcAt 28, fullMask 32, 0⟩] := by decide +kernel
theorem test_brv : after (.brv ⟨1, 3⟩) (on { sceneTeam with p := [(1, 0b1011#1024)] }) (fun _ t => (t.toks, t.mask, t.pc))
    = some ([⟨.diverg, pcAt 12, 0b1011#1024, 0⟩], 0xFFFFFFF4#1024, pcAt 4) := by decide +kernel
theorem test_brv_all : after (.brv ⟨0, 3⟩) base (fun _ t => (t.toks, t.pc)) = some ([], pcAt 12) := by decide +kernel
theorem test_rjoin : after .rjoin (on { sceneTeam with toks := [divTok], mask := 0b11#1024 }) (fun _ t => (t.toks, t.mask, t.pc))
    = some ([], 0b1100#1024, pcAt 80) := by decide +kernel
theorem test_lpush : after (.lpush ⟨10⟩) base (fun _ t => t.toks) = some [loopTok] := by decide +kernel
theorem test_brk : after (.brk ⟨1⟩) (on { sceneTeam with p := [(1, 0b0110#1024)], mask := 0b11#1024, toks := [divTok, loopTok] })
    (fun _ t => (t.toks, t.mask, t.pc)) = some ([divTok, { loopTok with ma := 0b10#1024 }], 0b01#1024, pcAt 4) := by decide +kernel
theorem test_cont : after (.cont ⟨1⟩) (on { sceneTeam with p := [(1, 0b0110#1024)], mask := 0b11#1024, toks := [divTok, loopTok] })
    (fun _ t => (t.toks, t.mask)) = some ([divTok, { loopTok with mb := 0b10#1024 }], 0b01#1024) := by decide +kernel
theorem test_bloop : after (.bloop ⟨1, 0x3FFFE⟩) (on { sceneTeam with
      pc := pcAt 16, p := [(1, 1#1024)], mask := 0b11#1024, toks := [{ loopTok with mb := 0b100#1024 }] })
    (fun _ t => (t.toks, t.mask, t.pc)) = some ([{ loopTok with ma := 0b10#1024 }], 0b101#1024, pcAt 8) := by decide +kernel
theorem test_bloop_exit : after (.bloop ⟨1, 1⟩) (on { sceneTeam with mask := 0b11#1024, toks := [{ loopTok with ma := 0b100#1024 }] })
    (fun _ t => (t.toks, t.mask, t.pc)) = some ([], 0b111#1024, pcAt 40) := by decide +kernel
theorem test_yield : after .yield base (fun s t => (t.pc, (s.slice 0).ptr)) = some (pcAt 4, 1) := by decide +kernel
theorem test_nop : after .nop base (fun _ t => (t.pc, t.clock)) = some (pcAt 4, 1) := by decide +kernel

/-! ## Frames: R48 to R57, R225, Table 4.1. The stack begins at offset 0 of object 4, which lies at 0x60000 -/

def stackAt (off : Nat) : QWord := mkHandle 4 off

/-- A frame, its zero bytes left out: RESUME, STATE with KIND, ROOT and cell, LO, HI, the first two mask bytes, and some slots. -/
structure FrameIs where
  resume : Nat
  q1 : Nat
  lo : Nat
  hi : Nat
  mask : Nat
  slots : List (Nat × Nat)

def FrameIs.mem (f : FrameIs) : Memory :=
  sceneBytes ++ rowsAt 0x60000 (leBytes 8 f.resume ++ leBytes 8 f.q1 ++ leBytes 8 f.lo ++ leBytes 8 f.hi ++ leBytes 2 f.mask)
    ++ f.slots.flatMap fun e => rowsAt (0x60000 + 160 + 8 * e.1) (leBytes 2 e.2)

/-- All tokens of the stack's first lines at core 0 (R105). -/
def frameDirs : Tbl Dir := [(3072, ownDir), (3073, ownDir)]

/-- base with one frame on the stack, and with changes to its team. -/
def framed (b : FrameIs) (f : Team → Team) : State :=
  { base with
    teams := [(1, f { sceneTeam with s := Tbl.set sceneTeam.s 62 (stackAt 256) })], mem := b.mem, dirs := frameDirs }

def plainFrame : FrameIs := ⟨2 ^ 40 + 0x80, 0, 0, 0, 0xF, [(0, 100), (2, 102), (11, 111)]⟩
def loopFrame : FrameIs := ⟨2 ^ 40 + 0x80, 2 * 2 ^ 60, 10, 20, 0xF, []⟩
def forkedFrame : FrameIs := ⟨2 ^ 40 + 0x80, 2 ^ 62 + 1, 0, 0, 0xF, []⟩
def takenFrame : FrameIs := ⟨2 ^ 40 + 0x80, 2 * 2 ^ 62, 2 ^ 40 + 0x44, 1, 0xFF, []⟩

theorem test_fork : after (.fork ⟨8⟩) base (fun _ t => (t.sreg 62, t.sq.length, (t.sq[0]?).map fun e => (e.loc, e.op)))
    = some (stackAt 256, 32, some (0x60000, .store (pcAt 32))) := by decide +kernel
theorem test_forkv : after (.forkv ⟨8⟩) (on { sceneTeam with mask := 0xF0#1024 }) (fun _ t => ((t.sq[1]?).map SqEntry.op, (t.sq[4]?).map SqEntry.op))
    = some (some (.store 0x1000000000000000), some (.store 0xF0)) := by decide +kernel
theorem test_forkl : after (.forkl ⟨7, 3, 8⟩) base (fun _ t => ((t.sq[2]?).map SqEntry.op, (t.sq[3]?).map SqEntry.op))
    = some (some (.store 3), some (.store 64)) := by decide +kernel
theorem test_join_inline : after .join (framed plainFrame id) (fun _ t => (t.pc, t.mask, t.sreg 1, t.sreg 12, t.sreg 62))
    = some (pcAt 0x80, 0xF#1024, 100, 111, stackAt 256) := by decide +kernel
theorem test_join_waits : after .join (framed forkedFrame id) (fun _ t => (t.pc, t.wait.map Wait.on)) = some (pcAt 0, some .join) := by
  decide +kernel
theorem test_tend_inline : after .tend (framed takenFrame fun t => { t with toks := [loopTok, divTok] })
    (fun _ t => (t.pc, t.mask, t.sreg 62, t.toks)) = some (pcAt 0x44, 0xFF#1024, stackAt 0, [divTok]) := by decide +kernel
theorem test_tend : after .tend base (fun _ t => (t.ended, t.clock)) = some (true, 1) := by decide +kernel
theorem test_take : after (.take ⟨8, 6⟩) (framed loopFrame id) (fun _ t => (t.sreg 8, t.sreg 9)) = some (10, 12) := by decide +kernel
theorem test_ppt : after .ppt base (fun _ t => (t.pc, t.clock)) = some (pcAt 4, 1) := by decide +kernel
theorem test_fres : after (.fres ⟨3, 2⟩) (framed takenFrame id) (fun _ t => t.sq.map fun e => (e.loc, e.op))
    = some [(0x60000 + 176, .store 64)] := by decide +kernel
theorem test_frget : after (.frget ⟨3, 2⟩) { base with mem := plainFrame.mem, dirs := frameDirs } (fun _ t => t.sreg 3)
    = some 102 := by decide +kernel

/-! ## Items, dependences: R227 to R230 -/

theorem test_enq : after (.enq ⟨9, 4, 2, 1⟩) (on { vteam 5 6 0 with p := [(1, 0b101#1024)] })
    (fun _ t => (t.sreg 9, t.sq.map SqEntry.op)) = some (2, [.enq 1 [0x600000005, 0x600000005]]) := by decide +kernel
def refilled : State := { on { vteam 5 6 0 with p := [(1, 0b110#1024)] } with
  cores := [(0, { Core.reset with items := [(1, 1, 0xB0000000A)] })] }

theorem test_refill : after (.refill ⟨9, 4, 2, 1⟩) refilled (fun _ t => (t.sreg 9, t.vreg 2 1, t.vreg 3 1, t.vreg 2 2)) = some (1, 0xA, 0xB, 5) := by
  decide +kernel
theorem test_refill_took : after (.refill ⟨9, 4, 2, 1⟩) refilled (fun s t => (t.pred 1 1, t.pred 1 2, (s.core 0).items.length))
    = some (false, true, 0) := by decide +kernel
theorem test_waitq : after (.waitq ⟨9, 4⟩) { base with cores := [(0, { Core.reset with items := [(1, 1, 5)] })] }
    (fun _ t => (t.pc, t.sreg 9, t.named)) = some (pcAt 4, 0, some 1) := by decide +kernel
theorem test_waitq_waits : after (.waitq ⟨9, 4⟩) base (fun _ t => (t.pc, t.wait.map Wait.on)) = some (pcAt 0, some (.waitq 1 9)) := by
  decide +kernel
theorem test_trig : after .trig base (fun _ t => t.sq.map fun e => (e.op, e.rel)) = some [(.trig, some .partition)] := by decide +kernel
theorem test_waitdep : after .waitdep base (fun _ t => (t.pc, t.wait)) = some (pcAt 4, none) := by decide +kernel

/-! ## Uniform accesses, counters, fences, waits, hints: R238 to R248. s1 names object 2, s2 object 3, a counter array -/

theorem test_sldg : loads (.sldg ⟨9, 1, 3, 0⟩) sceneTeam 0 = some (1, some (0x40040, 8)) := by decide +kernel
theorem test_sstg : stores (.sstg ⟨7, 1, 3, 0⟩) sceneTeam 0 = some (1, some (0x40040, 8, .store 3)) := by decide +kernel
theorem test_sldc : loads (.sldc ⟨9, 3, 0, 0⟩) sceneTeam 0 = some (1, some (2 ^ 43 + 64, 8)) := by decide +kernel
theorem test_sstc : stores (.sstc ⟨7, 3, 0, 0⟩) sceneTeam 0 = some (1, some (2 ^ 43 + 64, 8, .store 3)) := by decide +kernel
theorem test_sldf : loads (.sldf ⟨9, 3, 0, 0⟩) sceneTeam 0 = some (1, some (2 ^ 43 + 512 * 1024 + 64, 8)) := by decide +kernel
theorem test_sstf : stores (.sstf ⟨7, 3, 0, 0⟩) sceneTeam 0 = some (1, some (2 ^ 43 + 512 * 1024 + 64, 8, .store 3)) := by decide +kernel
theorem test_sldd : loads (.sldd ⟨9, 3, 0, 0⟩) sceneTeam 0 = some (1, some (2 ^ 44 + 64, 8)) := by decide +kernel
theorem test_sstd : stores (.sstd ⟨7, 3, 0, 0⟩) sceneTeam 0 = some (1, some (2 ^ 44 + 64, 8, .store 3)) := by decide +kernel
theorem test_satom : stores (.satom ⟨9, 1, 7, .min, 0⟩) sceneTeam 0 = some (1, some (0x40000, 8, .rmw .min 3)) := by decide +kernel
theorem test_scas : stores (.scas ⟨6, 1, 7, 0⟩) sceneTeam 0 = some (1, some (0x40000, 8, .scas 2 3)) := by decide +kernel
theorem test_sxch : stores (.sxch ⟨6, 1, 7, 0⟩) sceneTeam 0 = some (1, some (0x40000, 8, .swap 3)) := by decide +kernel
theorem test_bcdec_all : stores (.bcdecAll ⟨9, 2, 7, 0⟩) sceneTeam 0 = some (1, some (0x50000, 8, .ctr ek (.decAll 3))) := by
  decide +kernel
theorem test_bcdec_part : stores (.bcdecPart ⟨9, 2, 7, 0⟩) sceneTeam 0 = some (1, some (0x50000, 8, .ctr ek (.decPart 3))) := by
  decide +kernel
theorem test_bcinc : stores (.bcinc ⟨2, 7, 0⟩) sceneTeam 0 = some (1, some (0x50000, 8, .ctr ek (.inc 3))) := by decide +kernel
theorem test_bcinc_kind : after (.bcinc ⟨1, 7, 0⟩) base (fun _ t => t.park.map fun k => (k.cause, k.detail)) = some (some (0x41, 2)) := by
  decide +kernel
theorem test_bcread : after (.bcread ⟨9, 2, 0⟩) base (fun _ t => t.sq.map fun e => (e.op, e.acq, e.rel))
    = some [(.ctr ek .read, true, some .partition)] := by decide +kernel
theorem test_bcset : stores (.bcset ⟨9, 2, 7, 0⟩) sceneTeam 0 = some (1, some (0x50000, 8, .ctr ek (.set 3))) := by decide +kernel
theorem test_fence : after (.fence ⟨.die⟩) base (fun _ t => t.tq.map TqEntry.op) = some [.fence .die] := by decide +kernel
theorem test_ifence : after (.ifence ⟨5, 3⟩) { base with cores := [(0, { Core.reset with icache := [(0x30000, 1), (0x30040, 2)] })] }
    (fun s _ => (s.core 0).icache) = some [(0x30040, 2)] := by decide +kernel
theorem test_waitv : after (.waitv ⟨9, 1, 7, false, .eq, 0⟩) { base with mem := sceneBytes ++ [(0x40000, 3)], dirs := readDirs }
    (fun _ t => (t.pc, t.sreg 9)) = some (pcAt 4, 3) := by decide +kernel
theorem test_waitv_waits : after (.waitv ⟨9, 1, 7, true, .gen, 0⟩) base (fun _ t => (t.pc, t.wait.map Wait.on))
    = some (pcAt 0, some (.memw (mkHandle 2 0) 3 true .gen 0 9)) := by decide +kernel
theorem test_pfetch : after (.pfetch ⟨0, 1, 0, 0⟩) base (fun _ t => (t.pc, t.clock)) = some (pcAt 4, 1) := by decide +kernel
theorem test_repl : after (.repl ⟨1, 3, .adaptive⟩) { base with grans := [(4, ⟨2, 7, 9, 0, 1, 2, 5, 6⟩)] } (fun s _ => s.gran 4)
    = some ⟨2, 0, 0, 0, 1, 2, 5, 6⟩ := by decide +kernel

/-! ## Barriers and tokens: R249 to R253 -/

theorem test_bara : after (.bara ⟨9, .cb 2⟩) base (fun _ t => t.sq.map fun e => (e.op, e.rel))
    = some [(.arrive (.cb (crewKey 1 0 0) 2), some .crew)] := by decide +kernel
theorem test_bara_none : after (.bara ⟨9, .lb 0⟩) base (fun _ t => t.park.map fun k => (k.cause, k.detail)) = some (some (0x09, 2)) := by
  decide +kernel
theorem test_barw : after (.barw ⟨9, 6, .fb 1⟩) base (fun _ t => (t.pc, t.wait.map Wait.on))
    = some (pcAt 0, some (.bar (.fb (fleetKey 1 0) 1) (some 2) 9 false)) := by decide +kernel
theorem test_barw_past : after (.barw ⟨9, 1, .fb 1⟩) { on { sceneTeam with s := [(1, 0xFFFF)] } with fleets := base.fleets }
    (fun _ t => (t.pc, t.sreg 9)) = some (pcAt 4, 0) := by decide +kernel
theorem test_baraw : after (.baraw ⟨9, .cb 2⟩) base (fun _ t => (t.pc, t.sq.length, t.wait.map Wait.on))
    = some (pcAt 0, 1, some (.bar (.cb (crewKey 1 0 0) 2) none 9 true)) := by decide +kernel
theorem test_tbinit : after (.tbinit ⟨7, 5⟩) base (fun s _ => (s.barrier? (.tb (crewKey 1 0 0) 5)).map Barrier.exp) = some (some 3) := by
  decide +kernel
theorem test_tbarr : after (.tbarr ⟨9, 5⟩) base (fun _ t => t.sq.map SqEntry.op) = some [.arrive (.tb (crewKey 1 0 0) 5)] := by
  decide +kernel
theorem test_tbwait : after (.tbwait ⟨9, 6, 5⟩) base (fun _ t => t.wait.map Wait.on) = some (some (.tb (.tb (crewKey 1 0 0) 5) 2 9)) := by
  decide +kernel
theorem test_waitt : after (.waitt ⟨9, true, 0b11⟩) (on { sceneTeam with ct := [(0, ⟨1, false⟩), (1, ⟨0, true⟩)] })
    (fun _ t => (t.pc, t.sreg 9)) = some (pcAt 4, 0x8000000000000002) := by decide +kernel
theorem test_waitt_waits : after (.waitt ⟨9, false, 0b11⟩) (on { sceneTeam with ct := [(0, ⟨1, false⟩)] })
    (fun _ t => t.wait.map Wait.on) = some (some (.tok 0b11 false 9)) := by decide +kernel

/-! ## Engine commands at issue: R256 to R266 -/

/-- A CPY of 64 bytes from object 2 to the scratchpad: lengths [39:0], destination code [42:40], source code [45:43]. -/
def cpyTeam : Team := { sceneTeam with s := [(1, mkHandle 2 0), (2, 0x100), (3, qn (64 + 2 ^ 40))] }

theorem test_cpy : after (.cpy ⟨2, 1, 3, 2, 0⟩) (on cpyTeam) (fun s t => ((s.core 0).copies.map fun c => (c.len, c.src.space, c.dst.space), t.token 2))
    = some ([(64, 0, 1)], ⟨1, false⟩) := by decide +kernel
theorem test_cpy_space : after (.cpy ⟨2, 1, 3, 2, 0⟩) (on { cpyTeam with s := [(1, mkHandle 2 0), (3, qn (64 + 5 * 2 ^ 40))] })
    (fun _ t => t.park.map fun k => (k.cause, k.detail)) = some (some (0x47, 1)) := by decide +kernel

/-- A tensor of 8-bit floats (TFMT 3), two dimensions of 64 by 16, row stride 64, as object 7. -/
def tensorMem : Memory :=
  Memory.write (sceneObject sceneBytes 7 1 6 1) (0x10000 + 64 * 7 + 16)
    (leBytes 8 (3 * 2 ^ 60 + 2 ^ 58 + 15 * 2 ^ 24 + 63) ++ leBytes 8 0 ++ leBytes 8 64)

/-- The window of Table 14.3: all of it at pitch 64, to offset 0 of the scratchpad, in the tensor's own format. -/
def cpytTeam : Team := { sceneTeam with
  s := [(1, mkHandle 7 0), (2, 0), (4, 0), (5, 0), (6, qn (64 * 2 ^ 32 + 15 * 2 ^ 16 + 63)), (7, qn (15 + 16))] }

theorem test_cpyt : after (.cpyt ⟨2, 1, 4, 3, 0⟩) { on cpytTeam with mem := tensorMem }
    (fun s t => ((s.core 0).copies.map fun c => (c.win.map fun w => [w.w0, w.w1, w.pitch]), t.token 3))
    = some ([some [64, 16, 64]], ⟨1, false⟩) := by decide +kernel

/-- A team of 256 lanes, its registers zero. -/
def wide : Team := { sceneTeam with lanes := 256, mask := fullMask 256, regs := 8, v := [], s := [(1, qn (2 * 2 ^ 20 + 64)), (2, 0x77), (3, 0x80)] }

theorem test_mloop : after (.mloop ⟨2, 4, false, 1, 1⟩) (on wide) (fun s t => ((s.core 0).mats.map fun m => m.op.steps, t.token 1))
    = some ([2], ⟨1, false⟩) := by decide +kernel
theorem test_mloop_reuse : after (.mloop ⟨2, 4, true, 1, 1⟩) (on wide) (fun s _ => (s.slice 0).latch.map fun l => (l.tk, l.steps.length))
    = some (some (1, 2)) := by decide +kernel
theorem test_mld : after (.mld ⟨3, 3, 2, 1⟩) (on wide) (fun s t => ((s.core 0).mats.map MatCmd.op, t.token 1))
    = some ([.mld 2 0x80 0x80], ⟨1, false⟩) := by decide +kernel
theorem test_mst : after (.mst ⟨3, 3, 2, 1, .bf16⟩) (on wide) (fun s _ => (s.core 0).mats.map MatCmd.op)
    = some [.mst 2 0x80 0x80 .bf16 0] := by decide +kernel
theorem test_mst_bounds : after (.mst ⟨3, 1, 2, 1, .fp32⟩) (on wide) (fun _ t => t.park.map fun k => (k.cause, k.detail))
    = some (some (0x43, 6)) := by decide +kernel
theorem test_mzero : after (.mzero ⟨2, 1⟩) base (fun s _ => (s.core 0).mats.map MatCmd.op) = some [.mzero 2] := by decide +kernel
theorem test_mscl : after (.mscl ⟨2, 3, 3⟩) (on { wide with s := [(2, 0x177), (3, 0x4000040)] })
    (fun _ t => (t.mst.afmt, t.mst.bfmt, t.mst.asc, t.mst.bsc, t.mst.a.stride, t.mst.a.off)) = some (7, 7, true, false, 64, 64) := by
  decide +kernel

/-! ## System instructions: R268 to R274, Table 14.8 -/

theorem test_sysr : after (.sysr ⟨9, 0x00B⟩) { base with thyme := 77 } (fun _ t => t.sreg 9) = some 77 := by decide +kernel
theorem test_sysr_user : after (.sysr ⟨9, 0x110⟩) (on { sceneTeam with level := false }) (fun _ t => t.park.map fun k => (k.cause, k.detail))
    = some (some (0x02, 5)) := by decide +kernel
theorem test_sysw : after (.sysw ⟨5, 0x110⟩) base (fun s _ => (s.part? 0).map Part.tvec) = some (some (pcAt 0)) := by decide +kernel
theorem test_sysw_ro : after (.sysw ⟨5, 0x00B⟩) base (fun _ t => t.park.map ParkInfo.cause) = some (some 0x06) := by decide +kernel
theorem test_rmset : after (.rmset ⟨9, 0, false, 3⟩) base (fun _ t => (t.rmode, t.sreg 9)) = some (3, 0) := by decide +kernel
theorem test_rmset_bad : after (.rmset ⟨9, 0, false, 5⟩) base (fun _ t => t.park.map fun k => (k.cause, k.detail)) = some (some (0x05, 1)) := by
  decide +kernel
theorem test_prio : after (.prio ⟨9, 7, true, 0⟩) base (fun _ t => (t.prio, t.sreg 9)) = some (3, 0) := by decide +kernel
theorem test_trap : after (.trap ⟨0x801⟩) (on { sceneTeam with level := false }) (fun _ t => (t.pc, t.epc, t.ecode, t.level))
    = some (pcAt 0x100, pcAt 4, 0x801, true) := by decide +kernel
theorem test_trap_park : after (.trap ⟨7⟩) base (fun _ t => (t.clock, t.park.map fun k => (k.cause, k.pc))) = some (1, some (0x0B, pcAt 4)) := by
  decide +kernel
theorem test_brkpt : after (.brkpt ⟨7⟩) (on { sceneTeam with dbg := true }) (fun _ t => t.park.map ParkInfo.cause) = some (some 0x0C) := by
  decide +kernel
theorem test_brkpt_off : after (.brkpt ⟨7⟩) base (fun _ t => (t.pc, t.park)) = some (pcAt 4, none) := by decide +kernel
theorem test_eret : after (.eret ⟨5⟩) { base with teams := [(1, { sceneTeam with pc := pcAt 64 })] } (fun _ t => (t.pc, t.level))
    = some (pcAt 0, false) := by decide +kernel

/-- A second team of the partition, of another launch, and its state before. -/
def mate : Team := { sceneTeam with tid := 2, launch := 2, slot := 1 }
def pair (t u : Team) : State := { base with teams := [(1, t), (2, u)], launches := [(1, sceneLaunch), (2, sceneLaunch)] }
def parkedMate : Team := { mate with park := some ⟨0x0C, 0, false, pcAt 0, 0, 1, none, 1⟩ }

/-- What a step gives of the second team. -/
def mateAfter {α : Type} (i : Instr) (s : State) (f : Team → α) : Option α :=
  match exec i s with
  | .next s' => (s'.team? 2).map f
  | _ => none

theorem test_tctl_state : after (.tctlState ⟨9, 6, 0⟩) (pair sceneTeam parkedMate) (fun _ t => t.sreg 9) = some 2 := by decide +kernel
theorem test_tctl_park : mateAfter (.tctlPark ⟨9, 6, 0⟩) (pair sceneTeam mate) (fun u => u.park.isSome || u.parkReq) = some true := by
  decide +kernel
theorem test_tctl_resume : mateAfter (.tctlResume ⟨9, 6, 0⟩) (pair sceneTeam parkedMate) (fun u => (u.park, u.brkSkip)) = some (none, true) := by
  decide +kernel
theorem test_tctl_kill : mateAfter (.tctlKill ⟨9, 6, 0⟩) (pair sceneTeam mate) (fun u => u.ended) = some true := by decide +kernel
theorem test_tctl_abort : result (.tctlAbort ⟨9, 6, 0⟩) (pair sceneTeam mate) (fun s => (s.launch? 2).map fun l => (l.cancel, l.status))
    = some (some (true, 1)) := by decide +kernel
theorem test_tctl_dbg : mateAfter (.tctlDbg ⟨9, 6, 7⟩) (pair sceneTeam mate) (fun u => u.dbg) = some true := by decide +kernel
theorem test_halt_stop : after (.haltStop ⟨9, 0⟩) base (fun s t => (t.sreg 9, (s.queue? 0 0).map Queue.stopped)) = some (1, some true) := by
  decide +kernel
theorem test_halt_go : after (.haltGo ⟨9, 7⟩) base (fun _ t => t.sreg 9) = some 0xFFFFFFFFFFFFFFFF := by decide +kernel
theorem test_cancel_launch : after (.cancelLaunch ⟨9, 3⟩) base (fun _ t => (t.sreg 9, t.ended)) = some (0, false) := by decide +kernel
theorem test_cancel_phase : result (.cancelPhase ⟨9, 0⟩) base (fun s => (s.launch? 1).map Launch.cancel) = some (some true) := by decide +kernel
theorem test_cancel_job : result (.cancelJob ⟨9, 0⟩) base (fun s => (s.launch? 1).map Launch.cancel) = some (some true) := by decide +kernel

/-! ## The ordering machine: R84 to R95, R321. Byte 0x40000 is the first of object 2; its line is 2048 -/

def sqe (id loc len : Nat) (op : SqOp) : SqEntry := ⟨id, id, .global, loc, len, 0, op, false, none, true, .uni 9, pcAt 0, pcAt 0, 0, mkHandle 2 0⟩
def loadE (id loc : Nat) : TqEntry := ⟨id, id, .load [⟨loc, 8, 0, 0⟩] 0, false, .adaptive, [], .uni 9, pcAt 0, pcAt 0, 0, mkHandle 2 0, false⟩
def cve (id loc : Nat) (v : QWord) : CvEntry := ⟨id, id, 1, loc, 8, 0, v, pcAt 0, 0, mkHandle 2 0, false⟩
def mem5 : Memory := sceneBytes ++ [(0x40000, 5)]

def loadT : Team := { sceneTeam with tq := [loadE 2 0x40000] }
def loadS : State := { on loadT with mem := mem5, dirs := readDirs }
theorem test_satisfy_load : after (.satisfyLoad 1 2 0 false) loadS (fun _ t => (t.sreg 9, t.tq.length)) = some (5, 0) := by decide +kernel
def ownT : Team := { loadT with sq := [sqe 1 0x40000 8 (.store 7)] }
theorem test_satisfy_own : after (.satisfyLoad 1 2 0 false) { on ownT with mem := mem5, dirs := readDirs } (fun _ t => (t.sreg 9, t.tq.length)) = some (7, 0) := by
  decide +kernel
theorem test_satisfy_view : after (.satisfyLoad 1 2 0 false) { loadS with cvs := [(0, [cve 1 0x40000 6])] } (fun _ t => t.sreg 9) = some 6 := by
  decide +kernel

def storeT : Team := { sceneTeam with sq := [sqe 1 0x40000 8 (.store 7)] }
def storeS : State := { on storeT with mem := mem5 }
theorem test_leave : after (.leaveStoreQueue 1 1) storeS (fun s t => (t.sq.length, (s.cv 0).map CvEntry.v, Memory.get s.mem 0x40000))
    = some (0, [7], 5) := by decide +kernel
def fencedT : Team := { storeT with tq := [{ loadE 0 0x41000 with op := .fence .die }] }
theorem test_leave_waits : after (.leaveStoreQueue 1 1) (on fencedT) (fun _ t => t.sq.length) = some 1 := by decide +kernel

def viewS : State := { base with mem := mem5, dirs := ownDirs, cvs := [(0, [cve 1 0x40000 0x0807])] }
theorem test_perform : result (.perform 0 1) viewS (fun s => (s.rdNat 0x40000 8, (s.cv 0).length)) = some (0x0807, 0) := by decide +kernel

def atomT : Team := { sceneTeam with sq := [sqe 1 0x40000 8 (.rmw .add 3)] }
def atomS : State := { on atomT with mem := mem5, dirs := ownDirs }
theorem test_atomic : after (.atomicPerform 1 1) atomS (fun s t => (t.sreg 9, t.sq.length, s.rdNat 0x40000 8)) = some (5, 0, 8) := by
  decide +kernel
def casT : Team := { sceneTeam with sq := [sqe 1 0x40000 8 (.cas 6 9)] }
theorem test_cas_fails : after (.atomicPerform 1 1) { on casT with mem := mem5, dirs := ownDirs } (fun s t => (t.sreg 9, s.rdNat 0x40000 8)) = some (5, 5) := by
  decide +kernel

def fenceT : Team := { sceneTeam with tq := [{ loadE 2 0 with op := .fence .die, dest := .none }] }
theorem test_fence_done : after (.fenceComplete 1 2) (on fenceT) (fun _ t => t.tq.length) = some 0 := by decide +kernel
theorem test_fence_waits : after (.fenceComplete 1 2) { on fenceT with cvs := [(0, [cve 1 0x40000 6])] } (fun _ t => t.tq.length) = some 1 := by
  decide +kernel

def replica : Replica := ⟨List.replicate 128 9, [], 500, 0, 0, 0⟩
def replicaS : State := { base with replicas := [(replicaKey 1 2048, replica)] }
theorem test_collapse_replica : result (.replicaCollapse 1 2048) replicaS (fun s => s.replicas.length) = some 0 := by decide +kernel
theorem test_lease_live : result (.leaseExpiry 1 2048) replicaS (fun s => s.replicas.length) = some 1 := by decide +kernel
theorem test_lease_over : result (.leaseExpiry 1 2048) { replicaS with thyme := 500 } (fun s => s.replicas.length) = some 0 := by decide +kernel
theorem test_tlb_walk : result (.tlbWalk 0 0 2 0) base (fun s => s.tlb.map fun e => (e.cluster, e.obj, e.gran, e.start)) = some [(0, 2, 0, 4)] := by
  decide +kernel

def lateF : LateFault := ⟨0x48, 1, 0x77, 0, 0, true, pcAt 8, pcAt 8, 0b10#1024, 2⟩
def lateT : Team := { sceneTeam with pc := pcAt 16, late := [{ lateF with prec := false }] }
theorem test_imprecise : after (.impreciseFault 1) (on lateT) (fun _ t => t.park.map fun k => (k.cause, k.detail, k.pc)) = some (some (0x48, 1, pcAt 16)) := by
  decide +kernel
def lateP : Team := { sceneTeam with pc := pcAt 16, clock := 3, late := [lateF] }
theorem test_late_precise : after (.impreciseFault 1) (on lateP) (fun _ t => (t.clock, t.pc, t.park.map ParkInfo.umask)) = some (2, pcAt 8, some 0b10#1024) := by
  decide +kernel

/-! ## The token protocol: R105 to R115, Table 7.2. Line 2048 is at its home on die 0 with 64 tokens -/

/-- The bytes of line 2048 while nothing has written them. -/
def zeros : List Byte := List.replicate 128 0

def tlbS : State := { base with tlb := [⟨0, 0, 2, 0, 4, [0, 0, 0, 0, 0, 0, 0, 0]⟩] }
theorem test_gets_sent : result (.gets 0 2048) tlbS (fun s => s.msgs) = some [.gets 0 0 2048] := by decide +kernel
def dirS (d : Dir) (ms : List Msg) : State := { tlbS with dirs := [(2048, d)], msgs := ms }
theorem test_gets : result (.gets 0 2048) (dirS dir0 [.gets 0 0 2048]) (fun s => ((s.dir 0 2048).htok, (s.dir 0 2048).mode, s.msgs))
    = some (63, 1, [.data 0 0 2048 1 zeros]) := by decide +kernel
theorem test_getx : result (.getx 0 2048) (dirS dir0 [.getx 0 0 2048]) (fun s => ((s.dir 0 2048).htok, (s.dir 0 2048).owner, s.msgs))
    = some (0, some 0, [.data 0 0 2048 64 zeros]) := by decide +kernel
def wantS : State := dirS { dir0 with htok := 63, mode := 1, ptrs := [5], toks := [(5, 1)] } [.getx 0 0 2048]
theorem test_getx_recalls : result (.getx 0 2048) wantS (fun s => (s.msgs, ((s.dir 0 2048).opened))) = some ([.recall 0 5 2048 0], some (0, true, 1)) := by
  decide +kernel
def openS : State := dirS { dir0 with opened := some (5, true, 1), htok := 63, toks := [(5, 1)] } [.gets 0 0 2048]
theorem test_nacked : result (.gets 0 2048) openS (fun s => (s.msgs, (s.dir 0 2048).nacks)) = some ([.nack 0 0 2048], [(0, 1)]) := by decide +kernel
def dataS : State := dirS { dir0 with htok := 63, mode := 1, ptrs := [0] } [.data 0 0 2048 1 zeros]
theorem test_data : result (.data 0 2048) dataS (fun s => ((s.dir 0 2048).held 0, s.msgs)) = some (1, []) := by decide +kernel
def downS : State := dirS { dir0 with htok := 0, mode := 1, ptrs := [0], owner := some 0, toks := [(0, 64)] } [.down 0 0 2048]
theorem test_down : result (.down 0 2048) downS (fun s => ((s.dir 0 2048).held 0, s.msgs)) = some (1, [.tack 0 0 2048 63 (some zeros)]) := by decide +kernel
def recallS : State := dirS { dir0 with htok := 63, mode := 1, ptrs := [5], toks := [(5, 1)], opened := some (0, true, 1) } [.recall 0 5 2048 0]
theorem test_recall : result (.recall 5 2048) recallS (fun s => ((s.dir 0 2048).held 5, s.msgs)) = some (0, [.tack 0 5 2048 1 none]) := by
  decide +kernel
def tackS : State := dirS { dir0 with htok := 63, mode := 1, ptrs := [5], opened := some (0, true, 1) } [.tack 0 5 2048 1 none]
theorem test_tack : result (.tack 5 2048) tackS (fun s => ((s.dir 0 2048).opened, s.msgs)) = some (none, [.data 0 0 2048 64 zeros]) := by decide +kernel
def heldS : State := dirS { dir0 with htok := 63, mode := 1, ptrs := [0], toks := [(0, 1)] } []
theorem test_evict_sent : result (.evict 0 2048) heldS (fun s => ((s.dir 0 2048).held 0, s.msgs)) = some (0, [.evict 0 0 2048 1 none]) := by decide +kernel
def evictS : State := dirS { dir0 with htok := 63, mode := 1, ptrs := [0] } [.evict 0 0 2048 1 none]
theorem test_evict : result (.evict 0 2048) evictS (fun s => ((s.dir 0 2048).htok, (s.dir 0 2048).mode)) = some (64, 0) := by decide +kernel
def nackS : State := { base with msgs := [.nack 0 0 2048] }
theorem test_nack : result (.nack 0 2048) nackS (fun s => s.msgs) = some [] := by decide +kernel
def persS : State := dirS { dir0 with opened := some (5, true, 1), nacks := [(0, 2)] } []
theorem test_pers_sent : result (.pers 0 2048 true) persS (fun s => s.msgs) = some [.pers 0 0 2048 true 0] := by decide +kernel
def persOn : State := { persS with msgs := [.pers 0 0 2048 true 0] }
theorem test_pers : result (.pers 0 2048 true) persOn (fun s => (s.dir 0 2048).pers) = some [(0, true, 0)] := by decide +kernel
def collapseS : State := { replicaS with msgs := [.collapse 1 2048], dirs := [(2048, { dir0 with rvec := 0b10, col := [1], lapse := 500 })] }
theorem test_collapse : result (.collapse 1 2048) collapseS (fun s => (s.msgs, s.replicas.length)) = some ([.cack 1 2048], 0) := by decide +kernel
def cackS : State := dirS { dir0 with rvec := 0b11, col := [1] } [.cack 1 2048]
theorem test_cack : result (.cack 1 2048) cackS (fun s => ((s.dir 0 2048).rvec, (s.dir 0 2048).col, s.msgs)) = some (1, [], []) := by decide +kernel
def persLate : State := { dirS { dir0 with opened := some (5, true, 1), pers := [(0, true, 0)] } [] with thyme := 20000, launches := [] }
theorem test_pers_timeout : result (.persistentRequestTimeout 0 2048 5) persLate (fun s => (s.fused, (s.dir 0 2048).pers)) = some ([5], []) := by
  decide +kernel
def recallLate : State := { recallS with thyme := 10000, launches := [] }
theorem test_recall_timeout : result (.recallTimeout 5 2048) recallLate (fun s => (s.fused, s.msgs)) = some ([5], [.data 0 0 2048 64 zeros]) := by
  decide +kernel
theorem test_fennel : result .fennelWindowEnd { base with thyme := 10000, grans := [(4, ⟨1, 16, 2, 0, 4, 2, 3, 0⟩), (5, ⟨1, 15, 2, 0, 4, 2, 0, 0⟩)] }
    (fun s => (s.gran 4, (s.gran 5).degree)) = some (⟨2, 0, 0, 0, 4, 2, 0, 3⟩, 0) := by decide +kernel

/-! ## Counters: R96, R121 to R125, R351, R352. Element ek lies at 0x50000 -/

def elem (reserve allow : Nat) : Elem := { (base.elem 0) with reserve := reserve, alw := [(0, allow)] }
def ctrT (op : CtrOp) : Team := { sceneTeam with sq := [sqe 1 0x50000 8 (.ctr ek op)] }
def ctrS (op : CtrOp) (e : Elem) : State := { on (ctrT op) with elems := [(ek, e)] }
def req (op : CtrOp) : CtrReq := ⟨1, 1, 0, op, false, .uni 9, pcAt 0, pcAt 0, 0, 0⟩
theorem test_bcdec_served : after (.atomicPerform 1 1) (ctrS (.decAll 3) (elem 10 5)) (fun s t => (t.sreg 9, t.sq.length, (s.elem ek).allow 0))
    = some (1, 0, 2) := by decide +kernel
theorem test_bcinc_served : result (.atomicPerform 1 1) (ctrS (.inc 3) (elem 10 5)) (fun s => (s.elem ek).value) = some 18 := by decide +kernel
def shortE : Elem := { elem 10 2 with q := [(0, [req (.decAll 6)])] }
theorem test_shortfall : result (.shortfallRequest ek 0) (ctrS (.decAll 6) shortE) (fun s => (s.elem ek).asked) = some [(0, 4)] := by
  decide +kernel
def askedE : Elem := { shortE with asked := [(0, 4)] }
theorem test_grant : after (.counterGrant ek) (ctrS (.decAll 6) askedE) (fun s t => (t.sreg 9, (s.elem ek).reserve, (s.elem ek).allow 0))
    = some (1, 5, 1) := by decide +kernel
def poorE : Elem := { shortE with reserve := 3, asked := [(0, 4)] }
theorem test_counter_recall : result (.counterRecall ek) (ctrS (.decAll 6) poorE)
    (fun s => ((s.elem ek).recallOf.map Recall.pool, (s.elem ek).hq.length)) = some (some 3, 1) := by decide +kernel
def recalledE : Elem := { elem 0 5 with hq := [req (.set 9)], recallOf := some ⟨[], 3, 0⟩ }
theorem test_recall_answer : after (.recallAnswer ek 0) (ctrS (.set 9) recalledE)
    (fun s t => (t.sreg 9, (s.elem ek).reserve, (s.elem ek).allow 0)) = some (8, 5, 4) := by decide +kernel
def overE : Elem := { elem 10 ((2 ^ 63 - 1) / 2) with q := [(0, [req (.inc 1)])] }
theorem test_forwarded : result (.forwardedBcinc ek 0) (ctrS (.inc 1) overE) (fun s => ((s.elem ek).hq.length, (s.elem ek).recallOf.isSome))
    = some (1, true) := by decide +kernel
theorem test_counter_timeout : after (.counterRecallTimeout ek 0) { ctrS (.set 9) recalledE with thyme := 10000 }
    (fun s t => ((s.elem ek).lost, t.late.map fun f => (f.cause, f.detail))) = some (true, [(0x46, 4)]) := by decide +kernel

/-! ## Engines at work: R99, R154, R253, R258, R264, R266 -/

def copy0 : Copy := ⟨1, 1, 2, ⟨0, mkHandle 2 0⟩, ⟨1, 0x100⟩, 300, none, 0, [], 0, 0, [], [], [], [], [], 0, none, false, false, false,
  crewKey 1 0 0, 3, 0, false, pcAt 0, 0⟩
def copyT : Team := { sceneTeam with ct := [(2, ⟨1, false⟩)] }
def copyS (c : Copy) : State := { on copyT with mem := mem5, cores := [(0, { Core.reset with copies := [c] })] }
theorem test_copy_chunk : result (.copyChunk 0 1) (copyS copy0) (fun s => ((s.core 0).allow, (s.core 0).copies.map Copy.begun))
    = some (4096 - 12, [256]) := by decide +kernel
theorem test_copy_bytes : result (.copyChunk 0 1) (copyS { copy0 with len := 8 })
    (fun s => Memory.get ((s.copyRead 0 1 0).copyWrite 0 1 0).mem (2 ^ 43 + 0x100)) = some 5 := by decide +kernel
def copyDone : Copy := { copy0 with chunk := 1, arr := some 5 }
theorem test_copy_complete : after (.copyComplete 0 1) (copyS copyDone) (fun s t => ((s.core 0).copies.length, t.token 2, (s.barrier? (.tb (crewKey 1 0 0) 5)).map Barrier.arr))
    = some (0, ⟨0, false⟩, some 1) := by decide +kernel

def mat (op : MatOp) (step : Nat) : MatCmd := ⟨1, 1, 2, op, step, false, 3, 0, false, [], pcAt 0, 0⟩
def matS (op : MatOp) (step : Nat) : State := { on copyT with cores := [(0, { Core.reset with mats := [mat op step] })], tiles := [(2, [7])] }
theorem test_mzero_step : result (.matrixStep 0) (matS (.mzero 2) 0) (fun s => (s.tile 0 2).getD 0 9) = some 0 := by decide +kernel
theorem test_mat_complete : after (.engineCommandComplete 0) (matS (.mzero 2) 1) (fun s t => ((s.core 0).mats.length, t.token 2)) = some (0, ⟨0, false⟩) := by
  decide +kernel
theorem test_starved : result (.engineStarvationStart 0 true) { copyS copy0 with cycle := 512, cores := [(0, { Core.reset with copies := [copy0], allow := 10 })] }
    (fun s => ((s.core 0).allow, (s.core 0).copies.map Copy.begun)) = some (10 - 12, [256]) := by decide +kernel

/-! ## Doorbells, packets, placement, the end of a team: R29 to R42, R309, R378 -/

def packetS : State := { base with
  parts := [(0, { part with queues := [(0, { sceneQueue with tail := 1 })] })]
  mem := sceneBytes ++ rowsAt 0x48000 (scenePacket.flatMap fun q => leBytes 8 q.toNat) }
theorem test_doorbell : result (.launchQueueDoorbell 0 0 65537) base (fun s => (s.queue? 0 0).map Queue.tail) = some (some 1) := by decide +kernel
theorem test_event_head : result (.eventHeadDoorbell 0 0 3) base (fun s => (s.queue? 0 0).map Queue.evhead) = some (some 3) := by decide +kernel
theorem test_packet_read : result (.launchPacketRead 0 0) packetS (fun s => ((s.queue? 0 0).map Queue.waiting, (s.launch? 9).map Launch.pkt, s.nextId))
    = some (some (some 9), some scenePacket, 10) := by decide +kernel
theorem test_packet_refused : result (.launchPacketRead 0 0) { packetS with mem := sceneBytes }
    (fun s => ((s.queue? 0 0).map Queue.waiting, (s.queue? 0 0).map Queue.head)) = some (some none, some 1) := by decide +kernel

def pendingL : Launch := { newLaunch 0 0 sceneQueue scenePacket 0 with readAt := 5 }
def pendingS : State := { base with
  status := 1, teams := [], crews := [], fleets := [], launches := [(1, pendingL)]
  parts := [(0, { part with queues := [(0, { sceneQueue with tail := 1, waiting := some 1 })] })] }
theorem test_placement : result (.fleetPlacement 1) pendingS
    (fun s => ((s.launch? 1).map Launch.counter, (s.team? 1).map Team.pc, (s.team? 1).map fun t => t.sreg 62, (s.queue? 0 0).map Queue.head))
    = some (some 1, some (pcAt 0), some (mkHandle 4 0), some 1) := by decide +kernel
theorem test_reservation : result (.launchReservation 1) { pendingS with thyme := 1000006 } (fun s => (s.part? 0).map Part.reserve) = some (some (some 1)) := by
  decide +kernel
theorem test_reservation_early : result (.launchReservation 1) { pendingS with thyme := 1000005 } (fun s => (s.part? 0).map Part.reserve) = some (some none) := by
  decide +kernel

def endedT : Team := { sceneTeam with ended := true }
def leavingS : State := { on endedT with
  launches := [(1, { sceneLaunch with counter := 2 })]
  crews := [(crewKey 1 0 0, ⟨1, 0, 0, 0, 0, [(0, ⟨0, 3, 0, []⟩), (1, ⟨0, 3, 2, []⟩)], [], 2⟩)] }
theorem test_leaves_slot : result (.teamLeavesSlot 1) leavingS
    (fun s => (s.teams.length, (s.launch? 1).map Launch.counter, (s.barrier? (.cb (crewKey 1 0 0) 0)).map Barrier.exp, (s.barrier? (.cb (crewKey 1 0 0) 1)).map Barrier.ph))
    = some (0, some 1, some 2, some 1) := by decide +kernel
theorem test_leaves_not : result (.teamLeavesSlot 1) base (fun s => s.teams.length) = some 1 := by decide +kernel

def enqT : Team := { sceneTeam with sq := [{ sqe 1 0 0 (.enq 2 [5, 6]) with space := .core }] }
theorem test_items_enter : after (.itemsEnterList 1 1) (on enqT) (fun s t => (t.sq.length, (s.launch? 1).map fun l => Tbl.getD l.lists 2 [])) = some (0, some [5, 6]) := by
  decide +kernel
def listS : State := { on { sceneTeam with named := some 2 } with launches := [(1, { sceneLaunch with lists := [(2, [5, 6])] })] }
theorem test_item_fill : result (.itemQueueFill 0 1 2) listS (fun s => ((s.core 0).items, (s.launch? 1).map fun l => Tbl.getD l.lists 2 []))
    = some ([(1, 2, 5)], some [6]) := by decide +kernel
def backS : State := { base with launches := [(1, { sceneLaunch with lists := [(2, [6])] })], cores := [(0, { Core.reset with items := [(1, 2, 5)] })] }
theorem test_item_return : result (.itemReturn 0 1 2) backS (fun s => ((s.core 0).items, (s.launch? 1).map fun l => Tbl.getD l.lists 2 []))
    = some ([], some [5, 6]) := by decide +kernel
def waitqT : Team := { sceneTeam with wait := some ⟨.waitq 2 9, 0, 0, 0, 0⟩ }
theorem test_quiescence : result (.sageQuiescence 1) (on waitqT) (fun s => (s.launch? 1).map Launch.quiet) = some (some true) := by decide +kernel
theorem test_quiescence_not : result (.sageQuiescence 1) base (fun s => (s.launch? 1).map Launch.quiet) = some (some false) := by decide +kernel

/-! ## Waits, ticks, watchdogs, saving: R33, R49, R60, R103, R147, R231, R246, R359 -/

theorem test_wait_return : after (.waitReturn 1) { on waitqT with launches := [(1, { sceneLaunch with quiet := true })] }
    (fun _ t => (t.wait, t.sreg 9, t.pc, t.clock)) = some (none, 1, pcAt 4, 1) := by decide +kernel
theorem test_wait_stays : after (.waitReturn 1) (on waitqT) (fun _ t => t.wait.isSome) = some true := by decide +kernel
def barT : Team := { sceneTeam with wait := some ⟨.bar (.cb (crewKey 1 0 0) 0) (some 0) 9 false, 0, 0, 0, 0⟩ }
def barS (ph : Nat) : State := { on barT with crews := [(crewKey 1 0 0, ⟨1, 0, 0, 0, 0, [(0, ⟨ph, 3, 0, []⟩)], [], 1⟩)] }
theorem test_barrier_return : after (.waitReturn 1) (barS 1) (fun _ t => (t.wait, t.sreg 9)) = some (none, 1) := by decide +kernel
def memwT : Team := { sceneTeam with wait := some ⟨.memw (mkHandle 2 0) 5 false .eq 0 9, 0, 0, 0, 0⟩ }
def memwS : State := { on memwT with mem := mem5, dirs := readDirs }
theorem test_waitv_test : after (.waitvTest 1 false) memwS (fun _ t => (t.wait, t.sreg 9, t.pc)) = some (none, 5, pcAt 4) := by decide +kernel
theorem test_tick : result .heartbeatTick { framed plainFrame id with thyme := 10000 } (fun s => ((s.team? 1).map Team.pending, s.hbM)) = some (some true, 1) := by
  decide +kernel
theorem test_tick_early : result .heartbeatTick { base with thyme := 9999 } (fun s => s.hbM) = some 0 := by decide +kernel
/-- A deterministic launch with HBI 3. -/
def detLaunch : Launch := { sceneLaunch with
  pkt := (scenePacket.set 0 (scenePacket.getD 0 0 + qn (2 ^ 56))).set 2 (scenePacket.getD 2 0 + qn (3 * 2 ^ 40)) }
def detS (n : Nat) : State := { framed plainFrame fun t => { t with clock := n } with launches := [(1, detLaunch)] }
theorem test_det_tick : after (.deterministicHeartbeat 1) (detS 3) (fun _ t => t.pending) = some true := by decide +kernel
theorem test_det_between : after (.deterministicHeartbeat 1) (detS 4) (fun _ t => t.pending) = some false := by decide +kernel
theorem test_power_gate : result (.clusterPowerGate 1) { base with thyme := 50000 } (fun s => (s.cluster 1).gated) = some true := by decide +kernel
theorem test_power_gate_busy : result (.clusterPowerGate 0) { base with thyme := 50000 } (fun s => (s.cluster 0).gated) = some false := by decide +kernel
theorem test_wake : result (.clusterWake 1) { base with clusters := [(1, ⟨true, 0, true, 0⟩)], thyme := 7 } (fun s => s.cluster 1) = some ⟨false, 7, false, 0⟩ := by
  decide +kernel

def holder (tid slot : Nat) : Team := { sceneTeam with tid := tid, slot := slot }
def portsS : State := { base with
  teams := [(1, { holder 1 0 with tq := [{ loadE 2 0 with op := .fence .die }], wait := some ⟨.waitdep, 0, 0, 0, 0⟩ }), (2, holder 2 1), (3, { holder 3 2 with floor := 512 })]
  cores := [(0, { Core.reset with
    slices := [(0, ⟨0, ⟨some 1, false⟩, ⟨some 2, false⟩, [], none, none, false⟩)], icache := [(0x30000, 0xB7000000)] })] }
theorem test_floor : result (.floorDue 0) portsS (fun s => ((s.slice 0).p0.run, (s.team? 1).map Team.forced)) = some (none, some true) := by decide +kernel

theorem test_preempt : after (.preemption 1) { on { storeT with lat := [⟨0, [1]⟩] } with thyme := 7 } (fun _ t => (t.lat, t.horizon, t.owed, t.saved.isSome))
    = some ([], 1007, [1], true) := by decide +kernel
def savedT : Team := { sceneTeam with saved := some ⟨0, 0, []⟩ }
theorem test_restore : after (.restore 1 3) (on savedT) (fun _ t => (t.saved, t.slice)) = some (none, 3) := by decide +kernel
theorem test_restore_elsewhere : after (.restore 1 6) (on savedT) (fun _ t => t.saved.isSome) = some true := by decide +kernel
def limS (t : Team) : State := { on t with thyme := 5000000, parts := [(0, { part with waitlim := 5000, runlim := 5 })] }
theorem test_waitlim : after (.watchdogWaitlim 1) (limS waitqT) (fun _ t => t.park.map fun k => (k.cause, k.detail)) = some (some (0x80, 2)) := by decide +kernel
theorem test_waitlim_early : after (.watchdogWaitlim 1) { limS waitqT with thyme := 4999999 } (fun _ t => t.park.isSome) = some false := by decide +kernel
theorem test_runlim : after (.watchdogRunlim 1) (limS sceneTeam) (fun _ t => t.park.map fun k => (k.cause, k.detail)) = some (some (0x80, 8)) := by
  decide +kernel
def joinT : Team := { sceneTeam with wait := some ⟨.join, 0, 0, 0, 0⟩ }
theorem test_deadlock : after (.deadlockDetection 1) { on joinT with thyme := 100000, launches := [(1, { sceneLaunch with dead := some 0 })] }
    (fun _ t => t.park.map fun k => (k.cause, k.detail)) = some (some (0x81, 1)) := by decide +kernel
theorem test_deadlock_begins : result (.deadlockDetection 1) { on joinT with thyme := 7 } (fun s => (s.launch? 1).map Launch.dead) = some (some (some 7)) := by
  decide +kernel

/-! ## Clocks, heat, current: R3, R153, R155, R156, R362, R363 -/

theorem test_refill_cycle : result .allowanceRefill { base with frac := 7, cores := [(0, { Core.reset with allow := 4000 })] }
    (fun s => ((s.core 0).allow, s.cycle, s.thyme, s.frac)) = some (4096, 1, 1, 2) := by decide +kernel
def temps (t : Nat) : List Nat := t :: List.replicate 31 50
theorem test_hot : result (.stackTemperatureSample (temps 95) []) base (fun s => ((s.stack 0).heat, (s.stack 0).limit, s.status.toNat / 256 % 256)) = some (2, 8, 2) := by
  decide +kernel
theorem test_critical : result (.stackTemperatureSample (temps 105) []) base (fun s => ((s.stack 0).limit, (s.core 47).refill, (s.core 48).refill)) = some (1, 80, 160) := by
  decide +kernel
theorem test_limit_step : result (.thermalLimitStep 0) { base with srams := [(0, ⟨8, 2, 100, 0, false⟩)] } (fun s => (s.stack 0).limit) = some 7 := by decide +kernel
theorem test_coolant : result .coolantFlowLow base (fun s => (s.status.toNat % 256, s.status.toNat / 2 ^ 32 % 256, (s.die 7).off)) = some (3, 5, true) := by
  decide +kernel
theorem test_refresh_end : result .t2SelfRefreshEnd { base with refresh := some 9, thyme := 9 } (fun s => (s.mem.length, s.refresh)) = some (0, none) := by
  decide +kernel
def amps (a : Nat) : List Nat := a :: List.replicate 7 1000
theorem test_current : result (.railCurrentSample (amps 2501) (List.replicate 8 700)) { base with dies := [(0, { Die.reset with above := 1 })] }
    (fun s => ((s.die 0).throttle, (s.die 0).off)) = some (true, false) := by decide +kernel
theorem test_rail_trip : result (.railCurrentSample (amps 2751) (List.replicate 8 700)) base (fun s => ((s.die 0).off, (s.team? 1).map fun t => t.saved.isSome))
    = some (true, some true) := by decide +kernel
theorem test_current_step : result (.currentLimitStep 0) { base with amps := amps 2376 } (fun s => (s.core 3).refill) = some 80 := by decide +kernel
theorem test_rail_back : result (.coreRailRestore 0) { base with dies := [(0, { Die.reset with off := true, tripAt := some 5 })], thyme := 1000005 }
    (fun s => (s.die 0).off) = some false := by decide +kernel

/-! ## Errors, Thyme, migration, invalidation: R75, R83, R347 to R353, R365, R366, R372 -/

theorem test_row_error : result (.correctedError (.row (.t1 7))) { base with rowErrs := [(.t1 7, 0), (.t1 7, 0)] } (fun s => (s.rowErrs.length, s.moves)) = some (3, []) := by
  decide +kernel
theorem test_lane_error : result (.correctedError (.lane 9 3)) { base with regErrs := [(9, 3, 0), (9, 3, 0)] } (fun s => s.retired) = some [9] := by decide +kernel
theorem test_spare : result (.spareSwap (.t1 7)) { base with moves := [.row (.t1 7)] } (fun s => (s.moves, s.spared)) = some ([], [.t1 7]) := by decide +kernel
theorem test_uncorrectable : result (.uncorrectableError (.tile 0 2)) base (fun s => s.lost) = some [.tile 0 2] := by decide +kernel
theorem test_lost_load : after (.satisfyLoad 1 2 0 false) { loadS with lost := [.line 2048] } (fun _ t => t.late.map LateFault.cause) = some [0x48] := by
  decide +kernel
theorem test_regfile : after (.regfileError 1 1 5) base (fun s t => (s.retired, t.park.map fun k => (k.cause, k.detail), t.saved.isSome))
    = some ([0], some (0x82, 1), true) := by decide +kernel
theorem test_thyme_departs : result (.dieThymeDeparture 0) { base with grans := [(4, ⟨2, 7, 9, 0, 1, 2, 0, 0⟩)] } (fun s => ((s.gran 4).degree, (s.die 0).thyme)) = some (0, true) := by
  decide +kernel
theorem test_thyme_resync : result (.thymeResync 0) { base with dies := [(0, { Die.reset with thyme := true })], thyme := 7 } (fun s => ((s.die 0).thyme, (s.die 0).resync))
    = some (false, some 7) := by decide +kernel
theorem test_sync : result .moduleThymeDeparture base (fun s => s.status) = some 0x1000001 := by decide +kernel
theorem test_resync : result .moduleThymeResync { base with status := 0x1000001 } (fun s => s.status) = some 1 := by decide +kernel
def hotS : State := { base with srams := [(0, ⟨8, 1, 86, 0, false⟩)], parts := [(0, { part with mask := 3 })] }
theorem test_migrate : result (.hotGranuleMigration 0 2 0 65545) hotS (fun s => s.moves) = some [.gran 0 4 65545] := by decide +kernel
def movingS : State := { base with moves := [.gran 0 4 50], mem := mem5 }
theorem test_swap : result (.migrationSwap 4) movingS (fun s => (Memory.get s.mem (50 * 65536), s.moves)) = some (5, []) := by
  decide +kernel
def tinvalS : State := { tlbS with jobs := [.tinval 7 0 0 2] }
theorem test_tinval_done : result (.translationInvalidationComplete 0 2) tinvalS (fun s => (s.tlb.length, s.jobs)) = some (0, [.done 7 0 0]) := by decide +kernel

/-! ## Administration: R65, R114, R307 to R312, R315, R318, R358. Commands carry tag 7 -/

def cmd (c : AdminCmd) : State := { base with ring := [(7, c)] }
theorem test_pcreate : result .pcreate (cmd (.pcreate 1 2 1000)) (fun s => ((s.part? 1).map Part.mask, s.ring, s.jobs)) = some (some 2, [], [.done 7 0 0]) := by
  decide +kernel
theorem test_pcreate_taken : result .pcreate (cmd (.pcreate 1 1 1000)) (fun s => (s.parts.length, s.jobs)) = some (1, [.done 7 3 0]) := by decide +kernel
theorem test_presize : result .presize (cmd (.presize 0 3)) (fun s => ((s.part? 0).map Part.resize, s.jobs)) = some (some (some (7, 3, 0)), [.presize 7 0]) := by
  decide +kernel
def sizingS (t : Nat) : State := { base with
  thyme := t, jobs := [.presize 7 0], parts := [(0, { part with resize := some (7, 2, 0), noPlace := 1 })] }
theorem test_presize_timeout : result (.presizeTimeout 0) (sizingS 1000000000) (fun s => ((s.part? 0).map Part.resize, s.jobs)) = some (some none, [.done 7 10 0]) := by
  decide +kernel
theorem test_preset : result .preset (cmd (.preset 0)) (fun s => (s.teams.length, s.launches.length, s.asids.length, (s.part? 0).map fun p => p.queues.length))
    = some (0, 0, 0, some 0) := by decide +kernel
theorem test_pdestroy : result .pdestroy (cmd (.pdestroy 0)) (fun s => (s.parts.length, s.jobs)) = some (0, [.done 7 0 0]) := by decide +kernel
theorem test_pools : result .pools (cmd (.pools 0 0 0 0 0 0 0)) (fun s => s.jobs) = some [.done 7 5 0] := by decide +kernel
theorem test_setlease : result .setlease (cmd (.setlease 0 250)) (fun s => (s.part? 0).map Part.lease) = some (some 250) := by decide +kernel
theorem test_setlease_bad : result .setlease (cmd (.setlease 0 251)) (fun s => s.jobs) = some [.done 7 2 0] := by decide +kernel
theorem test_sethbi : result .sethbi (cmd (.sethbi 2250)) (fun s => (s.hbi, s.hbiNext)) = some (22500, some 2250) := by decide +kernel
theorem test_setwdog : result .setwdog (cmd (.setwdog 0 5 6)) (fun s => (s.part? 0).map fun p => (p.waitlim, p.runlim)) = some (some (5, 6)) := by decide +kernel
theorem test_qcreate : result .qcreate (cmd (.qcreate 0 1 0 16 0 1 7 0 16)) (fun s => ((s.queue? 0 1).map Queue.pmax, s.jobs)) = some (some 7, [.done 7 0 0]) := by
  decide +kernel
theorem test_qdestroy_runs : result .qdestroy (cmd (.qdestroy 0 0)) (fun s => s.jobs) = some [.done 7 5 0] := by decide +kernel
theorem test_otset : result .otset (cmd (.otset 0 5 0x30000 16)) (fun s => Tbl.get? s.asids 5) = some (some ⟨0, 0x30000, 16⟩) := by decide +kernel
theorem test_tinval : result .tinval (cmd (.tinval 0 0 2)) (fun s => s.jobs) = some [.tinval 7 0 0 2] := by decide +kernel
theorem test_admin_doorbell : result (.adminDoorbell [[qn (3 * 2 ^ 56 + 7 * 2 ^ 40 + 2 * 2 ^ 35), 0, 0, 0, 0, 0, 0, 0]]) base
    (fun s => (s.ring, s.adminHead)) = some ([(7, .preset 2)], 1) := by decide +kernel
theorem test_completion : result .adminCompletion (cmd .bad) (fun s => (s.posted, s.out)) = some ([(7, 1, 0)], [.msix 32 0]) := by decide +kernel
theorem test_stread_error : result (.stread none) (cmd (.stread 0 1 0 1 (2 ^ 41))) (fun s => s.jobs) = some [.done 7 7 0] := by decide +kernel
theorem test_stwrite_error : result (.stwrite false) (cmd (.stwrite 0 1 0 1 (2 ^ 41))) (fun s => s.jobs) = some [.done 7 7 0] := by decide +kernel
theorem test_hostcpy : result (.hostcpy none) { cmd (.hostcpy 0 99 (2 ^ 41) 1 true) with mem := mem5 } (fun s => (s.out, s.jobs))
    = some ([.toHost 99 [5]], [.done 7 0 0]) := by decide +kernel
theorem test_hostcpy_in : result (.hostcpy (some [6])) { cmd (.hostcpy 0 99 (2 ^ 41) 1 false) with mem := mem5 } (fun s => (Memory.get s.mem 0x40000, s.jobs))
    = some (6, [.done 7 0 0]) := by decide +kernel

/-! ## Gangs, the fabric, the host, boot: R306, R313 to R317, R370 to R375 -/

def gang2 : Gang := ⟨4, 2, 0, 0, false, 0, 0, 3, 0, true, [], none, 0, 0, [], false, 7⟩
def gangS (g : Gang) : State := { base with gangs := [(4, g)] }
theorem test_gang : result .gang (cmd (.gang 0 4 2 1 0 true 0 3)) (fun s => ((s.gang 4).count, (s.gang 4).member, s.jobs)) = some (2, 1, [.done 7 0 0]) := by
  decide +kernel
theorem test_arm : result (.arm 4 1) (gangS gang2) (fun s => ((s.gang 4).go, s.out)) = some (some 2000, [.go 4 2000]) := by decide +kernel
theorem test_go : result (.go 4 99) (gangS { gang2 with member := 1 }) (fun s => (s.gang 4).go) = some (some 99) := by decide +kernel
def gangPending : State := { pendingS with
  launches := [(1, { pendingL with gang := some 4 })], gangs := [(4, { gang2 with member := 1, launch := 1, go := some 0 })] }
theorem test_gang_start : result (.gangStart 4) gangPending (fun s => (s.launch? 1).map Launch.next) = some (some 1) := by decide +kernel
theorem test_gang_abort : result (.abort 4 1) (gangS gang2) (fun s => ((s.gang 4).closed, s.out)) = some (true, [.msix 0 0, .abort 4 1]) := by decide +kernel
theorem test_gang_done : result (.gangMemberCompletion 4 1) (gangS { gang2 with dones := [0] }) (fun s => (s.gang 4).closed) = some true := by decide +kernel
theorem test_gang_timer : result (.gangTimerExpiry 4) { gangS gang2 with thyme := 10000000 } (fun s => (s.gang 4).closed) = some true := by decide +kernel
theorem test_eager_timeout : result (.eagerGangTimeout 4) { gangS { gang2 with member := 1, eager := true } with thyme := 20000000 } (fun s => (s.gang 4).closed)
    = some true := by decide +kernel

def readReq : RemoteReq := ⟨3, 8, 0, 2, 0, .read 2⟩
theorem test_remote_read : result (.remoteRequest readReq) { base with mem := mem5 } (fun s => s.out) = some [.answer 3 8 (.ok [5, 0])] := by decide +kernel
def addReq : RemoteReq := ⟨3, 9, 0, 2, 0, .rmw .add 4 3⟩
theorem test_remote_add : result (.remoteRequest addReq) { base with mem := mem5 } (fun s => (s.out, s.rdNat 0x40000 4)) = some ([.answer 3 9 (.ok [5, 0, 0, 0])], 8) := by
  decide +kernel
def farE : SqEntry := { sqe 1 (2 ^ 100) 8 (.rmw .add 3) with space := .remote, returns := true }
def farT : Team := { sceneTeam with sq := [farE] }
def far : Remote := ⟨5, 6, ⟨0, 5, 0, 2, 0, .rmw .add 8 3⟩, .atom 1 farE, 0⟩
def farS : State := { on farT with remotes := [far] }
theorem test_remote_reply : after (.remoteReply 5 (.ok (leBytes 8 77))) farS (fun s t => (t.sreg 9, t.sq.length, s.remotes.length)) = some (77, 0, 0) := by decide +kernel
theorem test_no_route : after (.remoteNoRoute 5) { farS with thyme := 1000000 } (fun _ t => t.late.map fun f => (f.cause, f.detail)) = some [(0x83, 1)] := by
  decide +kernel
theorem test_flit : result (.flitRetry 2 false) { base with ports := [(2, ⟨true, false, 7, []⟩)] } (fun s => ((Tbl.get? s.ports 2).map FabPort.up, s.status)) = some (some false, 0x10001) := by
  decide +kernel
theorem test_link_down : result .pcieLinkDown base (fun s => s.hostLink) = some false := by decide +kernel
theorem test_link_up : result .pcieLinkUp { base with hostLink := false } (fun s => s.hostLink) = some true := by decide +kernel
theorem test_hot_reset : result .hotReset base (fun s => (s.teams.length, s.parts.length)) = some (0, 1) := by decide +kernel
theorem test_pf_reset : result .pfFunctionLevelReset { cmd .bad with jobs := [.done 6 0 0, .tinval 5 0 0 2] } (fun s => (s.ring.length, s.jobs)) = some (0, [.tinval 5 0 0 2]) := by
  decide +kernel
theorem test_vf_reset : result (.vfFunctionLevelReset 0) base (fun s => (s.teams.length, s.mem.length)) = some (0, 0) := by decide +kernel
theorem test_bar2_write : result (.hostBar2Write 0 0x40000 [9] false) { base with mem := mem5 } (fun s => Memory.get s.mem 0x40000) = some 9 := by decide +kernel
theorem test_bar2_read : result (.hostBar2Read 0 0x40000 1) { base with mem := mem5 } (fun s => s.out) = some [.bar2 [5]] := by decide +kernel
theorem test_boot : result (.boot .good) State.reset (fun s => (s.status, s.ports.length, s.adminOpen)) = some (1, 18, true) := by decide +kernel
theorem test_boot_bad : result (.boot .badKey) State.reset (fun s => s.status) = some 0x200000002 := by decide +kernel
theorem test_retry : result (.recoveryRetry .good) { State.reset with status := 0x200000002 } (fun s => s.status) = some 0 := by decide +kernel
theorem test_version : result .getVersion { base with status := 2 } (fun s => s.out.length) = some 0 := by decide +kernel
theorem test_capabilities : result .getCapabilities base (fun s => s.out.length) = some 1 := by decide +kernel
theorem test_algorithms : result (.negotiateAlgorithms [.other 5]) base (fun s => s.out) = some [.spdm 0x13 []] := by decide +kernel
theorem test_digests : result .getDigests base (fun s => s.out.length) = some 1 := by decide +kernel
theorem test_certificate : result (.getCertificate 0 0) base (fun s => s.out) = some [.spdm 0x13 []] := by decide +kernel
theorem test_challenge : result (.challenge [1]) base (fun s => s.out.length) = some 1 := by decide +kernel
theorem test_measurements : result .getMeasurements base (fun s => s.out.length) = some 1 := by decide +kernel
theorem test_redfish : result (.redfishRequest .moduleStatus) { base with status := 0x200000002 } (fun s => s.out) = some [.redfish .moduleStatus [0x200000002]] := by
  decide +kernel
theorem test_routes : result (.routesRecomputed [4, 6]) base (fun s => s.routes) = some [4, 6] := by decide +kernel

/-! ## States that meet the hypotheses of the statements, by statement and clause -/

/-- A result that is there and has a property. -/
def okAnd {ε α : Type} (x : Except ε α) (p : α → Bool) : Bool := match x with | .ok a => p a | .error _ => false

theorem okAnd_spec {ε α : Type} {x : Except ε α} {p : α → Bool} (h : okAnd x p = true) : ∃ a, x = .ok a ∧ p a = true := by
  cases x with
  | ok a => exact ⟨a, rfl, h⟩
  | error e => exact absurd h (by simp [okAnd])

theorem runs_base : Runs base sceneTeam := by decide +kernel
theorem reports_base : Reports base sceneTeam := ⟨⟨part, by decide +kernel, by decide, by decide⟩, by decide +kernel⟩

/-! ### Decoding and stepping -/

def fetchS (w : Word) (a : List Act) : State := { base with agenda := a, cores := [(0, { Core.reset with icache := [(0x30000, w)] })] }
theorem witness_step_event : (fetchS 0 [.ev .nop]).agenda = .ev .nop :: [] ∧ Instr.nop ≠ .allowanceRefill := ⟨rfl, Instr.noConfusion⟩
theorem witness_step_refill : (fetchS 0 [.ev .allowanceRefill]).agenda = .ev .allowanceRefill :: [] ∧ (fetchS 0 []).clockStands = false := by
  decide +kernel
theorem witness_chosen : Chosen { fetchS 0xB7000000 [] with todo := [(1, 0)] } (fetchS 0xB7000000 []) sceneTeam.tk 0
    ∧ Chosen { fetchS 0xB7000000 [.issue 1] with todo := [(1, 0)] } (fetchS 0xB7000000 []) sceneTeam.tk 0 :=
  ⟨⟨by decide +kernel, .inr ⟨rfl, [], rfl, rfl⟩⟩, by decide +kernel, .inl ⟨[], rfl, by decide +kernel,
    congrArg (fun l => ({ fetchS 0xB7000000 [] with todo := l } : State)) (show [] = [(1, 0)].erase (sceneTeam.tk, 0) by decide)⟩⟩
theorem witness_tick_first : ({ base with thyme := 10000 } : State).agenda = [] ∧ ({ base with thyme := 10000 } : State).tickDue = true := by decide +kernel
theorem witness_step_issue : (fetchS 0xB7000000 []).team? sceneTeam.tk = some sceneTeam ∧ (fetchS 0xB7000000 []).mayIssue sceneTeam 0 = true
    ∧ okAnd ((fetchS 0xB7000000 []).fetchWord sceneTeam sceneTeam.pc) (· == 0xB7000000) = true ∧ decodeWord 0xB7000000 = .ok .nop := by
  refine ⟨?_, ?_, ?_, ?_⟩ <;> decide +kernel
theorem witness_step_issue_next : ∃ s1, exec .nop ((fetchS 0xB7000000 []).begin sceneTeam 0xB7000000 0) = .next s1 := by
  have h : (match exec .nop ((fetchS 0xB7000000 []).begin sceneTeam 0xB7000000 0) with | .next _ => true | _ => false) = true := by decide +kernel
  split at h
  · exact ⟨_, by assumption⟩
  · cases h
theorem witness_step_illegal : (fetchS 0xFF000000 []).mayIssue sceneTeam 0 = true
    ∧ okAnd ((fetchS 0xFF000000 []).fetchWord sceneTeam sceneTeam.pc) (· == 0xFF000000) = true ∧ decodeWord 0xFF000000 = .error ⟨1, 0x7F⟩ := by
  refine ⟨?_, ?_, ?_⟩ <;> decide +kernel
/-- A team at a handle, with the descriptor of object 8 as given, and Q0 of a code object. -/
def fetchAt (h : QWord) : Team := { sceneTeam with pc := h }
def fetchD (h : QWord) (q0 q1 : Nat) : State := { on (fetchAt h) with
  mem := Memory.write sceneBytes (0x10000 + 64 * 8) (leBytes 8 q0 ++ leBytes 8 q1) }
def codeQ : Nat := 2 ^ 63 + 3 * 2 ^ 60 + 5 * 2 ^ 57
/-- What a fetch meets: the space, no TLB entry, and a property of the descriptor. -/
def fetchMeets (s : State) (t : Team) (p : Desc → Bool) : Bool :=
  Tbl.get? s.asids (s.asidOf t) == some ⟨0, 0x10000, 16⟩ && s.tlb.isEmpty
    && p ((List.range 8).map fun i => s.rdQ (0x10000 + 64 * hObj t.pc + 8 * i))
theorem witness_fetch_object : fetchMeets (on (fetchAt 0)) (fetchAt 0) (fun _ => hObj (fetchAt 0).pc == 0) = true
    ∧ fetchMeets (on (fetchAt (mkHandle 16 0))) (fetchAt (mkHandle 16 0)) (fun _ => 16 ≤ hObj (mkHandle 16 0)) = true
    ∧ fetchMeets (on (fetchAt (mkHandle 9 0))) (fetchAt (mkHandle 9 0)) (fun d => !d.valid) = true
    ∧ fetchMeets (fetchD (mkHandle 8 0) (codeQ + 3 * 2 ^ 55) 0) (fetchAt (mkHandle 8 0)) (fun d => d.valid && d.bad) = true := by decide +kernel
theorem witness_fetch_kind : fetchMeets (on (fetchAt (mkHandle 2 0))) (fetchAt (mkHandle 2 0)) (fun d => d.valid && !d.bad && d.kind != 3) = true
    ∧ fetchMeets (fetchD (mkHandle 8 0) (2 ^ 63 + 3 * 2 ^ 60) 0) (fetchAt (mkHandle 8 0)) (fun d => d.valid && !d.bad && d.kind == 3 && !d.px) = true
    ∧ fetchMeets (on (fetchAt (mkHandle 1 65533))) (fetchAt (mkHandle 1 65533)) (fun d => d.valid && !d.bad && d.kind == 3 && d.px
        && decide (d.len < hOff (mkHandle 1 65533) + 4)) = true := by decide +kernel
theorem witness_fetch_extents : fetchMeets (fetchD (mkHandle 8 0) (codeQ + 65535) 0) (fetchAt (mkHandle 8 0)) (fun d => d.valid && !d.bad && d.kind == 3 && d.px
        && decide (4 ≤ d.len) && (fetchD (mkHandle 8 0) (codeQ + 65535) 0).extBad d) = true
    ∧ fetchMeets { on (fetchAt (mkHandle 1 0)) with parts := [(0, { part with mask := 2 })] } (fetchAt (mkHandle 1 0)) (fun d => d.valid && !d.bad && d.kind == 3
        && d.px && decide (4 ≤ d.len) && !base.extBad d && granOf (base.extents d) 0 == some 3) = true
    ∧ ({ base with parts := [(0, { part with mask := 2 })] } : State).ownsGran 0 3 = false := by decide +kernel
theorem witness_fetch_parks : Reports (on (fetchAt (mkHandle 2 0))) (fetchAt (mkHandle 2 0)) ∧ (fetchAt (mkHandle 2 0)).replay = []
    ∧ (fetchAt (mkHandle 2 0)).loadsCode (mkHandle 2 0) = false ∧ (on (fetchAt (mkHandle 2 0))).fetchWord (fetchAt (mkHandle 2 0)) (mkHandle 2 0) = .error ⟨3, 2, mkHandle 2 0, 0⟩
    ∧ (on (fetchAt (mkHandle 2 0))).part? 0 = some part :=
  ⟨⟨⟨part, by decide +kernel, by decide, by decide⟩, by decide +kernel⟩, rfl, by decide +kernel, by rfl, by decide +kernel⟩
theorem witness_round_trip : (Instr.vmul ⟨true, 8, .v 1, .v 2, 0⟩).WellFormed ∧ encode (.vmul ⟨true, 8, .v 1, .v 2, 0⟩) = some 0x02900410 := by decide +kernel
theorem witness_decodes : decodeWord 0xB0000000 = .ok .rjoin := by decide +kernel
theorem witness_invariants : base.Safe ∧ ∃ s', step (fetchS 0 [.ev .nop]) = .next s' := by
  refine ⟨by decide +kernel, ?_⟩
  have h : (match step (fetchS 0 [.ev .nop]) with | .next _ => true | _ => false) = true := by decide +kernel
  split at h
  · exact ⟨_, by assumption⟩
  · cases h
theorem witness_registers : (5 : Nat) < sceneTeam.lanes ∧ (3 : Nat) ≠ 0 ∧ Memory.wf sceneBytes = true ∧ (2 : Nat) < 8 := by decide +kernel

/-! ### Lane and uniform instructions: a team that runs, with registers below its count -/

theorem witness_lanes : Runs base sceneTeam ∧ (∀ i ∈ [Instr.vadd vr, .vsel vr, .fadd vr, .hadd2 vr, .dot4i8 vr, .xscan vr, .vaddc vr, .fscale vr,
    .vclz vu, .vpop vu, .vfcls vu, .vp2v ⟨false, 4, 1⟩, .vaddi ⟨false, 4, .v 2, 3⟩, .vldi ⟨false, 63, .v 2, 3⟩, .vcmp ⟨1, .eq, .v 2, .v 3, 0⟩,
    .vcmpf ⟨1, .eq, .v 2, .v 3, 0⟩, .cvt ⟨false, 4, .v 2, .v 3, .fp16⟩, .pack ⟨false, 4, .v 2, .v 3, .i8⟩, .unpk ⟨false, 4, .v 2, .v 3, .i8⟩,
    .cvtscQ ⟨false, 4, .v 2, .v 3, .e4m3⟩, .qscale ⟨false, 4, .v 2, .v 3, .e4m3⟩],
    i.highReg sceneTeam.regs = none) := by decide +kernel
theorem witness_vv2p : ∀ c ∈ [V2PCond.any, .none, .all], (Instr.vv2p ⟨1, c, .v 2, .v 3, 0⟩).highReg sceneTeam.regs = none := by decide +kernel
theorem witness_high_reg : Runs (on { sceneTeam with regs := 4 }) { sceneTeam with regs := 4 } ∧ (Instr.vadd vr).highReg 4 = some 4 := by decide +kernel
theorem witness_uniform : Runs base sceneTeam ∧ (Instr.redadd ⟨3, 2, false, 0⟩).highReg sceneTeam.regs = none
    ∧ (Instr.vbcs ⟨4, 1, true⟩).highReg sceneTeam.regs = none ∧ (Instr.sadd sr).highReg sceneTeam.regs = none := by decide +kernel

/-! ### Accesses -/

def accT : Team := vtwo 5 8 0
theorem witness_access (sp : Space) (h : sp ∈ [Space.lane, .core, .fleet, .die, .global]) : Runs (on accT) accT
    ∧ policyFault .load (accT.policy 0) 0 = none ∧ policyFault .store (accT.policy 0) 0 = none
    ∧ (∀ a ∈ (on accT).laneAccs accT sp .load (.v 3) (if sp = .global then 1 else 0) 4 0, a.err = none)
    ∧ ∀ a ∈ (on accT).laneAccs accT sp .store (.v 3) (if sp = .global then 1 else 0) 4 0, a.err = none := by
  simp only [List.mem_cons, List.not_mem_nil, or_false] at h
  rcases h with rfl | rfl | rfl | rfl | rfl <;> decide +kernel
theorem witness_atomic : policyFault .atomic (accT.policy 0) 0 = none
    ∧ (∀ a ∈ (on accT).laneAccs accT .global .atomic (.v 3) 1 8 8, a.err = none)
    ∧ ∀ a ∈ (on accT).laneAccs accT .core .atomic (.v 3) 0 4 4, a.err = none := by decide +kernel
theorem witness_policy : PolicyMeets .load (5 * 2 ^ 28) 1 ∧ PolicyMeets .atomic (6 * 2 ^ 25) 2 ∧ PolicyMeets .store (3 * 2 ^ 23) 3
    ∧ PolicyMeets .load (2 ^ 22) 4 ∧ PolicyMeets .store (2 ^ 28) 5 ∧ PolicyMeets .load (2 * 2 ^ 28) 6 := by
  refine ⟨⟨?_, ?_⟩, ⟨?_, ?_⟩, ⟨?_, ?_⟩, ⟨?_, ?_⟩, ⟨?_, ?_⟩, ⟨?_, ?_⟩⟩ <;> (try intro e h; interval_cases e) <;> simp [PolicyBad]
theorem witness_policy_word : ({ sceneTeam with s := [(1, 2 ^ 22)] } : Team).policy 1 = 2 ^ 22 := by decide +kernel
/-- Lane 1 beyond the object; and lane 1 in a granule that is not present, with lane 0 in one that is. -/
def farLane : Team := { accT with v := [(3, [0, 0x20000])] }
def twoGrans : Memory :=
  Memory.write (Memory.write sceneBytes (0x10000 + 64 * 8) (leBytes 8 (2 ^ 63 + 6 * 2 ^ 57 + 0x1FFFF) ++ leBytes 8 (2 * 2 ^ 52 + 2 * 2 ^ 40 + 0x20200 / 64)))
    0x20200 (leBytes 8 (2 ^ 40 + 40) ++ leBytes 8 (2 ^ 40 + 2 ^ 17))
def absent : Team := { accT with v := [(3, [0, 65536])], s := [(1, mkHandle 8 0)] }
def absentS : State := { on absent with mem := twoGrans }
theorem witness_lane_fault (need : Need) (h : need ∈ [Need.load, .store, .atomic]) :
    (((on farLane).laneAccs farLane .global need (.v 3) 1 4 4).filterMap LaneAcc.err).map FInfo.cause = [0x43]
    ∧ ((absentS.laneAccs absent .global need (.v 3) 1 4 4).map fun a => a.err.map FInfo.cause) = [none, some 0x45] := by
  simp only [List.mem_cons, List.not_mem_nil, or_false] at h
  rcases h with rfl | rfl | rfl <;> decide +kernel
theorem witness_lowest (f g : FInfo) (h : f.cause < g.cause) : LowestOf [g, f] f :=
  ⟨[g], [], rfl, fun x hx => by rw [List.mem_singleton.mp hx]; exact .inl h, fun x hx => by cases hx⟩
theorem witness_lane_reports : Reports absentS absent ∧ absent.replay = [] ∧ absentS.cur.bind Cur.lanes = none ∧ absent.lanes ≤ 1024 :=
  ⟨⟨⟨part, by decide +kernel, by decide, by decide⟩, by decide +kernel⟩, rfl, rfl, by decide⟩
theorem witness_team_fault : (base.access sceneTeam .global .load (sceneTeam.rs 1) 65536 8 0 2 0).err.isSome = true
    ∧ (base.access sceneTeam .global .counter (sceneTeam.rs 1) 0 8 8 2 0).err.isSome = true := by decide +kernel
theorem witness_team_access : Runs base sceneTeam ∧ (base.access sceneTeam .global .store (sceneTeam.rs 1) 64 8 0 2 0).err = none
    ∧ (base.access sceneTeam .core .load (sceneTeam.rs 3) 0 8 0 2 0).err = none ∧ (base.access sceneTeam .global .atomic (sceneTeam.rs 1) 0 8 8 2 0).err = none := by
  decide +kernel
theorem witness_counter : policyFault .atomic (sceneTeam.policy 0) 0 = none
    ∧ (base.access sceneTeam .global .counter (sceneTeam.rs 2) 0 8 8 2 0).err = none ∧ (sceneTeam.rs 7).toNat < 2 ^ 63 := by decide +kernel
theorem witness_high_counter : 2 ^ 63 ≤ (0xFFFFFFFFFFFFFFFF#64).toNat ∧ 2 ^ 63 ≤ (0x8000000000000000#64).toNat := by decide
theorem witness_ifence : okAnd (base.desc (coreCluster sceneTeam.core) (base.asidOf sceneTeam) (sceneTeam.rs 5)) (fun d => !base.extBad d && d.kind == 3) = true := by
  decide +kernel
theorem witness_ifence_faults : okAnd (base.desc 0 0 (sceneTeam.rs 0)) (fun _ => true) = false
    ∧ okAnd ((fetchD 0 (codeQ + 65535) 0).desc 0 0 (mkHandle 8 0)) (fun d => ((fetchD 0 (codeQ + 65535) 0).extFault 0 0 (mkHandle 8 0) d).isSome) = true
    ∧ okAnd (base.desc 0 0 (sceneTeam.rs 1)) (fun d => (base.extFault 0 0 (sceneTeam.rs 1) d).isNone && d.kind != 3) = true
    ∧ okAnd (base.desc 0 0 (sceneTeam.rs 5)) (fun d => (base.extFault 0 0 (sceneTeam.rs 5) d).isNone && (base.walkLost 0 0 (sceneTeam.rs 5) d).isNone && d.kind == 3) = true
    ∧ okAnd (base.desc 0 0 (sceneTeam.rs 5)) (fun d => (({ base with lost := [.desc 0x10040] } : State).walkLost 0 0 (sceneTeam.rs 5) d).isSome) = true := by
  refine ⟨?_, ?_, ?_, ?_, ?_⟩ <;> decide +kernel
theorem witness_repl_fault : okAnd (base.checkGlobal 0 0 .load (mkHandle 9 0) 0 1 0 0) (fun _ => true) = false ∧ ∀ x d, base.walkLost 0 0 (mkHandle 2 x) d = none := by
  refine ⟨by decide +kernel, fun x d => ?_⟩
  have h : base.lost = [] := rfl
  simp [State.walkLost, State.descLost, h]
theorem witness_repl : okAnd (base.checkGlobal (coreCluster sceneTeam.core) (base.asidOf sceneTeam) .load (sceneTeam.rs 1) 0 (min (sceneTeam.rs 3).toNat 1) 0 0)
    (fun d => d.len == 65536 && (granOf (base.extents d) 0) == some 4 && (granOf (base.extents d) 1).isNone) = true ∧ base.ownsGran sceneTeam.vf 4 = true := by
  decide +kernel

/-! ### Control flow, frames, items -/

theorem witness_targets : (sceneTeam.rs 5).toNat % 4 = 0 ∧ (sceneTeam.rs 4).toNat % 4 ≠ 0 := by decide +kernel
def loopT : Team := { sceneTeam with toks := [divTok, loopTok] }
theorem witness_push : Runs base sceneTeam ∧ Stacks base sceneTeam := ⟨by decide +kernel, .inl (by decide +kernel)⟩
/-- A stack of 159 tokens, its records in the lane-private pool. -/
def deepT : Team := { sceneTeam with toks := divTok :: List.replicate 158 loopTok }
theorem deep_record (d L : Nat) (h1 : 33 ≤ d) (h2 : d ≤ 160) (hL : L < 32) :
    recordAt (on deepT) deepT d L = (8 + L) * 65536 + (0xF000 + 32 * (d - 33)) := by
  have hp : (on deepT).lanePool? deepT.vf = some (0, [qn (32 * 2 ^ 40 + 8)]) := by decide +kernel
  have ho : ∀ L, L < 32 → (on deepT).ownsGran 0 (8 + L) = true := by decide +kernel
  have hq : (deepT.region + 65536 * L + 0xF000 + 32 * (d - 33)) / 65536 = L := by
    have : deepT.region = 0 := by decide +kernel
    omega
  have hm : (deepT.region + 65536 * L + 0xF000 + 32 * (d - 33)) % 65536 = 0xF000 + 32 * (d - 33) := by
    have : deepT.region = 0 := by decide +kernel
    omega
  have h32 : fld (qn (32 * 2 ^ 40 + 8)) 63 40 = 32 := by decide
  have h8 : fld (qn (32 * 2 ^ 40 + 8)) 25 0 = 8 := by decide
  rw [recordAt, State.laneAt, hp, State.laneIn, Nat.zero_add, hq, granOf, if_pos (by rw [h32]; exact hL), h8]
  show (if (on deepT).ownsGran 0 (8 + L) = true then _ else _) = _
  rw [if_pos (ho L hL), hm]
theorem witness_deep : Runs (on deepT) deepT ∧ deepT.toks.length = 159 ∧ Stacks (on deepT) deepT := by
  refine ⟨by decide +kernel, by decide +kernel, .inr ⟨by decide +kernel, rfl, by decide +kernel, ?_⟩⟩
  intro d e L M d1 d2 e1 e2 hL hM hne
  have hl : deepT.lanes = 32 := by decide +kernel
  rw [hl] at hL hM
  rw [deep_record d L d1 d2 hL, deep_record e M e1 e2 hM]
  have : d ≠ e ∨ L ≠ M := by
    by_cases hd : d = e
    · exact .inr fun hl => hne (by rw [hd, hl])
    · exact .inl hd
  simp only [overlap, Bool.and_eq_false_iff, decide_eq_false_iff_not]
  omega
theorem witness_deep_pop : deepT.toks.length ≤ 32 ∨ (on deepT).lost = [] := .inr rfl
theorem witness_rjoin : Runs (on loopT) loopT ∧ loopT.toks.length ≤ 32 ∧ loopT.toks = divTok :: [loopTok] ∧ divTok.kind ≠ .loop := by decide +kernel
def partT : Team := { sceneTeam with lanes := 32, mask := 0b11#1024, p := [(1, 0b0110#1024)], toks := [divTok, loopTok] }
theorem witness_lanes_in : LanesIn partT 1 0b10#1024 := by
  unfold LanesIn Contributes
  decide +kernel
theorem witness_break : Runs (on partT) partT ∧ partT.toks.length < 32 ∧ partT.toks = [divTok] ++ loopTok :: [] ∧ (∀ y ∈ [divTok], y.kind ≠ .loop)
    ∧ loopTok.kind = .loop := by decide +kernel
theorem witness_token_faults : Runs (on { sceneTeam with toks := List.replicate 160 divTok }) { sceneTeam with toks := List.replicate 160 divTok }
    ∧ (List.replicate 160 divTok).length = 160 ∧ sceneTeam.toks = [] ∧ ∀ y ∈ [divTok], y.kind ≠ .loop := by decide +kernel

/-- Dill goes on to a state and a team with a property. -/
def dillAnd (d : Dill) (p : State → Team → Bool) : Bool := match d with | .go s t => p s t | .later => false
theorem dillAnd_spec {d : Dill} {p : State → Team → Bool} (h : dillAnd d p = true) : ∃ s t, d = .go s t ∧ p s t = true := by
  cases d with
  | go s t => exact ⟨s, t, rfl, h⟩
  | later => exact absurd h (by simp [dillAnd])

theorem witness_fork : AtFrame (.fork ⟨8⟩) base sceneTeam base sceneTeam ∧ (sceneTeam.sreg 62).toNat + 256 ≤ sceneTeam.fsl.toNat
    ∧ CanWrite base sceneTeam (sceneTeam.sreg 62) 0 256 := ⟨⟨by decide +kernel, by decide +kernel, rfl⟩, by decide +kernel, by decide +kernel⟩
def frameT : Team := { sceneTeam with s := Tbl.set sceneTeam.s 62 (stackAt 256) }
def frameS (b : FrameIs) : State := { base with teams := [(1, frameT)], mem := b.mem, dirs := frameDirs }
def pendT : Team := { frameT with pending := true }
/-- Pools with room for one team more. -/
def roomyPart : Part := { part with teamCtr := 2, framePool := some (stackAt 0x4000, 32768), lanePool := some (mkHandle 6 0, 64 * 65536) }
def pendS (b : FrameIs) : State := { frameS b with teams := [(1, pendT)], parts := [(0, roomyPart)] }
theorem witness_fork_flag : ∃ s1 t1, AtFrame (.fork ⟨8⟩) (pendS plainFrame) pendT s1 t1 ∧ CanWrite (pendS plainFrame) pendT (pendT.sreg 62) 0 256
    ∧ CanWrite s1 t1 (pendT.sreg 62) 0 256 ∧ t1.pending = false ∧ t1.children = 1 := by
  obtain ⟨s1, t1, h, hp⟩ := dillAnd_spec (d := (pendS plainFrame).dill pendT)
    (p := fun s1 t1 => (s1.access t1 .global .store (pendT.sreg 62) 0 256 0 0 0).err.isNone && !t1.pending && t1.children == 1) (by decide +kernel)
  simp only [Bool.and_eq_true, Option.isNone_iff_eq_none, Bool.not_eq_true', beq_iff_eq] at hp
  exact ⟨s1, t1, ⟨by decide +kernel, by decide +kernel, h⟩, by decide +kernel, hp.1.1, hp.1.2, hp.2⟩
def roomIs : Room := ⟨6, stackAt 0x4000, 32 * 65536⟩
theorem witness_dill_no_frame : (on { sceneTeam with pending := true }).oldest { sceneTeam with pending := true } = none
    ∧ ((pendS plainFrame).oldest pendT).isSome = true ∧ (pendS plainFrame).launch? 1 = some sceneLaunch ∧ sceneLaunch.cancel = false ∧ sceneLaunch.det = false := by
  decide +kernel
theorem witness_dill_no_room : ({ pendS plainFrame with parts := [(0, { part with framePool := none })] } : State).roomFor pendT = none
    ∧ ({ pendS plainFrame with cvs := [(0, [cve 1 0x40000 6])] } : State).releaseOk pendT base.nextId .partition = false := by decide +kernel
theorem witness_dill_cancelled : ({ pendS plainFrame with launches := [(1, { sceneLaunch with cancel := true })] } : State).launch? pendT.launch
    = some { sceneLaunch with cancel := true } := by decide +kernel
theorem witness_promotes (b : FrameIs) (h : b ∈ [plainFrame, loopFrame]) : ∃ bs, Promotes (pendS b) pendT sceneLaunch (stackAt 0) roomIs bs ∧ bs.length = 256 := by
  have hr : okAnd ((pendS b).readHandle ((pendS b).asidOf pendT) 0 (stackAt 0) 256) (fun bs => bs.length == 256) = true := by
    simp only [List.mem_cons, List.not_mem_nil, or_false] at h
    rcases h with rfl | rfl <;> decide +kernel
  have hf : (((pendS b).oldest pendT).map Prod.fst) = some (stackAt 0) := by
    simp only [List.mem_cons, List.not_mem_nil, or_false] at h
    rcases h with rfl | rfl <;> decide +kernel
  have ho : (pendS b).roomFor pendT = some roomIs ∧ (pendS b).team? (teamKey 0 ((pendS b).nextTid 0)) = none
      ∧ (pendS b).releaseOk pendT (pendS b).nextId .partition = true ∧ (pendS b).dillOpen pendT (stackAt 0) = true ∧ (pendS b).dillOpen pendT roomIs.fsb = true := by
    simp only [List.mem_cons, List.not_mem_nil, or_false] at h
    rcases h with rfl | rfl <;> decide +kernel
  obtain ⟨bs, e, hl⟩ := okAnd_spec hr
  obtain ⟨x, hx, e2⟩ := Option.map_eq_some_iff.mp hf
  exact ⟨bs, ⟨rfl, ⟨by rfl, rfl, .inl (by decide +kernel)⟩, ⟨x.2, by rw [hx, ← e2]⟩, ⟨ho.1, ho.2.1⟩, ho.2.2, e⟩, by simpa using hl⟩
theorem witness_dill_writes : okAnd ((pendS plainFrame).dillWrite pendT (stackAt 0) (List.replicate 16 7)) (fun _ => true) = true
    ∧ okAnd ((pendS loopFrame).dillWrite pendT roomIs.fsb (List.replicate 256 7)) (fun _ => true) = true ∧ (pendS plainFrame).Canonical
    ∧ okAnd ((pendS plainFrame).checkGlobal 999 0 .store (stackAt 0) 0 16 0 0) (fun d =>
        okAnd ((pendS plainFrame).globalPieces 999 0 0 d 4 0 16) fun ps => ps.map Piece.loc == [0x60000, 0x60008] && ps.map Piece.off == [0, 8]) = true := by
  refine ⟨?_, ?_, ?_, ?_⟩ <;> decide +kernel
theorem witness_dill_later : ({ pendS plainFrame with cvs := [(0, [cve 1 0x40000 6])] } : State).dill pendT = .later := by
  have h : (match ({ pendS plainFrame with cvs := [(0, [cve 1 0x40000 6])] } : State).dill pendT with | .later => true | .go _ _ => false) = true := by decide +kernel
  split at h
  · assumption
  · cases h
theorem witness_join_inline : AtFrame .join (frameS plainFrame) frameT (frameS plainFrame) frameT ∧ frameT.sreg 62 ≠ frameT.fsb
    ∧ okAnd ((frameS plainFrame).frameHead frameT (topFrame frameT)) (fun f => decide (f.1.kind < 2) && f.1.state == 0) = true
    ∧ (frameS plainFrame).joinFault frameT = none
    ∧ okAnd ((frameS plainFrame).frameRead frameT (topFrame frameT) 32 224) (fun _ => true) = true
    ∧ CanWrite (frameS plainFrame) frameT (topFrame frameT) 12 4 ∧ CanWrite (frameS plainFrame) frameT (topFrame frameT) 16 144 := by
  refine ⟨⟨by decide +kernel, by decide +kernel, rfl⟩, ?_, ?_, ?_, ?_, ?_, ?_⟩ <;> decide +kernel
theorem witness_join_flag : ∃ s1 t1, AtFrame .join (pendS plainFrame) pendT s1 t1
    ∧ okAnd (s1.frameHead t1 (topFrame pendT)) (fun f => f.1.state == 1 && f.1.jcell == 1) = true ∧ pendT.wait = none := by
  obtain ⟨s1, t1, h, hp⟩ := dillAnd_spec (d := (pendS plainFrame).dill pendT)
    (p := fun s1 t1 => okAnd (s1.frameHead t1 (topFrame pendT)) fun f => f.1.state == 1 && f.1.jcell == 1) (by decide +kernel)
  exact ⟨s1, t1, ⟨by decide +kernel, by decide +kernel, h⟩, hp, rfl⟩
def joinedFrame : FrameIs := ⟨2 ^ 40 + 0x80, 3 * 2 ^ 62, 0, 0, 0xF, []⟩
theorem witness_join_pops : okAnd ((frameS joinedFrame).frameHead frameT (topFrame frameT))
    (fun f => !(decide (f.1.kind < 2) && f.1.state == 0) && f.1.state != 2 && f.1.jcell == 0 && f.1.kind != 2) = true := by decide +kernel
theorem witness_join_waits : okAnd ((frameS forkedFrame).frameHead frameT (topFrame frameT))
    (fun f => !(decide (f.1.kind < 2) && f.1.state == 0) && f.1.state != 2 && f.1.jcell != 0) = true ∧ frameT.wait = none
    ∧ (frameS forkedFrame).joinFault frameT = none := by decide +kernel
theorem witness_tend_inline : (frameS takenFrame).frameOpen frameT (frameT.frameNeeds .tend) = true
    ∧ okAnd ((frameS takenFrame).frameHead frameT (topFrame frameT)) (fun f => f.1.state == 2) = true
    ∧ okAnd ((frameS takenFrame).frameRead frameT (topFrame frameT) 32 128) (fun _ => true) = true ∧ CanWrite (frameS takenFrame) frameT (topFrame frameT) 12 4
    ∧ CanWrite (frameS takenFrame) frameT (topFrame frameT) 32 128 := by
  refine ⟨?_, ?_, ?_, ?_, ?_⟩ <;> decide +kernel
theorem witness_tend : Runs base sceneTeam ∧ sceneTeam.sreg 62 = sceneTeam.fsb ∧ ∀ p, base.part? sceneTeam.vf = some p → sceneTeam.tk ∉ p.parked := by
  refine ⟨by decide +kernel, by decide +kernel, fun p h => ?_⟩
  have : base.part? sceneTeam.vf = some part := by decide +kernel
  rw [this] at h
  cases h
  decide +kernel
theorem witness_take : AtFrame (.take ⟨8, 6⟩) (frameS loopFrame) frameT (frameS loopFrame) frameT ∧ okAnd ((frameS loopFrame).frameHead frameT (topFrame frameT)) (fun f => f.1.kind == 2) = true
    ∧ CanWrite (frameS loopFrame) frameT (topFrame frameT) 16 8 ∧ (8 : BitVec 6).toNat % 2 = 0 :=
  ⟨⟨by decide +kernel, by decide +kernel, rfl⟩, by decide +kernel⟩
theorem witness_take_flag : ∃ s1 t1, AtFrame (.take ⟨8, 6⟩) (pendS loopFrame) pendT s1 t1
    ∧ okAnd (s1.frameHead t1 (topFrame pendT)) (fun f => f.1.lo == 10 && f.1.hi == 15) = true ∧ CanWrite s1 t1 (topFrame pendT) 16 8 := by
  obtain ⟨s1, t1, h, hp⟩ := dillAnd_spec (d := (pendS loopFrame).dill pendT)
    (p := fun s1 t1 => okAnd (s1.frameHead t1 (topFrame pendT)) (fun f => f.1.lo == 10 && f.1.hi == 15)
      && (s1.access t1 .global .store (topFrame pendT) 16 8 0 0 0).err.isNone) (by decide +kernel)
  rw [Bool.and_eq_true, Option.isNone_iff_eq_none] at hp
  exact ⟨s1, t1, ⟨by decide +kernel, by decide +kernel, h⟩, hp.1, hp.2⟩
theorem witness_fres : okAnd ((frameS takenFrame).resultFrame frameT) (fun h => h == some (stackAt 0)) = true
    ∧ CanWrite (frameS takenFrame) frameT (stackAt 0) (160 + 8 * 2) 8 := by decide +kernel
theorem witness_fres_open : (frameS takenFrame).frameOpen frameT (frameT.frameNeeds (.fres ⟨3, 2⟩)) = true
    ∧ okAnd ((frameS plainFrame).resultFrame frameT) (fun h => h.isNone) = true := by decide +kernel
def popS : State := { base with mem := plainFrame.mem, dirs := frameDirs }
theorem witness_frget : popS.frameOpen sceneTeam (sceneTeam.frameNeeds (.frget ⟨3, 2⟩)) = true ∧ sceneTeam.sreg 62 ≠ sceneTeam.fsl
    ∧ okAnd (popS.frameRead sceneTeam (sceneTeam.sreg 62) (160 + 8 * 2) 8) (fun _ => true) = true := by decide +kernel
theorem witness_frame_faults : (let t := { sceneTeam with s := Tbl.set sceneTeam.s 62 sceneTeam.fsl }
    Runs (on t) t ∧ t.fsl.toNat < (t.sreg 62).toNat + 256 ∧ t.sreg 62 = t.fsl) ∧ sceneTeam.sreg 62 = sceneTeam.fsb := by decide +kernel
theorem witness_frame_taken : (frameS takenFrame).frameOpen frameT (frameT.frameNeeds .join) = true
    ∧ okAnd ((frameS takenFrame).frameHead frameT (topFrame frameT)) (fun f => f.1.state == 2) = true
    ∧ okAnd ((frameS plainFrame).frameHead frameT (topFrame frameT)) (fun f => f.1.kind != 2 && f.1.state != 2) = true
    ∧ (frameS plainFrame).frameOpen frameT (frameT.frameNeeds (.take ⟨8, 6⟩)) = true := by decide +kernel
theorem witness_no_list : sceneLaunch.nlists ≤ (sceneTeam.rs 5).toNat ∧ base.launch? sceneTeam.launch = some sceneLaunch := by decide +kernel

theorem witness_list : NamesList base sceneTeam (sceneTeam.rs 4) := ⟨sceneLaunch, by decide +kernel, by decide +kernel⟩
theorem witness_available : base.available sceneTeam 1 = [] ∧ refilled.available { vteam 5 6 0 with p := [(1, 0b110#1024)] } 1 ≠ [] := by decide +kernel

/-! ### Barriers, waits, engines -/

theorem witness_bar : NamesBar base sceneTeam (.cb 2) (.cb sceneTeam.crewKey 2) ∧ NamesBar base sceneTeam (.fb 1) (.fb sceneTeam.fleetKey 1) := by
  refine ⟨⟨rfl, sceneLaunch, by decide +kernel, by decide +kernel, by decide +kernel, rfl⟩,
    ⟨rfl, sceneLaunch, by decide +kernel, by decide +kernel, by decide +kernel, rfl⟩⟩
def corLaunch : Launch := { sceneLaunch with pkt := scenePacket.set 0 (scenePacket.getD 0 0 + qn (2 ^ 54)) }
theorem witness_launch_bar : NamesBar { base with launches := [(1, corLaunch)] } sceneTeam (.lb 2) (.lb 1 2) :=
  ⟨rfl, corLaunch, by decide +kernel, by decide +kernel, rfl⟩
theorem witness_tb : NamesTb base sceneTeam 5 ∧ (base.barrier? (.tb sceneTeam.crewKey 5)).isSome = true := ⟨⟨rfl, sceneLaunch, by decide +kernel, by decide +kernel⟩, by decide +kernel⟩
theorem witness_bar_there : base.barrier? (.cb sceneTeam.crewKey 2) = some (Barrier.fresh 1) ∧ (Barrier.fresh 1).ph < 65536
    ∧ ¬ PhaseComplete (Barrier.fresh 1) 0 ∧ PhaseComplete (Barrier.fresh 1) 0xFFFF := by
  refine ⟨by decide +kernel, by decide, ?_, ⟨1, by decide⟩⟩
  rintro ⟨d, h1, h2, h3⟩
  have : (Barrier.fresh 1).ph = 0 := rfl
  omega
theorem witness_no_bar : ¬ (∃ k, NamesBar base sceneTeam (.lb 0) k) ∧ ¬ NamesTb { base with launches := [(1, { sceneLaunch with pkt := scenePacket.set 0 (qn (2 ^ 60 + 2 ^ 53)) })] } sceneTeam 0 := by
  have h1 : base.launch? sceneTeam.launch = some sceneLaunch := by decide +kernel
  refine ⟨?_, ?_⟩
  · rintro ⟨k, -, l, hl, hc, -⟩
    rw [h1] at hl
    cases hl
    exact absurd hc (by decide +kernel)
  · rintro ⟨-, l, hl, hc⟩
    have h2 : ({ base with launches := [(1, { sceneLaunch with pkt := scenePacket.set 0 (qn (2 ^ 60 + 2 ^ 53)) })] } : State).launch? sceneTeam.launch
      = some { sceneLaunch with pkt := scenePacket.set 0 (qn (2 ^ 60 + 2 ^ 53)) } := by decide +kernel
    rw [h2] at hl
    cases hl
    exact absurd hc (by decide +kernel)
theorem witness_waitv : policyFault .load (sceneTeam.policy 0) 0 = none
    ∧ okAnd (base.access sceneTeam .global .load (sceneTeam.rs 1) 0 8 8 2 0).res (fun ps => ps.length == 1) = true := by decide +kernel

def metS : State := { base with mem := sceneBytes ++ [(0x40000, 3)], dirs := readDirs }
theorem witness_waitv_met : sceneTeam.loadReady metS.nextId metS.nextId 0x40000 8 = true ∧ metS.mayRead sceneTeam metS.nextId ⟨0x40000, 8, 0, 0⟩ = true
    ∧ condW .eq (BitVec.ofNat 64 (metS.loadBytes sceneTeam metS.nextId 0x40000 8).1) (sceneTeam.rs 7) = true
    ∧ condW .eq (BitVec.ofNat 64 (base.loadBytes sceneTeam base.nextId 0x40000 8).1) (sceneTeam.rs 7) = false ∧ base.isDet sceneTeam = false := by decide +kernel

theorem witness_cpy : policyFaultCopy (cpyTeam.policy 0) 0 = none ∧ (on cpyTeam).isProducer cpyTeam = true ∧ fld (cpyTeam.rs 3) 63 53 = 0
    ∧ fld (cpyTeam.rs 3) 52 52 ≠ 1 := by decide +kernel
theorem witness_cpy_ends : EndOk (on cpyTeam) cpyTeam (fld (cpyTeam.rs 3) 45 43) (cpyTeam.rs 1) (fld (cpyTeam.rs 3) 39 0) .copyRead
    ∧ EndOk (on cpyTeam) cpyTeam (fld (cpyTeam.rs 3) 42 40) (cpyTeam.rs 2) (fld (cpyTeam.rs 3) 39 0) .copyWrite :=
  ⟨⟨.global, by decide +kernel, by decide +kernel⟩, ⟨.core, by decide +kernel, by decide +kernel⟩⟩
def cpytS : State := { on cpytTeam with mem := tensorMem }
def cpytW : Window := windowOf (cpytTeam.sreg 4) (cpytTeam.sreg 5) (cpytTeam.sreg 6) (cpytTeam.sreg 7)
theorem witness_cpyt : fld (cpytTeam.sreg 4) 63 48 = 0 ∧ fld (cpytTeam.sreg 5) 63 48 = 0 ∧ fld (cpytTeam.sreg 7) 63 15 = 0
    ∧ copySpace (fld (cpytTeam.sreg 7) 6 4) = some .core ∧ fld (cpytTeam.sreg 7) 14 14 ≠ 1 ∧ fld (cpytTeam.sreg 7) 3 0 = 15 := by decide +kernel
theorem witness_window : ∃ d, cpytS.desc (coreCluster cpytTeam.core) (cpytS.asidOf cpytTeam) (cpytTeam.rs 1) = .ok d
    ∧ WindowOk cpytS cpytTeam d (cpytTeam.rs 1) cpytW := by
  obtain ⟨d, hd, h⟩ := okAnd_spec (x := cpytS.desc (coreCluster cpytTeam.core) (cpytS.asidOf cpytTeam) (cpytTeam.rs 1))
    (p := fun d => d.kind == 1 && !cpytW.bad d.tfmt && !cpytW.dq && d.dim 0 == 64 && d.dim 1 == 16
      && (cpytS.extFault (coreCluster cpytTeam.core) (cpytS.asidOf cpytTeam) (cpytTeam.rs 1) d).isNone && (d.admits .copyRead (cpytTeam.rs 1)).isNone
      && okAnd (cpytS.checkGlobal (coreCluster cpytTeam.core) (cpytS.asidOf cpytTeam) .copyRead (mkHandle (hObj (cpytTeam.rs 1)) 0)
          (d.elemOff 0 0 0 0) 1 0 0) (fun _ => true)
      && okAnd (cpytS.checkGlobal (coreCluster cpytTeam.core) (cpytS.asidOf cpytTeam) .copyRead (mkHandle (hObj (cpytTeam.rs 1)) 0)
          (d.elemOff 63 15 0 0 + (tfBits d.tfmt - 1) / 8) 1 0 0) (fun _ => true)) (by decide +kernel)
  refine ⟨d, hd, ?_⟩
  simp only [Bool.and_eq_true, beq_iff_eq, Bool.not_eq_true', Option.isNone_iff_eq_none] at h
  obtain ⟨⟨⟨⟨⟨⟨⟨⟨h1, h2⟩, h3⟩, h4⟩, h5⟩, h6⟩, h7⟩, h8⟩, h9⟩ := h
  obtain ⟨a, ha, -⟩ := okAnd_spec h8
  obtain ⟨b, hb, -⟩ := okAnd_spec h9
  refine ⟨h1, h2, h6, h7, fun h => absurd h (by rw [h3]; decide), fun _ hi0 hi1 e0 e1 => ?_⟩
  have i0 : cpytW.i0 = 0 := by decide +kernel
  have i1 : cpytW.i1 = 0 := by decide +kernel
  have i2 : cpytW.i2 = 0 := by decide +kernel
  have i3 : cpytW.i3 = 0 := by decide +kernel
  have w0 : cpytW.w0 = 64 := by decide +kernel
  have w1 : cpytW.w1 = 16 := by decide +kernel
  have e0' : hi0 = 63 := by rw [e0, i0, w0, h4]; decide
  have e1' : hi1 = 15 := by rw [e1, i1, w1, h5]; decide
  rw [i0, i1, i2, i3, e0', e1']
  exact ⟨⟨a, ha⟩, ⟨b, hb⟩, fun h => absurd h (by rw [h3]; decide)⟩
theorem witness_producer_no : (on { sceneTeam with teamid := 1 }).isProducer { sceneTeam with teamid := 1 } = false := by decide +kernel
def sclT : Team := { wide with s := [(2, 0x177), (3, 0x4000040)] }
theorem witness_mscl : (kPerStep (fld (sclT.rs 2) 3 0) (fld (sclT.rs 2) 7 4)).isSome = true ∧ fld (sclT.rs 2) 63 10 = 0 ∧ scaleBad (sclT.rs 3) = false
    ∧ kPerStep 3 7 = none := by decide +kernel
theorem witness_mloop : Runs (on wide) wide ∧ (on wide).mayMatrix wide = true ∧ 256 ≤ wide.lanes ∧ fld (wide.rs 1) 28 20 = 2
    ∧ (4 : Nat) + (2 - 1) / min 4 (wide.lanes / 256) < wide.regs ∧ mloopBad wide.mst (wide.rs 1) ((on wide).cspkBytes wide) = none
    ∧ (Instr.mloop ⟨2, 4, false, 1, 1⟩).highReg wide.regs = none := by decide +kernel
theorem witness_mloop_narrow : base.mayMatrix sceneTeam = true ∧ sceneTeam.lanes < 256 := by decide +kernel
theorem witness_mld : (wide.rs 3).toNat + 63 * (wide.rs 3).toNat + 128 ≤ (on wide).cspkBytes wide ∧ (wide.rs 3).toNat % 4 = 0 := by decide +kernel
/-- Control words of a CPY that fail: a reserved space code, a barrier beyond TBARS, a reserved bit. -/
def cpyBad (c : Nat) : Team := { cpyTeam with s := [(1, mkHandle 2 0), (2, 0x100), (3, qn (64 + 2 ^ 40 + c))] }
def fewTb : State := { base with launches := [(1, { sceneLaunch with pkt := scenePacket.set 0 (scenePacket.getD 0 0 - qn (59 * 2 ^ 28)) })] }
theorem witness_copy_faults : 5 ≤ fld ((cpyBad (5 * 2 ^ 43)).rs 3) 45 43
    ∧ (fld ((cpyBad (2 ^ 52 + 5 * 2 ^ 46)).rs 3) 52 52 = 1 ∧ fewTb.tbarsOf sceneTeam ≤ fld ((cpyBad (2 ^ 52 + 5 * 2 ^ 46)).rs 3) 51 46)
    ∧ fld ((cpyBad (2 ^ 63)).rs 3) 63 53 ≠ 0 ∧ policyFaultCopy ((cpyBad 0).policy 0) 0 = none ∧ (on (cpyBad 0)).isProducer (cpyBad 0) = true
    ∧ (3 * 2 ^ 23 : Nat) / 2 ^ 23 % 4 = 3 ∧ (2 ^ 22 : Nat) / 2 ^ 23 % 4 ≠ 3 ∧ (2 ^ 22 : Nat) / 2 ^ 22 % 2 = 1 := by decide +kernel
theorem witness_copy_lowest (a b c : FInfo) (hb : b.cause = 0x47 ∧ b.detail = 2) (hc : c.cause = 0x47 ∧ c.detail = 4) (ha : a.cause = 0x47 ∧ a.detail = 1) :
    LowestOf [a, b, c] a ∧ LowestOf [b, c] b ∧ LowestOf [c] c := by
  refine ⟨⟨[], [b, c], rfl, by simp, ?_⟩, ⟨[], [c], rfl, by simp, ?_⟩, ⟨[], [], rfl, by simp, by simp⟩⟩
  all_goals
    intro x h
    simp only [List.mem_cons, List.not_mem_nil, or_false] at h
  · rcases h with rfl | rfl <;> omega
  · rw [h]
    omega
def wideD (d : Nat) : Team := { wide with s := [(1, qn d), (2, 0x77), (3, 0x80)] }
theorem witness_mloop_faults : (on wide).mayMatrix wide = true ∧ (on wide).cspkBytes wide = 1024 * 1024 ∧ ((on wide).slice 0).latch = none
    ∧ (Instr.mloop ⟨2, 7, false, 1, 1⟩).highReg wide.regs = none ∧ wide.regs ≤ (7 : Nat) + (2 - 1) / min 4 (wide.lanes / 256)
    ∧ fld ((wideD (2 ^ 58)).rs 1) 63 58 ≠ 0 ∧ fld ((wideD (2 ^ 29)).rs 1) 29 29 ≠ 0 ∧ 256 < fld ((wideD (257 * 2 ^ 20)).rs 1) 28 20
    ∧ fld ((wideD (2 ^ 20 + 8)).rs 1) 19 0 % 16 ≠ 0 ∧ wide.mst.aScale = none ∧ wide.mst.bScale = none := by decide +kernel
theorem witness_mloop_outside : 1024 * 1024 < (fld ((wideD (2 * 2 ^ 20 + 240 * 2 ^ 30 + (1024 * 1024 - 512))).rs 1) 19 0
      + 1 * fld ((wideD (2 * 2 ^ 20 + 240 * 2 ^ 30 + (1024 * 1024 - 512))).rs 1) 49 30) % 2 ^ 20 + 512
    ∧ (fld ((wideD (2 * 2 ^ 20 + 240 * 2 ^ 30 + (1024 * 1024 - 512))).rs 1) 19 0 + 0) % 2 ^ 20 + 512 ≤ 1024 * 1024 := by decide +kernel
theorem witness_tile_faults : 1024 * 1024 < (0xFE080#64).toNat + 63 * (0x80#64).toNat + 128 ∧ (0xFE000#64).toNat + 63 * (0x80#64).toNat + 128 ≤ 1024 * 1024
    ∧ (2#64).toNat % 4 ≠ 0 ∧ (2#64).toNat + 63 * (128#64).toNat + 32 * 4 ≤ 1024 * 1024 ∧ (1#64).toNat % 2 ≠ 0 := by decide
def forkT : Team := { sceneTeam with forked := true }
theorem witness_matrix_no : Runs (on forkT) forkT ∧ (on forkT).mayMatrix forkT = false := by decide +kernel

/-! ### Exceptions and system instructions -/

theorem witness_no_queue : ({ base with parts := [(0, { part with fqsize := 0 })] } : State).part? sceneTeam.vf = some { part with fqsize := 0 } := by decide +kernel
theorem witness_cancelled : (({ base with launches := [(1, { sceneLaunch with cancel := true })] } : State).launch? sceneTeam.launch).map Launch.cancel = some true := by
  decide +kernel
theorem witness_record : part.due = [] ∧ part.pkbase = 0 ∧ (part.fqtail + 2 ^ 32 - part.fqhead) % 2 ^ 32 < part.fqsize
    ∧ base.leftOk .partition (fun tk i => (tk == sceneTeam.tk && decide (i < base.nextId)) || sceneTeam.observed.contains i) = true
    ∧ okAnd (base.checkGlobal 999 part.fqasid .store (mkHandle 5 0) 0 64 0 0)
        (fun d => d.kind != 4 && okAnd (base.globalPieces 999 part.fqasid 0 d 5 0 64) (fun _ => true)) = true := by
  refine ⟨rfl, rfl, ?_, ?_, ?_⟩ <;> decide +kernel
theorem put_at {s : State} {asid vf n : Nat} {h : QWord} {p : List Piece → Bool} (hl : s.lost = [])
    (hc : okAnd (s.checkGlobal 999 asid .store h 0 n 0 0) (fun d => d.kind != 4 && okAnd (s.globalPieces 999 asid vf d (hObj h) (hOff h) n) p) = true) :
    ∃ ps, PutAt s asid vf h n ps ∧ p ps = true := by
  obtain ⟨d, e, hd⟩ := okAnd_spec hc
  rw [Bool.and_eq_true] at hd
  obtain ⟨ps, e2, hp⟩ := okAnd_spec hd.2
  exact ⟨ps, ⟨hl, d, e, by simpa using hd.1, e2⟩, hp⟩
/-- A team parked by a BRKPT in a partition that keeps a list, and its record. -/
def pkPart : Part := { part with pkbase := mkHandle 5 0x1000 }
def pkInfo : ParkInfo := ⟨0x0C, 0, false, pcAt 0, 0, 0, none, 1⟩
def pkTeam : Team := { sceneTeam with park := some pkInfo }
def pkRecord : Record := { faultRecord base sceneTeam ⟨0x0C, 0, 0, 7⟩ with own := 1 }
def pkS : State := { on pkTeam with parts := [(0, { pkPart with due := [pkRecord] })], cycle := 1 }
theorem witness_put_record : ∃ ps, PutAt { base with parts := [(0, { part with due := [pkRecord] })] } 0 0 (mkHandle 5 0) 64 ps :=
  let ⟨ps, h, _⟩ := put_at (p := fun _ => true) rfl (by decide +kernel)
  ⟨ps, h⟩
theorem witness_put_entry : ∃ ps, PutAt pkS 0 0 (mkHandle 5 0x1000) 256 ps ∧ pkS.releaseOk pkTeam pkRecord.own .partition = true
    ∧ pkRecord.cycle < pkS.cycle ∧ pkRecord.entered = false ∧ pkTeam.saved = none ∧ pkRecord.cause ≠ 0
    ∧ ({ pkRecord with cause := 0 } : Record).cause = 0 ∧ ({ pkPart with fqtail := 16 } : Part).fqsize ≤ (16 + 2 ^ 32 - pkPart.fqhead) % 2 ^ 32 :=
  let ⟨ps, h, _⟩ := put_at (p := fun _ => true) (s := pkS) rfl (by decide +kernel)
  ⟨ps, h, by decide +kernel⟩
def listedS : State := { on pkTeam with parts := [(0, { pkPart with parked := [1], due := [{ pkRecord with entered := true }] })] }
theorem witness_put_seq : ∃ ps qs, PutAt listedS 0 0 (mkHandle 5 0) 64 ps
    ∧ PutAt (listedS.storePieces none (Record.bytes { pkRecord with entered := true } 0) ps) 0 0 (mkHandle 5 0x1000) 256 qs := by
  obtain ⟨ps, h, hp⟩ := put_at (s := listedS) (asid := 0) (vf := 0) (h := mkHandle 5 0) (n := 64)
    (p := fun ps => let s := listedS.storePieces none (Record.bytes { pkRecord with entered := true } 0) ps
      s.lost.isEmpty && okAnd (s.checkGlobal 999 0 .store (mkHandle 5 0x1000) 0 256 0 0) fun d =>
        d.kind != 4 && okAnd (s.globalPieces 999 0 0 d (hObj (mkHandle 5 0x1000)) (hOff (mkHandle 5 0x1000)) 256) fun _ => true) rfl (by decide +kernel)
  simp only [Bool.and_eq_true] at hp
  obtain ⟨qs, h2, -⟩ := put_at (List.isEmpty_iff.mp hp.1) (by simpa only [Bool.and_eq_true] using hp.2)
  exact ⟨ps, qs, h, h2⟩
theorem witness_leave_list : (1 ∉ ([] : List Nat)) ∧ ([1] : List Nat) = [] ++ [1] ∧ ([2, 1] : List Nat) = [] ++ 2 :: ([] ++ [1]) ∧ (1 : Nat) ≠ 2
    ∧ pkS.team? 1 = some pkTeam ∧ pkTeam.park = some pkInfo := by decide +kernel
theorem witness_record_refused : okAnd (pkS.storeHandle 0 0 (mkHandle 9 0) (Record.bytes { pkRecord with entered := true } 0)) (fun _ => true) = false
    ∧ pkS.launch? pkRecord.launch = some sceneLaunch ∧ sceneLaunch.vf = 0 := by decide +kernel
theorem witness_imprecise : (on lateT).team? lateT.tk = some lateT ∧ lateT.late = { lateF with prec := false } :: [] ∧ lateT.running = true := by decide +kernel
theorem witness_imprecise_reports : Reports (on lateT) lateT := ⟨⟨part, by decide +kernel, by decide, by decide⟩, by decide +kernel⟩
theorem witness_late_precise : (on lateP).team? lateP.tk = some lateP ∧ lateP.late = [lateF] ∧ lateF.prec = true ∧ lateP.running = true ∧ lateP.wait = none := by decide +kernel
def userT : Team := { sceneTeam with level := false }
theorem witness_late_det : detLaunch.det = true ∧ ({ on lateP with launches := [(1, detLaunch)] } : State).isDet lateP = true
    ∧ ({ on lateP with launches := [(1, detLaunch)] } : State).inRun lateP = false ∧ (on lateP).isDet lateP = false := by decide +kernel
/-- A remote object and one that may be neither read nor written, as object 8. -/
def objS (kind perm : Nat) : State := { base with mem := sceneObject sceneBytes 8 kind perm 1 }
theorem witness_access_kinds : okAnd (base.desc 0 0 (mkHandle 3 0)) (fun d => d.kind == 2 && !base.extBad d) = true
    ∧ okAnd (({ base with mem := Memory.write sceneBytes 0x10200 (leBytes 8 (2 ^ 63 + 4 * 2 ^ 60 + 6 * 2 ^ 57 + 65535)) } : State).desc 0 0 (mkHandle 8 0))
        (fun d => d.kind == 4) = true
    ∧ okAnd (base.desc 0 0 (mkHandle 1 0)) (fun d => d.kind == 3 && (d.q 0).getLsbD 59 && !(d.q 0).getLsbD 58) = true
    ∧ okAnd ((objS 0 0).desc 0 0 (mkHandle 8 0)) (fun d => d.kind == 0 && !(d.q 0).getLsbD 59 && !(d.q 0).getLsbD 58 && !(objS 0 0).extBad d) = true := by
  refine ⟨?_, ?_, ?_, ?_⟩ <;> decide +kernel
theorem witness_access_bounds : 2 ^ 40 ≤ hOff (mkHandle 2 1) + (2 ^ 40 - 1) ∧ ¬ 2 ^ 40 ≤ hOff (mkHandle 2 0) + (2 ^ 40 - 1)
    ∧ okAnd (base.desc 0 0 (mkHandle 2 0)) (fun d => decide (d.len < 0 + 65529 + 8) && decide (0 + 65528 + 8 ≤ d.len)) = true ∧ (0 + 4) % 8 ≠ 0 := by decide +kernel
theorem witness_access_present : okAnd (({ base with parts := [(0, { part with mask := 2 })] } : State).checkGlobal 0 0 .load (mkHandle 2 0) 0 8 0 0) (fun d => d.kind != 4) = true
    ∧ ({ base with parts := [(0, { part with mask := 2 })] } : State).ownsGran 0 4 = false
    ∧ okAnd (base.checkGlobal 0 0 .load (mkHandle 2 0) 0 8 0 0) (fun d => okAnd (base.globalPieces 0 0 0 d 2 0 8)
        (fun ps => ps.map Piece.loc == [0x40000])) = true
    ∧ ({ base with lost := [.line 2048] } : State).readsLost sceneTeam 9 ⟨0x40000, 8, 0, 0⟩ = true ∧ base.readsLost sceneTeam 9 ⟨0x40000, 8, 0, 0⟩ = false := by
  decide +kernel
theorem witness_access_spaces : 0xF000 < (0xEFF9 : Nat) + 8 ∧ sceneLaunch.cspk * 1024 = 2 ^ 20 ∧ sceneLaunch.dspkKiB * 1024 = 2 ^ 16 ∧ sceneLaunch.ncrews = 1
    ∧ sceneLaunch.ncrews ≤ (2 ^ 19 : Nat) / 2 ^ 19 ∧ sceneLaunch.fwink * 1024 < (0x7FFF9 : Nat) % 2 ^ 19 + 8
    ∧ (0x7FFF8 : Nat) % 2 ^ 19 + 8 ≤ sceneLaunch.fwink * 1024 := by decide +kernel
theorem witness_user : Runs (on userT) userT ∧ userT.level = false ∧ 0x100 ≤ (0x110#12).toNat := by decide +kernel
theorem witness_system : base.launch? sceneTeam.launch = some sceneLaunch ∧ base.part? sceneTeam.vf = some part ∧ sceneTeam.level = true
    ∧ sysWriteBad part 0x110 (sceneTeam.rs 5) = none ∧ (0x00B ∉ [0x100, 0x101]) := by decide +kernel
theorem witness_sys_good (d : Nat) : ¬ SysBad part 0x110 (sceneTeam.rs 5) d ∧ ¬ SysBad part 0x121 (qn (256 * 2 ^ 16)) d ∧ ¬ SysBad part 0x121 (qn (32767 * 2 ^ 16)) d
    ∧ ¬ SysBad part 0x102 0 d := by
  have : part.fqtail = 0 ∧ part.fqhead = 0 ∧ part.parked = [] := by decide
  unfold SysBad
  refine ⟨?_, ?_, ?_, ?_⟩ <;> split <;> simp [this, fld, qn]
theorem witness_sys_range : SysBad part 0x101 15 3 ∧ SysBad part 0x121 (qn (255 * 2 ^ 16)) 3 ∧ SysBad part 0x121 (qn (32768 * 2 ^ 16)) 3
    ∧ SysBad part 0x123 0x011111 3 ∧ SysBad part 0x123 0x911111 3 := by
  refine ⟨.inl ⟨rfl, by decide, ?_⟩, .inr (.inl ⟨rfl, by decide⟩), .inr (.inl ⟨rfl, by decide⟩), .inr (.inr ⟨rfl, 5, by decide⟩),
    .inr (.inr ⟨rfl, 5, by decide⟩)⟩
  rintro ⟨k, h1, h2, h3⟩
  have h4 : 2 ^ 4 ≤ 2 ^ k := Nat.pow_le_pow_right (by decide) h1
  rw [← h3] at h4
  exact absurd h4 (by decide)
theorem witness_sys_busy : SysBad { part with fqtail := 1 } 0x100 0 4 ∧ SysBad part 0x102 (qn (2 ^ 32)) 4 ∧ SysBad part 0x102 1 4
    ∧ SysBad { part with parked := [5] } 0x104 0 4 ∧ ¬ SysBad { part with fqtail := 1 } 0x100 0 3 := by
  refine ⟨.inl ⟨.inl rfl, by decide⟩, .inr (.inl ⟨rfl, .inl (by decide)⟩), .inr (.inl ⟨rfl, .inr (by decide)⟩), .inr (.inr ⟨rfl, by decide⟩), ?_⟩
  rintro (⟨h, -⟩ | ⟨h, -⟩ | ⟨h, -⟩) <;> exact absurd h (by decide)
theorem witness_system_busy : ({ part with parked := [5] } : Part).parked ≠ [] ∧ ({ part with fqtail := 1 } : Part).fqhead ≠ ({ part with fqtail := 1 } : Part).fqtail := by
  decide
theorem witness_rmset_bad : ¬ (15 : Nat) % 8 < 5 ∧ (4 : Nat) % 8 < 5 := by decide
theorem witness_modes : (3 : Nat) % 8 < 5 ∧ ¬ (5 : Nat) % 8 < 5 ∧ (sceneTeam.level = true ∨ 9 ≤ sceneLaunch.prio) := by decide +kernel
theorem witness_brkpt : ({ sceneTeam with dbg := true } : Team).dbg = true ∧ ({ sceneTeam with dbg := true } : Team).brkSkip = false ∧ sceneTeam.dbg = false := by decide
theorem witness_keyed : (pair sceneTeam mate).Keyed ∧ Runs (pair sceneTeam mate) sceneTeam := by decide +kernel
theorem witness_state_is : StateIs (pair sceneTeam mate) 0 2 0 ∧ StateIs (pair sceneTeam parkedMate) 0 2 2 ∧ StateIs base 0 7 4 := by
  have h1 : (pair sceneTeam mate).team? (teamKey 0 2) = some mate := by decide +kernel
  have h2 : (pair sceneTeam parkedMate).team? (teamKey 0 2) = some parkedMate := by decide +kernel
  have h3 : base.team? (teamKey 0 7) = none := by decide +kernel
  unfold StateIs
  rw [h1, h2, h3]
  exact ⟨.inr (.inr (.inr (.inr ⟨rfl, rfl, rfl, rfl, rfl⟩))), .inr (.inr (.inl ⟨rfl, rfl, rfl, rfl⟩)), rfl⟩
theorem witness_tctl : teamKey 0 (fld (sceneTeam.rs 6) 23 0) = 2 ∧ (pair sceneTeam parkedMate).team? 2 = some parkedMate ∧ (2 : Nat) ≠ sceneTeam.tk
    ∧ parkedMate.park.map ParkInfo.cause = some 0x0C ∧ mate.launch ≠ sceneTeam.launch ∧ (pair sceneTeam mate).launch? 2 = some sceneLaunch
    ∧ sceneLaunch.done = false ∧ sceneLaunch.cancel = false := by decide +kernel
theorem witness_unlisted : Unlisted (pair sceneTeam mate) mate := by
  intro p h
  have : (pair sceneTeam mate).part? mate.vf = some part := by decide +kernel
  rw [this] at h
  cases h
  decide +kernel
theorem witness_halt : Tbl.get? part.queues (sceneTeam.rs 0).toNat = some sceneQueue ∧ base.queue? sceneTeam.vf (sceneTeam.rs 7).toNat = none := by decide +kernel
theorem witness_cancel : (∃ e ∈ base.launches, e.2.vf = sceneTeam.vf ∧ e.2.done = false ∧ e.2.lid = fld (sceneTeam.rs 4) 23 0)
    ∧ ¬ ∃ e ∈ base.launches, e.2.vf = sceneTeam.vf ∧ e.2.done = false ∧ e.2.lid = fld (sceneTeam.rs 3) 23 0 := by decide +kernel

/-! ### The ordering machine -/

theorem may_leave {s : State} {t : Team} {e : SqEntry} (hr : e.rel = none)
    (h : (∀ x ∈ t.sq, x.id < e.id → x.op.isStore = true ∨ x.op.isAtomic = true → overlap x.loc x.len e.loc e.len = false)
      ∧ (∀ x ∈ t.tq, x.id < e.base → x.overlaps e.loc e.len = false)
      ∧ (∀ x ∈ t.tq, x.id < e.base → x.acq = false ∧ x.isFence = false) ∧ ∀ x ∈ t.sq, x.id < e.base → x.acq = false) : MayLeave s t e :=
  ⟨h.1, h.2.1, h.2.2.1, h.2.2.2, fun sc hs => by rw [hr] at hs; cases hs⟩

theorem witness_satisfy : loadS.team? loadT.tk = some loadT ∧ loadT.tq.find? (fun x => x.id == 2) = some (loadE 2 0x40000)
    ∧ loadS.readsLost loadT 2 ⟨0x40000, 8, 0, 0⟩ = false
    ∧ ({ loadS with lost := [.line 2048] } : State).readsLost loadT 2 ⟨0x40000, 8, 0, 0⟩ = true := by decide +kernel
theorem witness_may_satisfy : MaySatisfy loadT 2 2 0x40000 8 := by unfold MaySatisfy; decide +kernel
theorem witness_may_read : loadS.mayRead loadT 2 ⟨0x40000, 8, 0, 0⟩ = true ∧ loadS.bankFree 2 0 0x40000 8 = true
    ∧ (on loadT).mayRead loadT 2 ⟨0x40000, 8, 0, 0⟩ = false := by decide +kernel
def heldT : Team := { loadT with sq := [sqe 1 0x40004 4 (.rmw .add 1)] }
theorem witness_may_not_satisfy : ¬ MaySatisfy heldT 2 2 0x40000 8 := fun h => absurd (h.2.2.2 (sqe 1 0x40004 4 (.rmw .add 1)) (by decide) (by decide) rfl) (by decide)
theorem witness_load_byte : ownT.sq = [] ++ sqe 1 0x40000 8 (.store 7) :: [] ∧ (∀ x ∈ loadT.sq, x.id < 2 → x.op.isStore = false)
    ∧ viewS.cv sceneTeam.core = [] ++ cve 1 0x40000 0x0807 :: [] ∧ base.cv sceneTeam.core = [] ∧ (0x40000 : Nat) < 2 ^ 42
    ∧ sceneTeam.horizon ≤ replicaS.thyme ∧ replicaS.replica? 1 2048 = some replica ∧ replicaS.replica? 0 2048 = none := by decide +kernel

theorem witness_store_leaves : storeS.team? storeT.tk = some storeT ∧ storeT.sq.find? (fun x => x.id == 1) = some (sqe 1 0x40000 8 (.store 7))
    ∧ isBank 0x40000 = false := by decide +kernel
theorem witness_may_leave : MayLeave storeS storeT (sqe 1 0x40000 8 (.store 7)) := may_leave rfl (by decide +kernel)
def bankT : Team := { sceneTeam with sq := [sqe 1 (2 ^ 43 + 8) 8 (.store 7)] }
theorem witness_bank_store : isBank (2 ^ 43 + 8) = true ∧ (on bankT).lost = [] ∧ (on bankT).writeFrozen (2 ^ 43 + 8) = false ∧ (on bankT).Canonical
    ∧ (on bankT).team? bankT.tk = some bankT := by decide +kernel
theorem witness_bank_leaves : MayLeave (on bankT) bankT (sqe 1 (2 ^ 43 + 8) 8 (.store 7)) := may_leave rfl (by decide +kernel)
theorem witness_may_not_leave : ¬ MayLeave (on fencedT) fencedT (sqe 1 0x40000 8 (.store 7)) :=
  fun h => absurd (h.2.2.1 _ (List.mem_singleton_self _) (by decide)).2 (by decide)
theorem witness_perform : viewS.cv 0 = [] ++ cve 1 0x40000 0x0807 :: [] ∧ viewS.writeFrozen 0x40000 = false ∧ viewS.Canonical ∧ viewS.lost = []
    ∧ viewS.partials = [] ∧ (0x40000 : Nat) % 8 + 8 ≤ 8 := by decide +kernel
theorem witness_may_write : viewS.mayWrite 0 0 0x40000 8 = true ∧ ({ viewS with dirs := [] } : State).mayWrite 0 0 0x40000 8 = false
    ∧ (viewS.dir (l2Die 0) 2048).rvec = 0 := by decide +kernel
theorem witness_perform_collapse : ({ ownDir with rvec := 0b10 } : Dir).rvec.getLsbD 1 = true ∧ 1 ∉ ({ ownDir with rvec := 0b10 } : Dir).col ∧ (1 : Nat) ≠ coreDie 0
    ∧ l2Die 0 = 0 ∧ replica.bytes.length = 128 ∧ (cve 1 0x40000 6).lane = false := by decide +kernel
def viewTwo : State := { base with cvs := [(0, [cve 1 0x40000 6, cve 2 0x40004 7])] }
theorem witness_perform_blocked : viewTwo.cv 0 = [cve 1 0x40000 6] ++ cve 2 0x40004 7 :: [] ∧ overlap 0x40000 8 0x40004 8 = true := by decide +kernel

theorem witness_atomic_performs : atomS.team? atomT.tk = some atomT ∧ atomT.sq.find? (fun x => x.id == 1) = some (sqe 1 0x40000 8 (.rmw .add 3))
    ∧ atomS.cvClear atomT.core 0x40000 8 = true ∧ atomS.writeFrozen 0x40000 = false ∧ atomS.lost = [] ∧ atomS.Canonical
    ∧ leNat (Memory.read atomS.mem 0x40000 8) = 5 := by decide +kernel
theorem witness_atomic_leaves : MayLeave atomS atomT (sqe 1 0x40000 8 (.rmw .add 3)) := may_leave rfl (by decide +kernel)
theorem witness_bank_free : atomS.bankFree 1 0 0x40000 8 = true ∧ (on bankT).bankFree 1 0 (2 ^ 43 + 8) 8 = true
    ∧ (((on bankT).serveBank 9 0 (2 ^ 43 + 8) 8)).bankFree 1 0 (2 ^ 43 + 8) 8 = false ∧ (((on bankT).serveBank 1 1 (2 ^ 43 + 8) 8)).bankFree 1 0 (2 ^ 43 + 8) 8 = false := by
  decide +kernel
theorem witness_may_atomic : atomS.mayAtomic atomT.core 0 0x40000 = true
    ∧ ({ atomS with dirs := [(2048, { dir0 with htok := 63, mode := 1, ptrs := [5], toks := [(5, 1)] })] } : State).mayAtomic atomT.core 0 0x40000 = false
    ∧ ({ atomS with lost := [.line 2048] } : State).lostIn 0x40000 8 ≠ [] := by decide +kernel
theorem witness_atomic_remote_not : (sqe 1 0x40000 8 (.rmw .add 3)).space ≠ .remote ∧ (sqe 1 0x40000 8 (.cas 5 5)).len = 8
    ∧ ((5#64).toNat % 2 ^ 64 ≠ 5) = False := by decide
theorem witness_atomic_blocked : ({ atomS with cvs := [(0, [cve 0 0x40004 6])] } : State).cvClear atomT.core 0x40000 8 = false := by decide +kernel
def arriveE : SqEntry := arrivalEntry base sceneTeam (.cb (crewKey 1 0 0) 2) (.uni 9)
def arriveT : Team := { sceneTeam with sq := [arriveE] }
theorem witness_arrival : (on arriveT).team? arriveT.tk = some arriveT ∧ arriveT.sq.find? (fun x => x.id == arriveE.id) = some arriveE
    ∧ (on arriveT).barrier? (.cb (crewKey 1 0 0) 2) = some (Barrier.fresh 1) := by decide +kernel
theorem witness_arrival_leaves : MayLeave (on arriveT) arriveT arriveE :=
  ⟨by decide +kernel, by decide +kernel, by decide +kernel, by decide +kernel, fun sc h => by cases h; decide +kernel⟩
theorem test_arrive : after (.atomicPerform 1 9) (on arriveT) (fun s t => (t.sreg 9, t.sq.length, (s.barrier? (.cb (crewKey 1 0 0) 2)).map Barrier.ph))
    = some (0, 0, some 1) := by decide +kernel
def trigT : Team := { sceneTeam with sq := [sqe 1 0 0 .trig] }
theorem witness_trig : (on trigT).team? trigT.tk = some trigT ∧ trigT.sq.find? (fun x => x.id == 1) = some (sqe 1 0 0 .trig) := by decide +kernel
theorem witness_trig_leaves : MayLeave (on trigT) trigT (sqe 1 0 0 .trig) := may_leave rfl (by decide +kernel)
theorem witness_remote_atomic : (on farT).team? farT.tk = some farT ∧ farT.sq.find? (fun x => x.id == 1) = some farE ∧ farE.space = .remote
    ∧ (on farT).remoteWaits farT.tk 1 = false := by decide +kernel
theorem witness_remote_leaves : MayLeave (on farT) farT farE := may_leave rfl (by decide +kernel)

theorem witness_fence : (on fenceT).team? fenceT.tk = some fenceT ∧ (on fenceT).releaseOk fenceT 2 .die = true
    ∧ fenceT.tq.find? (fun x => x.id == 2) = some { loadE 2 0 with op := .fence .die, dest := .none } := by decide +kernel
theorem witness_fence_blocked : cve 1 0x40000 6 ∈ ({ on fenceT with cvs := [(0, [cve 1 0x40000 6])] } : State).cv 0 ∧ (1 : Nat) < 2
    ∧ (cve 1 0x40000 6).tk = fenceT.tk ∧ (cve 1 0x40000 6).loc < 2 ^ 64 := by decide +kernel
theorem witness_fence_copy : ({ copy0 with away := true } : Copy) ∈ (({ on fenceT with cores := [(0, { Core.reset with copies := [{ copy0 with away := true }] })] } :
    State).core 0).copies ∧ copy0.tk = fenceT.tk ∧ copy0.id < 2 := by decide +kernel
def partialS : State := { on fenceT with replicas := [(replicaKey 1 2048, replica)], partials := [⟨1, 1, 2048, 0, 0, 5, [], [], 0⟩] }
theorem witness_partial : partialS.foreignReplica 2048 0 0 5 = true := by decide +kernel
theorem witness_replica : Tbl.get? replicaS.replicas (replicaKey 1 2048) = some replica ∧ replicaS.thyme < replica.exp ∧ replica.exp ≤ 500 := by decide +kernel
theorem witness_walk : Tbl.get? base.asids 0 = some ⟨0, 0x10000, 16⟩ ∧ base.tlb = [] ∧ base.lost = []
    ∧ (let d : Desc := (List.range 8).map (fun i => base.rdQ (0x10000 + 64 * 2 + 8 * i))
      d.valid = true ∧ d.bad = false ∧ d.kind ≠ 4 ∧ base.extBad d = false ∧ granOf (base.extents d) 0 = some 4) := by decide +kernel

/-! ### Tokens, degrees, counters -/

theorem dir_off {d : Dir} {ms : List Msg} {die : Nat} (h : die ≠ 0) : (dirS d ms).dir die 2048 = base.dir die 2048 := by
  have : ¬ 2048 = replicaKey die 2048 := by unfold replicaKey; omega
  simp only [State.dir, dirS, Tbl.getD, Tbl.get?, if_neg this]
  rfl
theorem line_ok {d : Dir} {ms : List Msg} (h : Tbl.wf d.toks = true) : (dirS d ms).LineOk 2048 := by
  intro die
  by_cases h0 : die = 0
  · subst h0
    exact h
  · rw [dir_off h0]
    exact rfl
theorem witness_line_ok : heldS.LineOk 2048 := line_ok (by decide)
theorem witness_tokens : evictS.Tokens64 2048 := by
  intro die
  by_cases h0 : die = 0
  · subst h0
    decide +kernel
  · have h : evictS.dir die 2048 = base.dir die 2048 := dir_off h0
    have hm : evictS.msgs = [.evict 0 0 2048 1 none] := rfl
    have h1 : ¬ 0 = die := fun e => h0 e.symm
    have hd : base.dir die 2048 = Dir.reset := rfl
    simp only [State.tokensOf, h, hm, hd, List.map, h1, false_and, if_false]
    rfl
theorem witness_may_ask : tlbS.asking 0 2048 = false ∧ (tlbS.lineHome 0 2048).isSome = true ∧ Tbl.getD (tlbS.dir (coreDie 0) 2048).nacks 0 0 < 2
    ∧ 2 ≤ Tbl.getD (persS.dir 0 2048).nacks 0 0 ∧ persS.asking 0 2048 = false := by decide +kernel
def getS : State := dirS dir0 [.getx 0 0 2048]
theorem witness_arrives : Arrives getS (.getx (coreDie 0) 0 2048) [] 0 2048 0 2 ∧ Arrives wantS (.getx (coreDie 0) 0 2048) [] 0 2048 0 2
    ∧ Arrives (dirS dir0 [.gets 0 0 2048]) (.gets (coreDie 0) 0 2048) [] 0 2048 0 2 :=
  ⟨⟨rfl, by decide +kernel, .inl rfl⟩, ⟨rfl, by decide +kernel, .inl rfl⟩, ⟨rfl, by decide +kernel, .inl rfl⟩⟩
theorem witness_free_line : (getS.dir 0 2048).opened = none ∧ (getS.dir 0 2048).mode = 0 ∧ (getS.dir 0 2048).htok = 64 ∧ (getS.dir 0 2048).held 0 = 0
    ∧ getS.coming 0 2048 = 0 ∧ (getS.dir 0 2048).getx = [] ∧ (getS.dir 0 2048).ptrs = [] ∧ (getS.dir 0 2048).rvec = 0
    ∧ coreDie 0 = l2Die 2 := by decide +kernel
theorem witness_open_line : openS.msgs = .gets (coreDie 0) 0 2048 :: [] ∧ (openS.dir 0 2048).opened.isSome = true
    ∧ persOn.msgs = .pers (coreDie 0) 0 2048 true 0 :: [] ∧ (persOn.dir 0 2048).opened.isSome = true := by decide +kernel
theorem witness_messages : dataS.msgs = .data 0 0 2048 1 zeros :: [] ∧ downS.msgs = .down 0 0 2048 :: [] ∧ downS.coming 0 2048 = 0
    ∧ recallS.msgs = .recall 0 5 2048 0 :: [] ∧ recallS.coming 5 2048 = 0 ∧ nackS.msgs = .nack 0 0 2048 :: []
    ∧ collapseS.msgs = .collapse 1 2048 :: [] ∧ (collapseS.dir 1 2048).opened = none ∧ (collapseS.dir 1 2048).mode = 0
    ∧ (collapseS.dir 1 2048).htok = 64 ∧ (collapseS.dir 1 2048).pers = [] ∧ cackS.msgs = .cack 1 2048 :: []
    ∧ 1 ∈ (cackS.dir 0 2048).col ∧ (dataS.dir 0 2048).mode ≠ 3 := by decide +kernel
def privS : State := dirS { dir0 with mode := 3, masks := [(0, 0xFF)], opened := some (5, false, 1) } [.recall 0 0 2048 0]
theorem witness_private : privS.msgs = .recall (coreDie 0) 0 2048 0 :: [] ∧ privS.coming 0 2048 = 0 ∧ (privS.dir 0 2048).mode = 3
    ∧ privS.moves = [] ∧ privS.lost = [] := by decide +kernel
theorem test_private_recall : result (.recall 0 2048) { privS with cvs := [(0, [cve 1 0x40000 0x0807])] }
    (fun s => (s.rdNat 0x40000 8, s.cv 0, s.msgs)) = some (0x0807, [], [.tack 0 0 2048 0 (some (7 :: 8 :: List.replicate 126 0))]) := by decide +kernel
def tackTwo : State := dirS { dir0 with htok := 62, mode := 1, ptrs := [5, 6], opened := some (0, true, 2) } [.tack 0 5 2048 1 none]
theorem witness_tack : tackTwo.msgs = .tack 0 5 2048 1 none :: [] ∧ (tackTwo.dir 0 2048).opened = some (0, true, 0 + 2) := by decide +kernel
theorem witness_evict : 0 < (heldS.dir 0 2048).held 0 ∧ heldS.msgs = [] ∧ (evictS.dir 0 2048).opened = none ∧ (evictS.dir 0 2048).pers = []
    ∧ evictS.msgs = .evict (coreDie 0) 0 2048 1 none :: [] := by decide +kernel
theorem witness_private_covered : (privS.dir (coreDie 0) 2048).covers 0 0x40000 8 = true ∧ (0x40000 : Nat) % 8 + 8 ≤ 8 := by decide +kernel
theorem witness_collapse_col : (collapseS.dir 1 2048).opened = none ∧ (({ collapseS with dirs := (2049 + 2 ^ 40, dir0) :: [] } : State).dir 0 2048).col = []
    ∧ (collapseS.dir 0 2048).col ≠ [] ∧ ({ collapseS with thyme := 500 } : State).thyme = (collapseS.dir 0 2048).lapse ∧ collapseS.thyme < (collapseS.dir 0 2048).lapse := by
  decide +kernel
theorem witness_collapse_open : (({ collapseS with dirs := [(2048, { dir0 with opened := some (5, true, 1) })] } : State).dir 0 2048).opened.isSome = true := by decide +kernel
theorem witness_getx_away : ({ ownDir with rvec := 0b10, col := [1], lapse := 500 } : Dir).rvec.getLsbD 1 = true ∧ replicaS.thyme < 500
    ∧ (Tbl.get? replicaS.replicas (replicaKey 1 2048)).isSome = true := by decide +kernel
/-- The same deadline of a request that is being served, and a load that waits for the line. -/
def urgentS : State := { dirS { dir0 with opened := some (0, true, 1), urgent := some 0 } [] with thyme := 20000, launches := [], teams := [(1, loadT)] }
theorem witness_urgent : (∀ p ∈ (urgentS.dir (coreDie 0) 2048).pers, p.1 ≠ 0) ∧ (urgentS.dir (coreDie 0) 2048).opened.map (·.1) = some 0
    ∧ (urgentS.dir (coreDie 0) 2048).urgent = some 0 ∧ 0 + 20000 ≤ urgentS.thyme ∧ urgentS.Keyed ∧ urgentS.team? 1 = some loadT ∧ loadT.saved = none
    ∧ loadT.core = 0 ∧ overlap 0x40000 8 (128 * 2048) 128 = true ∧ (persLate.dir (coreDie 0) 2048).opened.map (·.1) ≠ some 0 := by decide +kernel
theorem witness_deadlines : (persLate.dir (coreDie 0) 2048).pers.find? (fun p => p.1 == 0) = some (0, true, 0) ∧ 0 + 20000 ≤ persLate.thyme
    ∧ recallLate.msgs = .recall 0 5 2048 0 :: [] ∧ 0 + 10000 ≤ recallLate.thyme ∧ recallS.thyme < 0 + 10000 := by decide +kernel
theorem witness_window_end : (({ base with thyme := 10000 } : State).window + 1) * 10000 ≤ 10000 := by decide

theorem witness_counter_served : (ctrS (.decAll 3) (elem 10 5)).cvClear (ctrT (.decAll 3)).core 0x50000 8 = true
    ∧ (ctrS (.decAll 3) (elem 10 5)).writeFrozen 0x50000 = false ∧ Tbl.wf (elem 10 5).alw = true ∧ 3 ≤ (elem 10 5).allow 0 ∧ (elem 10 5).allow 0 < 6
    ∧ (elem 10 5).allow 0 + 3 ≤ ctrMax / (2 * max part.dies.length 1)
    ∧ (ctrS (.decAll 3) (elem 10 5)).team? (ctrT (.decAll 3)).tk = some (ctrT (.decAll 3)) := by decide +kernel
theorem witness_counter_lost : ({ elem 10 5 with lost := true } : Elem).lost = true
    ∧ (ctrS (.decAll 3) { elem 10 5 with lost := true }).ctrWaits ek 1 1 = false ∧ (∀ v, CtrOp.decAll 3 ≠ .set v) :=
  ⟨rfl, by decide +kernel, fun v h => by cases h⟩
theorem witness_quiet : Quiet ((ctrS (.decAll 3) (elem 10 5)).elem ek) := by unfold Quiet; decide +kernel
theorem witness_counter_leaves : MayLeave (ctrS (.decAll 3) (elem 10 5)) (ctrT (.decAll 3)) (sqe 1 0x50000 8 (.ctr ek (.decAll 3))) :=
  may_leave rfl (by decide +kernel)
theorem witness_counter_grant : askedE.recallOf = none ∧ askedE.lost = false ∧ askedE.hq = [] ∧ askedE.asked = [(0, 4)] ∧ 4 ≤ askedE.reserve
    ∧ askedE.queue 0 = [req (.decAll 6)] ∧ 6 = askedE.allow 0 + 4 ∧ Tbl.wf askedE.alw = true := by decide +kernel
theorem witness_counter_recall : poorE.recallOf = none ∧ (∃ a ∈ poorE.asked, poorE.reserve < a.2) ∧ (elem 10 5).hq = [] ∧ (elem 10 5).asked = [] := by decide +kernel
def twoDies : State := { ctrS (.set 9) recalledE with parts := [(0, { part with mask := 0x11 })] }
theorem witness_recall_answer : twoDies.elemDies (twoDies.elem ek) = [0, 1] ∧ (twoDies.elem ek).recallOf = some ⟨[], 3, 0⟩ := by decide +kernel
theorem witness_recall_last : (ctrS (.set 9) recalledE).elemDies recalledE = [0] ∧ recalledE.hq = [req (.set 9)] ∧ recalledE.q = []
    ∧ (ctrS (.set 9) recalledE).team? 1 = some (ctrT (.set 9)) := by decide +kernel
theorem witness_forwarded : overE.lost = false ∧ overE.asked = [] ∧ overE.hq = [] ∧ overE.recallOf = none ∧ overE.queue 0 = req (.inc 1) :: []
    ∧ ctrMax / (2 * max ((ctrS (.inc 1) overE).elemDies overE).length 1) < overE.allow 0 + 1 := by decide +kernel

/-! ### Engines -/

theorem witness_copy : CopyIs (copyS { copy0 with len := 8 }) 0 copyT { copy0 with len := 8 }
    ∧ (copyS { copy0 with len := 8 }).partReady 0 copyT { copy0 with len := 8 } = true
    ∧ ((copyS { copy0 with len := 8 }).core 0).admits copyT.prio (((copyS { copy0 with len := 8 }).core 0).cost 7) = true := by
  unfold CopyIs
  decide +kernel
theorem witness_copy_mapped : okAnd ((copyS { copy0 with len := 8 }).mapChunk copyT { copy0 with len := 8 }) (fun c => c.reads.length == 1 && c.puts.length == 1) = true
    ∧ okAnd ((copyS { copy0 with len := 8 }).endPieces copyT copy0.src .copyRead 0 8) (fun ps => ps.map Piece.loc == [0x40000]) = true
    ∧ okAnd ((copyS { copy0 with len := 8 }).endPieces copyT copy0.dst .copyWrite 0 8) (fun ps => ps.map Piece.loc == [2 ^ 43 + 0x100]) = true := by
  refine ⟨?_, ?_, ?_⟩ <;> decide +kernel
def copyFar : Copy := { copy0 with src := ⟨0, mkHandle 9 0⟩ }
theorem witness_copy_fault : CopyIs (copyS copyFar) 0 copyT copyFar ∧ (copyS copyFar).partReady 0 copyT copyFar = true
    ∧ (match (copyS copyFar).mapChunk copyT copyFar with | .error f => f.cause != 0x45 | .ok _ => false) = true := by
  unfold CopyIs
  decide +kernel
def copyHalf : Copy := { copy0 with
  len := 8, chunk := 1, reads := [⟨⟨0x40000, 8, 0, 0⟩, 0, some 2⟩] }
def copyFull : Copy := { copy0 with
  len := 8, chunk := 1, buf := [(0, 5), (1, 0), (2, 0), (3, 0), (4, 0), (5, 0), (6, 0), (7, 0)], puts := [⟨⟨2 ^ 43 + 0x100, 8, 0, 0⟩, 0, none⟩] }
theorem witness_copy_read : CopyIs (copyS copyHalf) 0 copyT copyHalf ∧ copyHalf.reads[0]? = some ⟨⟨0x40000, 8, 0, 0⟩, 0, some 2⟩
    ∧ (copyS copyHalf).mayCopyRead copyHalf ⟨⟨0x40000, 8, 0, 0⟩, 0, some 2⟩ = true ∧ Tbl.wf copyHalf.buf = true ∧ (copyS copyHalf).lost = [] := by
  unfold CopyIs
  decide +kernel
theorem witness_copy_write : CopyIs (copyS copyFull) 0 copyT copyFull ∧ copyFull.puts[0]? = some ⟨⟨2 ^ 43 + 0x100, 8, 0, 0⟩, 0, none⟩
    ∧ (copyS copyFull).putReady 0 copyFull ⟨⟨2 ^ 43 + 0x100, 8, 0, 0⟩, 0, none⟩ = true
    ∧ copyFull.bytes 0 8 = some [5, 0, 0, 0, 0, 0, 0, 0] ∧ copyFull.win = none := by
  unfold CopyIs
  decide +kernel
def copyWin : Copy := { copy0 with
  win := some ⟨0, 0, 0, 0, 2, 1, 64, false, 15⟩, buf := [(0, 9), (1, 8)]
  geo := (List.range 8).map fun i => ({ base with mem := tensorMem } : State).rdQ (0x10000 + 64 * 7 + 8 * i) }
theorem witness_copyt : copyWin.elem ⟨0, 0, 0, 0, 2, 1, 64, false, 15⟩ 1 0 = some 8 ∧ copyWin.elem ⟨63, 0, 0, 0, 2, 1, 64, false, 15⟩ 1 0 = some 0
    ∧ tfBits (Desc.tfmt copyWin.geo) = 8 ∧ Desc.dim copyWin.geo 0 = 64 ∧ Desc.dim copyWin.geo 1 = 16
    ∧ copyWin.source (Desc.elemOff copyWin.geo 1 0 0 0) 1 = some [8] := by decide +kernel
theorem witness_copy_refused : ({ Core.reset with allow := 10 } : Core).admits copyT.prio (({ Core.reset with allow := 10 } : Core).cost 7) = false := by decide +kernel
theorem witness_copy_done : copyDone.held = false ∧ copyDone.size ≤ copyDone.begun ∧ copyDone.reads = [] ∧ copyDone.puts = [] ∧ (copyS copyDone).copyOpen copyT copyDone = true
    ∧ copyDone.remote = 0 ∧ (copyS copyDone).copyLevel copyDone = true ∧ (copyS copyDone).barrier? (.tb copyDone.crew 5) = some (Barrier.fresh 0)
    ∧ copy0.begun < copy0.size ∧ (copyS copyDone).copyOver copyT copyDone = true := by decide +kernel
theorem witness_head : HeadIs (matS (.mzero 2) 0) 0 copyT (mat (.mzero 2) 0) [] := by unfold HeadIs; decide +kernel
theorem witness_mat_ready : (matS (.mzero 2) 0).matReady 0 copyT (mat (.mzero 2) 0) = true ∧ (matS (.mld 2 0 128) 0).matReady 0 copyT (mat (.mld 2 0 128) 0) = true
    ∧ (matS (.mst 2 0 128 .fp32 0) 0).matReady 0 copyT (mat (.mst 2 0 128 .fp32 0) 0) = true ∧ 32 * 4 ≤ (128#64).toNat
    ∧ (matS (.mzero 2) 0).Canonical ∧ zeroTile.length = 2048 := by
  refine ⟨?_, ?_, ?_, ?_, ?_, ?_⟩ <;> decide +kernel
def loopOp : MatOp := .mloop 2 0 512 2 0 [[], []] { sceneTeam.mst with afmt := 7, bfmt := 7 }
theorem witness_loop_step : (matS loopOp 0).matReady 0 copyT (mat loopOp 0) = true
    ∧ ((matS loopOp 0).core 0).admits copyT.prio (((matS loopOp 0).core 0).cost 6) = true
    ∧ ({ Core.reset with allow := 10 } : Core).admits copyT.prio (({ Core.reset with allow := 10 } : Core).cost 6) = false
    ∧ loopOp.isLoop = true ∧ (mat loopOp 0).last + 512 ≤ ({ matS loopOp 0 with cycle := 512 } : State).cycle := by decide +kernel
theorem witness_stepped : (({ base with cores := [(0, { Core.reset with stepped := true })] } : State).core 0).stepped = true ∧ (base.core 0).stepped = false
    ∧ (copyS copy0).lost = [] ∧ (matS loopOp 0).lost = [] := by decide +kernel
theorem witness_mat_done : (mat (.mzero 2) 1).op.steps ≤ (mat (.mzero 2) 1).step ∧ (mat (.mzero 2) 0).step < (mat (.mzero 2) 0).op.steps
    ∧ base.cycle < copy0.last + 512 := by decide +kernel

/-! ### Placement and teams -/

theorem witness_packet : packetS.status.toNat % 256 = 1 ∧ packetS.queue? 0 0 = some { sceneQueue with tail := 1 } ∧ packetS.gangs = []
    ∧ okAnd (packetS.readHandle 0 0 (mkHandle (hObj sceneQueue.base) (hOff sceneQueue.base + 128 * 0)) 128) (fun bs => packetOf bs == scenePacket) = true := by
  refine ⟨?_, ?_, ?_, ?_⟩ <;> decide +kernel
theorem witness_packet_good : (newLaunch 0 0 sceneQueue scenePacket 0).badField 7 false = none ∧ packetS.neverFits part (newLaunch 0 0 sceneQueue scenePacket 0) = none
    ∧ (newLaunch 0 0 sceneQueue (List.replicate 16 0) 0).badField 7 false = some 60 ∧ part.jobCancel = [] ∧ part.phases = [] := by decide +kernel
theorem witness_packet_cancelled : (newLaunch 0 0 sceneQueue scenePacket 0).lid ∈ ({ part with cancelled := [(newLaunch 0 0 sceneQueue scenePacket 0).lid] } : Part).cancelled
    ∧ part.cancelled = [] ∧ ∀ e ∈ packetS.teams, e.2.launch ≠ packetS.nextId := by decide +kernel
theorem witness_place_team : (({ base with teams := [] } : State).placeTeam 1 sceneLaunch 0 0 0 3).isSome = true ∧ base.launch? 1 = some sceneLaunch ∧ sceneLaunch.lanes ≤ 1024 := by decide +kernel
theorem witness_placement : pendingS.launch? 1 = some pendingL ∧ pendingL.gang = none ∧ ((pendingS.nextPlacement 0).map fun x => (x.1, pendingS.wakes x.2)) = some (1, [])
    ∧ base.nextPlacement 0 = none := by
  have : (base.nextPlacement 0).isNone = true := by decide +kernel
  exact ⟨by decide +kernel, by decide +kernel, by decide +kernel, Option.isNone_iff_eq_none.mp this⟩
theorem witness_reservation : (1, pendingL) ∈ ({ pendingS with thyme := 1000006 } : State).pending 0 ∧ pendingL.readAt + 1000000 < 1000006
    ∧ ({ pendingS with thyme := 1000006 } : State).pending 0 = [(1, pendingL)] := by decide +kernel
theorem witness_leaves : leavingS.team? endedT.tk = some endedT ∧ leavingS.mayLeaveSlot endedT = true ∧ endedT.forked = false
    ∧ (leavingS.launch? endedT.launch).map Launch.counter = some 2 ∧ (leavingS.launch? endedT.launch).map Launch.det = some false
    ∧ (Tbl.get? leavingS.crews endedT.crewKey).map Crew.left = some 2 := by decide +kernel
def lastT : Team := { endedT with forked := true }
def lastS : State := { on lastT with launches := [(1, { sceneLaunch with counter := 1 })] }
theorem witness_leaves_last : lastS.mayLeaveSlot lastT = true ∧ lastT.origin = none ∧ sceneLaunch.nfleets ≤ sceneLaunch.next ∧ sceneLaunch.done = false := by decide +kernel
theorem test_leaves_last : result (.teamLeavesSlot 1) lastS (fun s => (s.launch? 1).map fun l => (l.done, l.trig, l.counter)) = some (some (true, true, 0)) := by
  decide +kernel
theorem witness_items_enter : enqT.sq.find? (fun x => x.id == 1) = some { sqe 1 0 0 (.enq 2 [5, 6]) with space := .core } ∧ sceneLaunch.cancel = false
    ∧ (on enqT).itemsHeld 0 + 2 ≤ (on enqT).listRoom 0 := by decide +kernel
theorem witness_items_leave : MayLeave (on enqT) enqT { sqe 1 0 0 (.enq 2 [5, 6]) with space := .core } := may_leave rfl (by decide +kernel)
theorem witness_item_fill : listS.names 0 1 2 = true ∧ ((listS.launch? 1).map fun l => (Tbl.getD l.lists 2 [], l.det)) = some ([5, 6], false)
    ∧ (listS.core 0).items.length < 1024 ∧ backS.names 0 1 2 = false ∧ (backS.core 0).items = [(1, 2, 5)] := by decide +kernel
theorem witness_quiescent : (on waitqT).quiescent 1 sceneLaunch = true ∧ base.team? 1 = some sceneTeam ∧ sceneTeam.wait = none := by decide +kernel

theorem waits_of {t : Team} {w : Wait} (ht : (on t).team? t.tk = some t) (hw : t.wait = some w) (hr : t.running = true)
    (hl : (on t).isDet t = false) : Waits (on t) t w := ⟨ht, hw, hr, hl⟩
theorem witness_waits : Waits (on waitqT) waitqT ⟨.waitq 2 9, 0, 0, 0, 0⟩ ∧ Waits (on memwT) memwT ⟨.memw (mkHandle 2 0) 5 false .eq 0 9, 0, 0, 0, 0⟩ :=
  ⟨waits_of (by decide +kernel) rfl (by decide) (by decide +kernel), waits_of (by decide +kernel) rfl (by decide) (by decide +kernel)⟩
theorem witness_wait_bar : (barS 1).barrier? (.cb (crewKey 1 0 0) 0) = some ⟨1, 3, 0, []⟩ ∧ PhaseComplete ⟨1, 3, 0, []⟩ 0 ∧ ¬ PhaseComplete ⟨0, 3, 0, []⟩ 0 := by
  refine ⟨by decide +kernel, ⟨1, by decide⟩, ?_⟩
  rintro ⟨d, h1, h2, h3⟩
  have : (Barrier.mk 0 3 0 []).ph = 0 := rfl
  omega
theorem witness_wait_dep : base.depsTest sceneTeam = true
    ∧ ({ base with launches := [(1, { sceneLaunch with pkt := scenePacket.set 7 1 })] } : State).depsTest sceneTeam = false := by decide +kernel
def tokT : Team := { sceneTeam with ct := [(1, ⟨1, false⟩)] }
theorem witness_wait_tok : (∀ k, k < 8 → (0b01#8).getLsbD k = true → (tokT.token k).busy = 0 ∧ (tokT.token k).failed = false)
    ∧ ∃ k, k < 8 ∧ (0b10#8).getLsbD k = true ∧ (tokT.token k).busy ≠ 0 := ⟨by decide +kernel, 1, by decide +kernel⟩
theorem witness_wait_tok_any : tokT.token 0 = ⟨0, false⟩ ∧ (∀ k, k < 8 → (0b10#8).getLsbD k = true → (tokT.token k).busy ≠ 0) ∧ (0b10#8).getLsbD 1 = true
    ∧ ({ sceneTeam with ct := [(1, ⟨0, true⟩)] } : Team).token 1 = ⟨0, true⟩ := by decide +kernel
def tbWaitT : Team := { sceneTeam with wait := some ⟨.tb (.tb (crewKey 1 0 0) 5) 0 9, 0, 0, 0, 0⟩ }
theorem witness_wait_tb : Waits (on tbWaitT) tbWaitT ⟨.tb (.tb (crewKey 1 0 0) 5) 0 9, 0, 0, 0, 0⟩
    ∧ (on tbWaitT).barrier? (.tb (crewKey 1 0 0) 5) = some (Barrier.fresh 0) ∧ ¬ PhaseComplete (Barrier.fresh 0) 0 ∧ PhaseComplete ⟨1, 0, 0, [0]⟩ 0 := by
  refine ⟨waits_of (by decide +kernel) rfl (by decide) (by decide +kernel), by decide +kernel, ?_, ⟨1, by decide⟩⟩
  rintro ⟨d, h1, h2, h3⟩
  have : (Barrier.fresh 0).ph = 0 := rfl
  omega
def joinWait (b : Bool) : Team := { frameT with wait := some ⟨.join, 0, 0, 0, 0⟩, pending := b }
def joinState (b : Bool) (f : FrameIs) : State := { frameS f with teams := [(1, joinWait b)], parts := [(0, roomyPart)] }
theorem join_tests (b : Bool) (f : FrameIs) (n : Nat) (hl : (joinState b f).isDet (joinWait b) = false) (hr : (joinWait b).running = true)
    (ht : (joinState b f).team? (joinWait b).tk = some (joinWait b)) (ho : (joinState b f).frameOpen (joinWait b) ((joinWait b).frameNeeds .join) = true)
    (hj : State.joinFault { joinState b f with cur := some ⟨(joinWait b).tk, 0, none⟩ } (joinWait b) = none)
    (hd : dillAnd (State.dill { joinState b f with cur := some ⟨(joinWait b).tk, 0, none⟩ } (joinWait b)) (fun s1 t1 =>
      okAnd (s1.frameHead t1 (topFrame (joinWait b))) fun x => !(decide (x.1.kind < 2) && x.1.state == 0) && x.1.jcell == n) = true) :
    ∃ s1 t1 x, JoinTests (joinState b f) (joinWait b) ⟨.join, 0, 0, 0, 0⟩ s1 t1 x ∧ x.jcell = n := by
  obtain ⟨s1, t1, h, hp⟩ := dillAnd_spec hd
  obtain ⟨x, hx, hq⟩ := okAnd_spec hp
  rw [Bool.and_eq_true, beq_iff_eq] at hq
  refine ⟨s1, t1, x.1, ⟨⟨ht, rfl, hr, hl⟩, rfl, ho, hj, h, x.2, hx, ?_⟩, hq.2⟩
  have := hq.1
  simp only [Bool.not_eq_true', Bool.and_eq_false_iff, decide_eq_false_iff_not, beq_eq_false_iff_ne] at this
  omega
theorem witness_wait_join : ∃ s1 t1 x, JoinTests (joinState false joinedFrame) (joinWait false) ⟨.join, 0, 0, 0, 0⟩ s1 t1 x ∧ x.jcell = 0 :=
  join_tests false joinedFrame 0 (by decide +kernel) (by decide) (by decide +kernel) (by decide +kernel) (by decide +kernel) (by decide +kernel)
theorem witness_wait_join_not : ∃ s1 t1 x, JoinTests (joinState false forkedFrame) (joinWait false) ⟨.join, 0, 0, 0, 0⟩ s1 t1 x ∧ x.jcell = 1 :=
  join_tests false forkedFrame 1 (by decide +kernel) (by decide) (by decide +kernel) (by decide +kernel) (by decide +kernel) (by decide +kernel)
theorem witness_wait_join_flag : ∃ s1 t1 x, JoinTests (joinState true plainFrame) (joinWait true) ⟨.join, 0, 0, 0, 0⟩ s1 t1 x ∧ x.jcell = 1 :=
  join_tests true plainFrame 1 (by decide +kernel) (by decide) (by decide +kernel) (by decide +kernel) (by decide +kernel) (by decide +kernel)
theorem witness_wait_quiet : (on waitqT).enqsDone 1 = true ∧ (on enqT).enqsDone 1 = false ∧ (on waitqT).available waitqT 2 = []
    ∧ ({ on waitqT with cores := [(0, { Core.reset with items := [(1, 2, 5)] })] } : State).available waitqT 2 ≠ [] := by decide +kernel
def word32T : Team := { sceneTeam with wait := some ⟨.memw (mkHandle 2 0) 5 true .eq 0 9, 0, 0, 0, 0⟩ }
theorem witness_wait_word32 : okAnd (memwS.access word32T .global .load (mkHandle 2 0) 0 4 4 2 0).res (fun ps => ps.map Piece.loc == [0x40000]) = true
    ∧ condW .eq (BitVec.ofNat 32 5) ((5 : QWord).setWidth 32) = true := by decide +kernel
theorem witness_wait_word : okAnd (memwS.access memwT .global .load (mkHandle 2 0) 0 8 8 2 0).res (fun ps => ps.map Piece.loc == [0x40000]) = true
    ∧ condW .eq (BitVec.ofNat 64 5) 5 = true := by decide +kernel
theorem witness_wait_word_may : MaySatisfy memwT memwS.nextId memwS.nextId 0x40000 8 := by unfold MaySatisfy; decide +kernel
theorem witness_tick : ({ base with thyme := 10000 } : State).nextTick ≤ 10000 ∧ ({ base with thyme := 10000 } : State).Keyed ∧ base.thyme < base.nextTick := by
  decide +kernel
theorem witness_det_tick : detLaunch.det = true ∧ detLaunch.hbi = 3 ∧ (3 : Nat) % 3 = 0 ∧ sceneTeam.hbAt ≠ 3 := by decide +kernel
theorem witness_saved : Unlisted base sceneTeam ∧ base.isDet sceneTeam = false ∧ (on savedT).mayRestore savedT 3 = true ∧ sceneLaunch.bound = true
    ∧ (Tbl.get? base.crews sceneTeam.crewKey).map Crew.core = some 0 := by
  refine ⟨?_, by decide +kernel, by decide +kernel, by decide +kernel, by decide +kernel⟩
  intro p h
  have : base.part? sceneTeam.vf = some part := by decide +kernel
  rw [this] at h
  cases h
  decide +kernel
theorem witness_waitlim : (5000 : Nat) * 1000 ≤ 0 + ((limS waitqT).thyme - 0) ∧ ((limS waitqT).part? 0).map Part.waitlim = some 5000
    ∧ (limS waitqT).testWait waitqT ⟨.waitq 2 9, 0, 0, 0, 0⟩ true = limS waitqT := by
  refine ⟨by decide, by decide +kernel, rfl⟩
theorem witness_runlim : (limS sceneTeam).teams = [(sceneTeam.tk, sceneTeam)] ∧ sceneLaunch.placedAt = some 0 ∧ 0 + 5 * 1000000 ≤ (limS sceneTeam).thyme
    ∧ sceneTeam.running = true ∧ sceneTeam.rlFired = false := by decide +kernel
theorem witness_stuck : (on joinT).stuck 1 = true ∧ base.stuck 1 = false ∧ (on joinT).teams = [(joinT.tk, joinT)] ∧ joinT.running = true := by decide +kernel
theorem witness_late_save : (lateT.lateFirst.map fun e => e.prec) = some false ∧ sceneTeam.lateFirst = none ∧ Reports (on lateT) lateT :=
  ⟨by decide +kernel, by decide +kernel, ⟨part, by decide +kernel⟩, by decide +kernel⟩
def gatedS : State := { pendingS with clusters := (List.range 3).map fun c => (c, { gated := true, waking := false, idle := 0, gatedAt := 7 }) }
theorem witness_wakes : gatedS.launch? 1 = some pendingL ∧ ((gatedS.nextPlacement 0).map fun x => (x.1, gatedS.wakes x.2)) = some (1, [0]) := by decide +kernel
theorem witness_gate : ({ base with thyme := 50000 } : State).clusterBusy 1 = false ∧ (base.cluster 1).gated = false ∧ (base.cluster 1).idle + 50000 ≤ 50000
    ∧ base.clusterBusy 0 = true := by decide +kernel

theorem witness_wait_read : okAnd (memwS.access memwT .global .load (mkHandle 2 0) 0 8 8 2 0).res
    (fun ps => ps.all fun p => memwS.mayRead memwT memwS.nextId p) = true := by decide +kernel
theorem witness_not_quiescent : base.endDone sceneTeam = false ∧ sceneTeam.wait = none := by decide +kernel

/-! ### Clock, power, errors -/

theorem witness_floor : portsS.Keyed ∧ (portsS.slice 0).p0.run = some 1 ∧ (portsS.slice 0).p1.run = some 2 ∧ (portsS.slice 0).p0.prot = false
    ∧ portsS.eligible { holder 1 0 with tq := [{ loadE 2 0 with op := .fence .die }], wait := some ⟨.waitdep, 0, 0, 0, 0⟩ } = false
    ∧ { holder 3 2 with floor := 512 } ∈ portsS.rotation 0 ∧ portsS.eligible { holder 3 2 with floor := 512 } = true := by
  refine ⟨?_, ?_, ?_, ?_, ?_, ?_, ?_⟩ <;> decide +kernel
theorem witness_refill : base.Keyed ∧ base.todo = [] ∧ fld base.status 7 0 = 1 ∧ ({ base with todo := [(1, 0)] } : State).todo ≠ []
    ∧ fld State.reset.status 7 0 ≠ 1 ∧ fld State.reset.status 7 0 ≠ 3 := by decide +kernel
theorem witness_times : base.nextHeat ≤ base.thyme ∧ base.nextAmps ≤ base.thyme ∧ (base.stack 0).next ≤ base.thyme ∧ (base.die 0).next ≤ base.thyme
    ∧ base.thyme < ({ base with nextHeat := 5, nextAmps := 5 } : State).nextHeat := by decide +kernel
theorem witness_floor_runs : ({ holder 3 2 with floor := 512 } : Team).running = true ∧ ({ holder 3 2 with floor := 512 } : Team).wait = none := by decide +kernel
theorem witness_temps : (temps 95).length = 32 ∧ (∀ t ∈ temps 95, t < 105) ∧ (∀ u ∈ temps 105, u < 115) ∧ (temps 105)[0]? = some 105 ∧ (base.stack 0).heat < 3
    ∧ (∃ t ∈ temps 115, 115 ≤ t) ∧ fld base.status 7 0 ≠ 3 := by decide +kernel
theorem witness_temps_others : ∀ j u, j / 4 = 0 / 4 → j ≠ 0 → (temps 105)[j]? = some u → u < 105 ∨ 3 ≤ (base.stack j).heat := by
  intro j u h h0 hj
  have : j < 4 := by omega
  obtain rfl | rfl | rfl : j = 1 ∨ j = 2 ∨ j = 3 := by omega
  all_goals
    cases hj
    exact .inl (by decide)
theorem witness_amps : (amps 2501).length = 8 ∧ (∀ a ∈ amps 2501, a ≤ 2750) ∧ 2750 < 2751 ∧ 20000 < (List.replicate 8 2501).sum ∧ (amps 2501).sum < 19000
    ∧ (base.die 0).off = false ∧ (base.die 0).lost = false ∧ (base.die 0).tripAt = none ∧ savedT.saved ≠ none := by decide +kernel
theorem witness_refresh : ({ base with refresh := some 9 } : State).refresh = some 9 := rfl
theorem witness_heat : ({ base with srams := [(0, ⟨8, 1, 90, 0, false⟩)] } : State).stack 0 = ⟨8, 1, 90, 0, false⟩
    ∧ ({ base with srams := [(0, ⟨8, 1, 91, 0, false⟩)] } : State).stack 0 = ⟨8, 1, 91, 0, false⟩
    ∧ (∃ q, q < 4 ∧ 3 ≤ (({ base with srams := [(0, ⟨1, 3, 106, 0, false⟩)] } : State).stack (4 * 0 + q)).heat) := ⟨by decide +kernel, by decide +kernel, 0, by decide +kernel⟩
theorem witness_limiting : 2375 < (amps 2376).getD 0 0 ∧ (amps 2249).getD 0 0 < 2250 ∧ 2250 ≤ (amps 2300).getD 0 0 ∧ (amps 2300).getD 0 0 ≤ 2375
    ∧ (({ base with dies := [(0, { Die.reset with limiting := true })] } : State).die 0).limiting = true ∧ 10 < (base.core 3).refill
    ∧ ({ Core.reset with refill := 10 } : Core).refill ≤ 10 ∧ (∀ q, q < 4 → (base.stack (4 * 0 + q)).heat < 3) := by decide +kernel
theorem witness_rail : (({ base with dies := [(0, { Die.reset with off := true, tripAt := some 5 })], thyme := 1000005 } : State).die 0).tripAt = some 5
    ∧ ¬ (1000005 : Nat) < 5 + 1000000 ∧ fld base.status 7 0 ≠ 3 := by decide +kernel
theorem witness_spares : (0 < base.spareLeft (Config.spareRegion (.t1 7)) ∨ base.spareLeft (Config.spareRegion (.t1 7)) = 0) ∧ MemRow.t1 7 ∉ base.noSpare
    ∧ LostUnit.line 3 ≠ .elem 0 := ⟨(Nat.eq_zero_or_pos _).symm, by decide +kernel, by decide⟩
theorem witness_errors : base.rowCount (.t1 7) < 3 ∧ 3 ≤ ({ base with rowErrs := List.replicate 3 (.t1 7, 0) } : State).rowCount (.t1 7)
    ∧ base.laneErrs 9 3 < 2 ∧ 2 ≤ ({ base with regErrs := [(9, 3, 0), (9, 3, 0)] } : State).laneErrs 9 3 := by decide +kernel
theorem witness_thyme : (0, part) ∈ base.parts ∧ 0 ∈ part.dies ∧ physGran (4 * 65536) = some 0 ∧ part.owns 0 = true ∧ 1 ∈ ({ part with mask := 0x11 } : Part).dies := by
  decide +kernel
theorem witness_migration : hotS.mayMigrate 0 4 65545 = true ∧ base.mayMigrate 0 4 65545 = false := by decide +kernel
theorem witness_swap : movingS.moves = [.gran 0 4 50] ∧ movingS.pinsAllow 0 4 50 = true ∧ movingS.Canonical ∧ movingS.lost = []
    ∧ (movingS.objDesc 0 2).map (fun d => (granOf (movingS.extents d) 0, (movingS.extents d).map fun e => decide (fld e 25 0 + fld e 63 40 ≤ 2 ^ 26))) = some (some 4, [true])
    ∧ (movingS.mappings 0 4).map (fun m => (m.1, m.2.1, m.2.2.1)) = [(0, 2, 0)] := by decide +kernel
/-- The table of object 2 lies below its extent list, which lies outside granules 4 and 50. -/
theorem witness_swap_apart : (movingS.objDesc 0 2).map (fun d => (decide (movingS.descLoc 0 2 + 16 ≤ d.extp), decide (d.extp + 8 * d.ecap ≤ 50 * 65536),
      movingS.newExtents d 4 50)) = some (true, true, [BitVec.ofNat 64 (2 ^ 40 + 50)]) := by decide +kernel
theorem witness_swap_lost : (.line 2048 : LostUnit) ∈ [LostUnit.line 2048] ∧ 2048 / 512 = 4 ∧ (.line 25600 : LostUnit) ∈ [LostUnit.line 25600] ∧ 25600 / 512 = 50
    ∧ 4096 / 512 ≠ 4 ∧ 4096 / 512 ≠ 50 := by decide
theorem witness_drained : tinvalS.jobs = [.tinval 7 0 0 2] ∧ tinvalS.drained 0 2 = true
    ∧ ({ tinvalS with cvs := [(0, [cve 1 0x40000 6])] } : State).drained 0 2 = false := by decide +kernel
def movedT : Team := { sceneTeam with sq := [sqe 1 (9 * 65536) 8 (.store 7)] }
def movedS : State := { tinvalS with teams := [(1, movedT)] }
theorem witness_retranslate : movedS.jobs = [.tinval 7 0 0 2] ∧ movedS.drained 0 2 = true ∧ movedS.Keyed ∧ movedT.tq = []
    ∧ movedS.namesObj 0 2 1 (mkHandle 2 0) = true ∧ movedS.namesObj 0 3 1 (mkHandle 2 0) = false
    ∧ okAnd (movedS.newPlace movedT (mkHandle 2 0) (9 * 65536)) (fun a => a.1 == 0x40000) = true := by
  refine ⟨?_, ?_, ?_, ?_, ?_, ?_, ?_⟩ <;> decide +kernel
theorem witness_counter_gone : tinvalS.counterGone 0 2 = true ∧ tinvalS.counterGone 0 3 = false := by decide +kernel
theorem witness_regfile : Reports base sceneTeam ∧ base.Keyed ∧ (∀ e ∈ base.teams, e.1 ≠ sceneTeam.tk → e.2.slice ≠ sceneTeam.slice)
    ∧ (∃ i, i < 6 ∧ 6 * (sceneTeam.slice / 6) + i ≠ sceneTeam.slice ∧ 6 * (sceneTeam.slice / 6) + i ∉ base.retired) ∧ savedT.saved.isSome = true :=
  ⟨⟨⟨part, by decide +kernel⟩, by decide +kernel⟩, by decide +kernel, by decide +kernel, ⟨1, by decide +kernel⟩, rfl⟩
theorem witness_departure : (∀ e ∈ base.replicas, base.thyme < e.2.exp) ∧ base.thymeFrozen 0 = false
    ∧ ({ base with dies := [(0, { Die.reset with thyme := true })] } : State).thymeFrozen 0 = true
    ∧ ({ base with dies := [(0, { Die.reset with resync := some 0 })], thyme := 999 } : State).thymeFrozen 0 = true
    ∧ ({ base with dies := [(0, { Die.reset with resync := some 0 })], thyme := 1000 } : State).thymeFrozen 0 = false := by decide +kernel

/-! ### Administration, gangs, fabric, host -/

theorem witness_admin : AdminAt (cmd (.pcreate 1 2 1000)) 7 (.pcreate 1 2 1000) [] ∧ base.part? 1 = none ∧ base.part? 0 = some part ∧ LeaseOk 1000 ∧ ¬ LeaseOk 251 := by
  unfold LeaseOk
  decide +kernel
theorem witness_command_words : fld (0x0307000000000000#64) 34 0 = 0 ∧ fld (0x0307000000000000#64) 63 56 = 3 ∧ fld (0x0307000000000000#64) 55 40 = 0x700
    ∧ fld (1#64) 34 0 ≠ 0 ∧ fld (0x0900000000000000#64) 63 56 ∉ [1, 2, 3, 4, 5, 6, 7, 8, 0x10, 0x11, 0x12, 0x13, 0x20, 0x30, 0x31] := by decide
theorem witness_free_granules : GransFree base 2 ∧ ¬ GransFree base 1 := by
  unfold GransFree
  refine ⟨by decide +kernel, fun h => absurd (h 0 (by decide) (by decide)).1 (by decide +kernel)⟩
def awayS : State := copyS { copy0 with away := true }
theorem witness_reset_ready : ResetReady base 0 part ∧ ¬ ResetReady { base with dies := [(0, { Die.reset with off := true })] } 0 part
    ∧ awayS.awayBusy 0 = true ∧ awayS.railsUp part = true := by decide +kernel
theorem witness_hot_reset : (∀ e ∈ base.parts, base.awayBusy e.1 = false) ∧ (∀ e ∈ tlbS.tlb, e.cluster < 96) := by decide +kernel
theorem witness_presize : (∀ e ∈ base.parts, e.2.resize = none) ∧ (3 : Nat) < 2 ^ 32 := by decide +kernel
def sizedS : State := { sizingS 5 with crews := [], teams := [], fleets := [] }
theorem witness_resizing : sizedS.parts = [(0, { part with resize := some (7, 2, 0), noPlace := 1 })]
    ∧ sizedS.resizeQuiet 0 { part with resize := some (7, 2, 0), noPlace := 1 } = true ∧ sizedS.jobs = [.presize 7 0] := by decide +kernel
theorem test_presize_done : result .presize sizedS (fun s => ((s.part? 0).map Part.mask, s.jobs)) = some (some 2, [.done 7 0 0]) := by decide +kernel
theorem witness_presize_late : 0 + 1000000000 ≤ (sizingS 1000000000).thyme
    ∧ (sizingS 1000000000).resizeClear 0 { part with resize := some (7, 2, 0), noPlace := 1 } 2 = false
    ∧ sizedS.resizeClear 0 { part with resize := some (7, 2, 0), noPlace := 1 } 2 = true := by decide +kernel
theorem witness_pools : (∀ e ∈ pendingS.launches, e.2.vf = 0 → e.2.done = true ∨ e.2.next = 0) ∧ ∃ e ∈ base.launches, e.2.vf = 0 ∧ e.2.done = false ∧ 0 < e.2.next := by
  decide +kernel
theorem witness_qcreate : RingOk 16 ∧ Tbl.get? base.asids 0 = some ⟨0, 0x10000, 16⟩ ∧ Tbl.get? part.queues 1 = none ∧ (Tbl.get? part.queues 0).isSome = true :=
  ⟨⟨4, by decide⟩, by decide +kernel, by decide +kernel, by decide +kernel⟩
def stoppedQ : Queue := { sceneQueue with stopped := true }
theorem witness_qdestroy : (stoppedQ.stopped = true ∧ stoppedQ.waiting = none ∧ stoppedQ.head = stoppedQ.tail) ∧ ¬ (sceneQueue.stopped = true) := by decide
theorem witness_otset : (∀ a, Tbl.get? base.asids 5 = some a → a.vf = 0) ∧ base.ownsGran 0 (0x30000 / 65536) = true ∧ base.ownsGran 0 (2 ^ 33 / 65536) = false := by
  refine ⟨fun a h => absurd h (by rw [show Tbl.get? base.asids 5 = none from rfl]; simp), ?_, ?_⟩ <;> decide +kernel
theorem witness_same_counter : base.sameCounter base 0 3 = true ∧ base.sameCounter { base with asids := [(0, ⟨0, 0x30000, 16⟩)] } 0 3 = false := by decide +kernel
theorem witness_jobs : ({ base with jobs := [.done 7 0 0] } : State).jobs = .done 7 0 0 :: [] ∧ base.vfAsid 0 = some 0 ∧ base.hostLink = true
    ∧ base.rangeComplete 0 0 (mkHandle 2 0) 4096 = true ∧ okAnd (base.readHandle 0 0 (mkHandle 2 0) 1) (fun _ => true) = true
    ∧ okAnd (base.storeHandle 0 0 (mkHandle 2 0) [6]) (fun _ => true) = true := by
  refine ⟨?_, ?_, ?_, ?_, ?_, ?_⟩ <;> decide +kernel
theorem witness_storage : ({ base with ports := [(0, ⟨true, true, 0, []⟩)] } : State).storageLink = true ∧ base.storageLink = false := by decide +kernel
theorem witness_stread_job : ({ base with jobs := [.stread 7 0 0 (mkHandle 2 0) 4096] } : State).jobs = .stread 7 0 0 (mkHandle 2 0) 4096 :: []
    ∧ ({ base with partials := [⟨1, 1, 2048, 0, 0, 5, [0x40000], [1], 100⟩] } : State).rangeComplete 0 0 (mkHandle 2 0) 4096 = false := by decide +kernel
theorem witness_gang : base.queue? 0 0 = some sceneQueue ∧ Tbl.get? base.gangs 4 = none ∧ base.gangLaunch 0 0 3 = none ∧ (3 : Nat) < sceneQueue.size
    ∧ ({ base with status := 0x1000001 } : State).status.getLsbD 24 = true ∧ pendingS.gangLaunch 0 0 0 = some 1 ∧ corLaunch.cor = true := by decide +kernel
theorem witness_leads : Leads (gangS gang2) 4 gang2 ∧ ∀ i, 0 < i → i < gang2.count → i = 1 ∨ i ∈ gang2.arms := by
  unfold Leads
  refine ⟨by decide +kernel, fun i h1 h2 => .inl ?_⟩
  have : gang2.count = 2 := rfl
  omega
theorem witness_gang_more : ∃ i, 0 < i ∧ i < ({ gang2 with count := 3 } : Gang).count ∧ i ≠ 1 ∧ i ∉ ({ gang2 with count := 3 } : Gang).arms := ⟨2, by decide⟩
theorem witness_gang_start : gangPending.gangMay { pendingL with gang := some 4 } = true
    ∧ ((gangPending.tryPlace 1 { pendingL with gang := some 4 }).map fun s => gangPending.wakes s) = some [] := by decide +kernel
theorem witness_gang_timers : gang2.at_ + 10000000 ≤ 10000000 ∧ gang2.armAt + 20000000 ≤ 20000000 ∧ ({ gang2 with member := 1, eager := true } : Gang).armed = true := by
  decide
theorem witness_remote : base.up = true ∧ base.served = [] ∧ base.moves = [] ∧ base.lost = []
    ∧ okAnd (base.checkGlobal 999 0 .copyRead (mkHandle 2 0) 0 2 0 1) (fun d => d.kind != 4
        && okAnd (base.globalPieces 999 0 0 d 2 0 2) (fun ps => ps.map (fun p => (p.loc, p.off, p.len)) == [(0x40000, 0, 2)])) = true := by
  refine ⟨?_, ?_, ?_, ?_, ?_⟩ <;> decide +kernel
theorem witness_remote_refused : okAnd (base.checkGlobal 999 0 .copyRead (mkHandle 9 0) 0 2 0 1) (fun _ => true) = false := by decide +kernel
theorem witness_remote_reply : farS.team? farT.tk = some farT ∧ farS.remotes.find? (fun r => r.id == far.id) = some far ∧ far.dest ∉ farS.routes
    ∧ far.at_ + 1000000 ≤ ({ farS with thyme := 1000000 } : State).thyme := by decide +kernel
def farChunk : Remote := ⟨5, 6, ⟨0, 5, 0, 2, 0, .write [1]⟩, .chunk 0 1, 0⟩
theorem witness_remote_chunk : ({ copyS copy0 with remotes := [farChunk] } : State).remotes.find? (fun r => r.id == farChunk.id) = some farChunk
    ∧ ((copyS copy0).core 0).copies = [copy0] ∧ copy0.id = 1 := by decide +kernel
def farRead : Remote := ⟨5, 6, ⟨0, 5, 0, 2, 0, .read 1⟩, .chunk 0 1, 0⟩
theorem witness_remote_read : ({ copyS copy0 with remotes := [farRead] } : State).remotes.find? (fun r => r.id == farRead.id) = some farRead
    ∧ farRead.req.op = .read 1 ∧ copy0.fail = false := by decide +kernel
theorem witness_port : Tbl.get? ({ base with ports := [(2, ⟨true, false, 7, []⟩)] } : State).ports 2 = some ⟨true, false, 7, []⟩ := by decide
theorem witness_port_fails : (7 : Nat) + 1 = 8 ∧ ((List.replicate 999 (0 : Nat)).filter fun t => decide (0 < t + 1000000)).length = 999 := by decide +kernel
theorem witness_bar2 : base.Canonical ∧ (base.bar2Addr 0 0x40000).isSome = true ∧ base.hostLink = true ∧ base.lost = [] ∧ base.moves = [] := by decide +kernel
theorem witness_boot : fld State.reset.status 7 0 = 0 ∧ fld (0x200000002 : QWord) 7 0 = 2 ∧ fld base.status 7 0 = 1 ∧ State.reset.Canonical
    ∧ State.reset.flash = none ∧ ({ State.reset with flash := some .good } : State).flash = some .good := by decide +kernel

end Sys2Proof.Tests
end

/-! PROOFS. The start of the next 256 bytes of a copy (R12, R75, R154), and why O48 and O49 do not hold: they ask that a start counts 256
bytes more of every copy whose `part` is a multiple of 256, and leave out that `part` stays below the 4,096 bytes of a chunk. No start
leaves a copy with more (`Copy.part_begin_lt`), and below that bound a start does what both statements say (`State.startPart_chunkDone`);
from that bound on it only passes to the next chunk (`Copy.begun_begin_of_full`). -/

namespace Sys2Proof.Machine

/-! ## Counting bytes as started -/

/-- A start that comes to the end of its chunk passes to the next one; any other stays in it, up to 256 bytes on. -/
theorem Copy.begin_eq (c : Copy) (cycle : Nat) :
    c.begin cycle =
      if min 4096 (c.size - 4096 * c.chunk) ≤ c.part + min 256 (min 4096 (c.size - 4096 * c.chunk) - c.part) then
        { c with chunk := c.chunk + 1, part := 0, last := cycle, starve := false }
      else
        { c with part := c.part + min 256 (min 4096 (c.size - 4096 * c.chunk) - c.part), last := cycle, starve := false } := rfl

/-- A start changes the place of a copy, the cycle of its last start and its starvation, and nothing else. -/
theorem Copy.begin_frame (c : Copy) (cycle : Nat) :
    c.begin cycle = { c with chunk := (c.begin cycle).chunk, part := (c.begin cycle).part, last := cycle, starve := false } := by
  rw [Copy.begin_eq]
  split <;> rfl

@[simp] theorem Copy.begin_id (c : Copy) (cycle : Nat) : (c.begin cycle).id = c.id := by
  rw [Copy.begin_frame]

/-- A start leaves less than a chunk started in part, whatever it finds. -/
theorem Copy.part_begin_lt (c : Copy) (cycle : Nat) : (c.begin cycle).part < 4096 := by
  rw [Copy.begin_eq]
  split
  · exact Nat.zero_lt_succ _
  · dsimp only
    omega

/-- Within a chunk a start counts 256 bytes more, or the rest of the data. -/
theorem Copy.begun_begin (c : Copy) (cycle : Nat) (hpart : c.part % 256 = 0) (hlt : c.part < 4096) :
    min c.size (c.begin cycle).begun = min c.size (c.begun + 256) := by
  rw [Copy.begin_eq]
  unfold Copy.begun
  split <;> dsimp only <;> omega

/-- At the end of a chunk a start counts no byte: the copy passes to the next chunk. -/
theorem Copy.begun_begin_of_full (c : Copy) (cycle : Nat) (hfull : 4096 ≤ c.part) :
    (c.begin cycle).begun = 4096 * (c.chunk + 1) := by
  rw [Copy.begin_eq, if_pos (by omega)]
  rfl

/-! ## A start in its core -/

/-- The copies of a core after a change of one of them. -/
theorem State.copies_modCopy (s : State) (core id : Nat) (f : Copy → Copy) :
    ((s.modCopy core id f).core core).copies = (s.core core).copies.map fun x => if x.id = id then f x else x := by
  simp [State.modCopy, State.core_modCore]

/-- A copy that is replaced by one of its name is found under it. -/
theorem Copy.find?_replaced {l : List Copy} {c0 d : Copy} (hfind : l.find? (fun x => x.id == d.id) = some c0) :
    (l.map fun x => if x.id = d.id then d else x).find? (fun x => x.id == d.id) = some d := by
  induction l with
  | nil => simp at hfind
  | cons x r ih =>
    by_cases hx : x.id = d.id
    · simp [hx]
    · simp only [List.find?_cons, beq_eq_false_iff_ne.mpr hx] at hfind
      simp [hx, ih hfind]

/-- Translating a chunk gives its pieces and the descriptor of the copy's tensor, and leaves the rest of the copy. -/
theorem State.mapChunk_frame {s : State} {t : Team} {c c1 : Copy} (hmap : s.mapChunk t c = .ok c1) :
    c1 = { c with geo := c1.geo, reads := c1.reads, puts := c1.puts } := by
  unfold State.mapChunk at hmap
  dsimp only at hmap
  split at hmap
  · split at hmap
    · cases hmap; rfl
    all_goals cases hmap
  · split at hmap
    · cases hmap
    · split at hmap
      · cases hmap; rfl
      all_goals cases hmap

section Start

/-! The copy c stands in a core, may start its next 256 bytes, and is c1 once its chunk is translated, where that is to be done. -/

variable {s : State} {core : Nat} {t : Team} {c c0 c1 : Copy} {test : Bool}
  (hfind : (s.core core).copies.find? (fun x => x.id == c.id) = some c0) (hteam : s.team? c.tk = some t)
  (hready : s.partReady core t c = true)
  (hadmit : test = false ∨ c.starve = true ∨ (s.core core).admits t.prio ((s.core core).cost 7) = true)
  (hmap : (if c.part = 0 then s.mapChunk t c else .ok c) = .ok c1)

include hmap in
theorem State.startMapped_frame : c1 = { c with geo := c1.geo, reads := c1.reads, puts := c1.puts } := by
  split at hmap
  · exact State.mapChunk_frame hmap
  · cases hmap; rfl

include hteam hready hadmit hmap

/-- What a start makes of the state. -/
theorem State.startPart_of_mapped :
    s.startPart core c test = (((s.chargeCore core ((s.core core).cost 7)).modCore core fun k =>
      { k with streamed := k.streamed + min 256 (c1.size - c1.begun) }).modCopy core c.id fun _ => c1.begin s.cycle) := by
  have hprio : s.enginePrio c.tk c.prio = t.prio := by simp [State.enginePrio, hteam]
  have hpass : (test && !c.starve && !(s.core core).admits (s.enginePrio c.tk c.prio) ((s.core core).cost 7)) = false := by
    rw [hprio]
    rcases hadmit with h | h | h <;> simp [h]
  unfold State.startPart
  simp [hteam, hready, hpass, hmap]

include hfind

/-- The copy that a start leaves in its core. -/
theorem State.find?_startPart :
    ((s.startPart core c test).core core).copies.find? (fun x => x.id == c.id) = some (c1.begin s.cycle) := by
  have hid : (c1.begin s.cycle).id = c.id := by rw [Copy.begin_id, State.startMapped_frame hmap]
  rw [← hid] at hfind
  rw [State.startPart_of_mapped hteam hready hadmit hmap, State.copies_modCopy, ← hid]
  simp only [State.chargeCore, State.core_modCore, if_true]
  exact Copy.find?_replaced hfind

/-- Within a chunk a start does what O48 and O49 say of it. -/
theorem State.startPart_chunkDone (hpart : c.part % 256 = 0) (hlt : c.part < 4096) :
    ChunkDone s (s.startPart core c test) core c1 := by
  have hframe := State.startMapped_frame hmap
  have hid : c1.id = c.id := by rw [hframe]
  have hpart1 : c1.part = c.part := by rw [hframe]
  have hfound := State.find?_startPart hfind hteam hready hadmit hmap
  have hstart := State.startPart_of_mapped hteam hready hadmit hmap
  refine ⟨?_, fun k hk => ?_, ?_, _, hid ▸ hfound, Copy.begin_frame c1 s.cycle,
    Copy.begun_begin c1 s.cycle (hpart1 ▸ hpart) (hpart1 ▸ hlt)⟩
  · rw [hstart]; rfl
  · rw [hstart]
    simp [State.modCopy, State.chargeCore, State.core_modCore, hk]
  · rw [hstart]
    simp [State.modCopy, State.chargeCore, State.core_modCore]

omit hmap

/-- A copy that has started all 4,096 bytes of its chunk and does not stand in the next one: its start counts no byte, and is not what O48
and O49 say. -/
theorem State.startPart_not_chunkDone (hfull : 4096 ≤ c.part) (hrest : c.begun < c.size) :
    ¬ ChunkDone s (s.startPart core c test) core c := by
  rintro ⟨-, -, -, c', hc', -, hbegun⟩
  have hmap : (if c.part = 0 then s.mapChunk t c else .ok c) = .ok c := if_neg (by omega)
  rw [State.find?_startPart hfind hteam hready hadmit hmap, Option.some.injEq] at hc'
  rw [← hc', Copy.begun_begin_of_full c s.cycle hfull] at hbegun
  unfold Copy.begun at hbegun hrest
  omega

end Start

/-! ## The counterexample: a copy of 8,192 bytes that stands at the end of its first chunk -/

def fullPartCopy : Copy where
  id := 1
  tk := sceneTeam.tk
  ct := 0
  src := ⟨0, mkHandle 2 0⟩
  dst := ⟨1, 0⟩
  len := 8192
  win := none
  rmode := 0
  geo := []
  chunk := 0
  part := 4096
  reads := []
  puts := []
  buf := []
  writes := []
  seen := []
  remote := 0
  arr := none
  held := false
  fail := false
  away := false
  crew := sceneTeam.crewKey
  prio := sceneTeam.prio
  last := 0
  starve := true
  pc := sceneTeam.pc
  word := 0

/-- The scene's module, 512 core cycles on, with that copy in core 0. -/
def fullPartState : State :=
  { State.reset.scene with cores := [(0, { Core.reset with copies := [fullPartCopy] })], cycle := 512 }

theorem fullPartState_copyIs : CopyIs fullPartState 0 sceneTeam fullPartCopy := by
  unfold CopyIs
  decide +kernel

theorem fullPartState_partReady : fullPartState.partReady 0 sceneTeam fullPartCopy = true := by decide +kernel

/-- It is the copy that the starvation start of R154 takes. -/
theorem fullPartState_late : (fullPartState.core 0).copies.find? (fullPartState.copyLate 0) = some fullPartCopy := by decide +kernel

theorem fullPartState_not_chunkDone (test : Bool) :
    ¬ ChunkDone fullPartState (fullPartState.startPart 0 fullPartCopy test) 0 fullPartCopy :=
  have ⟨hfind, _, hteam, _⟩ := fullPartState_copyIs
  State.startPart_not_chunkDone hfind hteam fullPartState_partReady (.inr (.inl rfl)) (Nat.le_refl 4096) (by decide)

/-- COPY_CHUNK of that copy is its start. -/
theorem fullPartState_copyChunk :
    exec (.copyChunk 0 fullPartCopy.id) fullPartState = .next (fullPartState.startPart 0 fullPartCopy true) := by
  have hfind : fullPartState.copyOf 0 fullPartCopy.id = some fullPartCopy := fullPartState_copyIs.1
  rw [exec_copyChunk, execCopyChunk, hfind]

/-- ENGINE_STARVATION_START of its core is its start too. -/
theorem fullPartState_starvationStart :
    exec (.engineStarvationStart 0 true) fullPartState = .next (fullPartState.startPart 0 fullPartCopy false) := by
  rw [exec_engineStarvationStart, execEngineStarvationStart, if_pos rfl, fullPartState_late]
  rfl

/-- Refutes O48: its first clause asks a start for 256 bytes more of a copy that stands at the end of its chunk (`part` = 4096, of 8,192
bytes), which the start only passes to its next chunk; the clause lacks `c.part < 4096`. -/
theorem not_copySteps : ¬ Obligations.CopySteps := by
  unfold Obligations.CopySteps
  rintro ⟨⟨hchunk, -⟩, -⟩
  obtain ⟨s', hexec, hdone⟩ := hchunk fullPartState 0 sceneTeam fullPartCopy fullPartCopy fullPartState_copyIs fullPartState_partReady
    (by decide) (.inl rfl) (fun h => absurd h (by decide)) fun _ => rfl
  rw [fullPartState_copyChunk] at hexec
  exact fullPartState_not_chunkDone true (Host.Outcome.next.inj hexec ▸ hdone)

/-- Refutes O49: its clause of a starving copy asks the same of the same copy, and lacks `c.part < 4096` too. -/
theorem not_matrixSteps : ¬ Obligations.MatrixSteps := by
  unfold Obligations.MatrixSteps
  rintro ⟨-, -, -, -, -, -, hlate, -⟩
  obtain ⟨s', hexec, hdone⟩ := hlate fullPartState 0 sceneTeam fullPartCopy fullPartCopy fullPartState_copyIs fullPartState_late
    (by decide) (fun h => absurd h (by decide)) fun _ => rfl
  rw [fullPartState_starvationStart] at hexec
  exact fullPartState_not_chunkDone false (Host.Outcome.next.inj hexec ▸ hdone)

end Sys2Proof.Machine

/-! PROOFS. Selects, predicate moves, classes and compares (R17, R183, R191 to R195): O13. What a lane instruction and an instruction that
writes predicates do with the team is said by laneOp_run and predOp_run; here stand the values. -/

namespace Sys2Proof.Machine

/-! ## Instructions that retire at the next PC -/

/-- Where it names no register beyond the launch's, the instruction gives a next state and its team goes on at the next PC (R164, R60). -/
def Retires (i : Instr) : Prop :=
  ∀ (s : State) (t : Team), Runs s t → i.highReg t.regs = none →
    ∃ s' t', exec i s = .next s' ∧ s'.team? t.tk = some t' ∧ t'.pc = t.nextPc ∧ t'.clock = t.clock + 1

theorem LaneRun.retires {i : Instr} {nw : Bool} {vd : BitVec 6} {pg : Nat} {val : State → Team → Nat → Word}
    (h : LaneRun i nw vd pg val) : Retires i := by
  intro s t hruns hregs
  obtain ⟨s', t', hexec, hone, hframe, -⟩ := h s t hruns hregs
  exact ⟨s', t', hexec, hone.self, congrArg Team.pc hframe, congrArg Team.clock hframe⟩

theorem PredRun.retires {i : Instr} {pds : List Nat} {pg : Nat} {val : Team → Nat → Nat → Bool} (h : PredRun i pds pg val) : Retires i := by
  intro s t hruns hregs
  obtain ⟨s', t', hexec, hone, hframe, -⟩ := h s t hruns hregs
  exact ⟨s', t', hexec, hone.self, congrArg Team.pc hframe, congrArg Team.clock hframe⟩

/-- The same predicates may be said in another way. -/
theorem PredRun.congr {i : Instr} {pds : List Nat} {pg : Nat} {f g : Team → Nat → Nat → Bool} (h : PredRun i pds pg f)
    (hfg : ∀ t n L, f t n L = g t n L) : PredRun i pds pg g := by
  have : f = g := by funext t n L; exact hfg t n L
  rwa [← this]

/-! ## Sums and counts of lanes -/

/-- A count added to a word wraps to 32 bits. -/
theorem add_ofNat_eq_wrap32 (a : Word) (n : Nat) : a + BitVec.ofNat 32 n = wrap32 (a.toInt + n) := by
  rw [wrap32, BitVec.ofInt_add, BitVec.ofInt_toInt, BitVec.ofInt_natCast]

/-- The number of a set of bits is the sum of their weights. -/
theorem natOfBits_eq_sum (f : Nat → Bool) (n : Nat) :
    natOfBits f n = ((List.range n).map fun i => if f i then 2 ^ i else 0).sum := by
  induction n with
  | zero => rfl
  | succ n ih => rw [natOfBits, List.range_succ, List.map_append, List.sum_append, ih]; rfl

/-- The lanes below L in which an instruction acts, counted. -/
theorem length_filter_acts (s : State) (t : Team) (pg L : Nat) :
    ((List.range L).filter fun M => (s.activeLanes t).getLsbD M && t.pred pg M).length
      = (List.range L).countP fun M => decide (Acts s t pg M) := by
  rw [List.countP_eq_length_filter]
  simp only [Bool.decide_and, Bool.decide_eq_true]

/-! ## The class of an FP32 word (Table 11.5) -/

/-- The sign bit, as the bound that fclass tests. -/
theorem getLsbD_31 (a : Word) : a.getLsbD 31 = decide (2 ^ 31 ≤ a.toNat) :=
  BitVec.msb_eq_getLsbD_last a ▸ BitVec.msb_eq_decide a

/-- The quiet bit is the highest of the significand field. -/
theorem getLsbD_22_iff (a : Word) : a.getLsbD 22 = true ↔ a.toNat % 2 ^ 23 / 2 ^ 22 ≠ 0 := by
  rw [BitVec.getLsbD, Nat.testBit_eq_decide_div_mod_eq, decide_eq_true_iff]
  omega

/-- The class as VFCLS gives it, one bit of ten. -/
theorem two_pow_fclass (a : Word) :
    2 ^ fclass a =
      let E := a.toNat / 2 ^ 23 % 256
      let M := a.toNat % 2 ^ 23
      if E = 255 ∧ M ≠ 0 then (if a.getLsbD 22 then 2 ^ 9 else 2 ^ 8)
      else if E = 255 then (if a.getLsbD 31 then 2 ^ 0 else 2 ^ 7)
      else if E ≠ 0 then (if a.getLsbD 31 then 2 ^ 1 else 2 ^ 6)
      else if M ≠ 0 then (if a.getLsbD 31 then 2 ^ 2 else 2 ^ 5)
      else (if a.getLsbD 31 then 2 ^ 3 else 2 ^ 4) := by
  simp only [fclass, ← getLsbD_31, getLsbD_22_iff]
  generalize a.toNat % 2 ^ 23 / 2 ^ 22 = quiet
  generalize a.toNat / 2 ^ 23 % 256 = E, a.toNat % 2 ^ 23 = M
  by_cases htop : E = 255
  · by_cases hM : M = 0
    · simp [htop, hM, pow_ite]
    · by_cases hquiet : quiet = 0 <;> simp [htop, hM, hquiet]
  · by_cases hbottom : E = 0
    · by_cases hM : M = 0 <;> simp [hbottom, hM, pow_ite]
    · simp [htop, hbottom, pow_ite]

/-! ## The conditions of the compares (Tables 11.3 and 11.4) -/

/-- VCMP's conditions, on the numbers of the two words. -/
theorem condI_eq {w : Nat} (c : Cond) (a b : BitVec w) :
    condI c a b =
      match c with
      | .eq => decide (a.toNat = b.toNat) | .ne => decide (a.toNat ≠ b.toNat)
      | .lt => decide (a.toInt < b.toInt) | .le => decide (a.toInt ≤ b.toInt)
      | .gt => decide (a.toInt > b.toInt) | .ge => decide (a.toInt ≥ b.toInt)
      | .ltn => decide (a.toNat < b.toNat) | .gen => decide (a.toNat ≥ b.toNat) := by
  rw [Bool.eq_iff_iff]
  cases c with
  | eq | ne => simp only [condI, beq_iff_eq, bne_iff_ne, ne_eq, BitVec.toNat_inj, decide_eq_true_iff]
  | _ => exact Iff.rfl

/-- An FP32 word's value by its one name. -/
theorem dec_toNat (a : Word) : fp32.dec a.toNat = fv a := rfl

/-- VCMPF's conditions, on the order of the two values, which is none where one of them is a NaN. -/
theorem condF_eq (c : Cond) (a b : Word) :
    condF c a b =
      let r := (fv a).cmp (fv b)
      match c with
      | .eq => decide (r = some 0) | .ne => decide (r ≠ some 0)
      | .lt => decide (r = some (-1)) | .le => decide (r = some (-1) ∨ r = some 0)
      | .gt => decide (r = some 1) | .ge => decide (r = some 1 ∨ r = some 0)
      | .ltn => decide (r = none) | .gen => decide (r ≠ none) := by
  rw [Bool.eq_iff_iff]
  cases c <;> simp only [condF, dec_toNat, beq_iff_eq, bne_iff_ne, Bool.or_eq_true, decide_eq_true_iff]

/-! ## The instructions -/

theorem vsel_run (o : VR) :
    LaneRun (.vsel o) o.nw o.vd 0 fun _ t L => if t.pred o.pg.toNat L then t.src .int o.sa L else t.src .int o.sb L :=
  laneOp_run fun s => by rw [exec_vsel, execVsel]

theorem vpop_run (o : VU) :
    LaneRun (.vpop o) o.nw o.vd 0 fun s t L =>
      wrap32 ((t.src .int o.sa L).toInt + (List.range L).countP fun M => decide (Acts s t o.pg.toNat M)) :=
  laneOp_run fun s => by
    simp only [← add_ofNat_eq_wrap32, ← length_filter_acts]
    rw [exec_vpop, execVpop]

theorem vp2v_run (o : VP) :
    LaneRun (.vp2v o) o.nw o.vd o.pg.toNat fun _ t L =>
      BitVec.ofNat 32 (((List.range 8).map fun i => if t.pred i L then 2 ^ i else 0).sum) :=
  laneOp_run fun s => by
    simp only [← natOfBits_eq_sum]
    rw [exec_vp2v, execVp2v]

theorem vcmp_run (o : VC) :
    PredRun (.vcmp o) [o.pd.toNat] o.pg.toNat fun t _ L => condI o.cond (t.src .int o.sa L) (t.src .int o.sb L) :=
  predOp_run fun s => by rw [exec_vcmp, execVcmp]

theorem vcmpf_run (o : VC) :
    PredRun (.vcmpf o) [o.pd.toNat] o.pg.toNat fun t _ L => condF o.cond (t.src .f32 o.sa L) (t.src .f32 o.sb L) :=
  predOp_run fun s => by rw [exec_vcmpf, execVcmpf]

theorem vv2p_any_run (o : VV) (h : o.cond = .any) :
    PredRun (.vv2p o) [o.pd.toNat] o.pg.toNat fun t _ L => decide (t.src .int o.sa L &&& t.src .int o.sb L ≠ 0) :=
  predOp_run fun s => by
    rw [exec_vv2p, execVv2p, h]
    simp only [bne, beq_eq_decide, ne_eq, decide_not]

theorem vv2p_none_run (o : VV) (h : o.cond = .none) :
    PredRun (.vv2p o) [o.pd.toNat] o.pg.toNat fun t _ L => decide (t.src .int o.sa L &&& t.src .int o.sb L = 0) :=
  predOp_run fun s => by
    rw [exec_vv2p, execVv2p, h]
    simp only [beq_eq_decide]

/-- VV2P.all writes p1 to p7, whatever pd names. -/
theorem vv2p_all_run (o : VV) (h : o.cond = .all) :
    PredRun (.vv2p o) [1, 2, 3, 4, 5, 6, 7] o.pg.toNat fun t n L => (t.src .int o.sa L).getLsbD n :=
  predOp_run fun s => by rw [exec_vv2p, execVv2p, h]

theorem vv2p_retires (o : VV) : Retires (.vv2p o) := by
  cases h : o.cond with
  | any => exact (vv2p_any_run o h).retires
  | none => exact (vv2p_none_run o h).retires
  | all => exact (vv2p_all_run o h).retires

/-- VFCLS sets the bit that the class of its source numbers (R195). -/
theorem vfcls_run : VuRun .vfcls .f32 fun _ a => BitVec.ofNat 32 (2 ^ fclass a) :=
  vuOp_run (fun o s => by rw [exec_vfcls, execVfcls]) fun _ _ => rfl

/-- Settles O13: each value is the model's, said as the spec says it, and every instruction of the family retires. -/
theorem lanePredicates : Obligations.LanePredicates := by
  unfold Obligations.LanePredicates
  refine ⟨⟨⟨vsel_run, vpop_run, vp2v_run, fun o => ?_⟩, fun o => ?_, fun o => ?_, vv2p_any_run, vv2p_none_run, vv2p_all_run⟩,
    fun o0 o1 o2 o3 o4 s t hruns i hi => ?_⟩
  · exact (vfcls_run o).congr fun _ t L => congrArg (BitVec.ofNat 32) (two_pow_fclass (t.src .f32 o.sa L))
  · exact (vcmp_run o).congr fun t _ L => condI_eq o.cond (t.src .int o.sa L) (t.src .int o.sb L)
  · exact (vcmpf_run o).congr fun t _ L => condF_eq o.cond (t.src .f32 o.sa L) (t.src .f32 o.sb L)
  · suffices hret : Retires i from hret s t hruns
    simp only [List.mem_cons, List.not_mem_nil, or_false] at hi
    obtain rfl | rfl | rfl | rfl | rfl | rfl | rfl := hi
    · exact (vsel_run o0).retires
    · exact (vpop_run o1).retires
    · exact (vp2v_run o2).retires
    · exact (vfcls_run o1).retires
    · exact (vcmp_run o3).retires
    · exact (vcmpf_run o3).retires
    · exact vv2p_retires o4

end Sys2Proof.Machine
